-- ==== Sys2Proof/Word.lean ====
section
/-! DEFINITION. The word types of the NS32GX32 (00_scope R8, R11) and their plainest names. -/

namespace Sys2Proof

/-- A byte, 8 bits (R8). -/
abbrev Byte := BitVec 8
/-- A word of the manual, 16 bits (R8). -/
abbrev Half := BitVec 16
/-- A double-word, 32 bits: registers and addresses (R8). -/
abbrev Word := BitVec 32
/-- A quad-word, 64 bits: the widest operand (R266). -/
abbrev Quad := BitVec 64
/-- A general register number, 3 bits (R183). -/
abbrev RegNum := BitVec 3

end Sys2Proof
end

