-- ==== Sys2Proof/Syntax.lean ====
section
/-! DEFINITION. The instructions as syntax: one constructor of `Instr` for each row of
spec/opcode_table.json. Fields the encoding carries without a meaning (R244, log 11) are kept as `pad`,
so that an instruction and its bytes determine each other. -/

namespace Sys2Proof

/-- The `i` field (R11, R183): B = 00, W = 01, D = 11; `u` is the unassigned 10 (R240). -/
inductive Size where
  | b | w | u | d
  deriving DecidableEq, Repr

/-- The `f` field (R183): F (standard, 32 bits) = 1, L (long, 64 bits) = 0. -/
inductive FSize where
  | std | long
  deriving DecidableEq, Repr

/-- The `c` field (R183): D (32 bits) = 1, Q (64 bits) = 0. -/
inductive CSize where
  | dbl | quad
  deriving DecidableEq, Repr

/-- The condition codes of R211, in the order of their encodings 0000 to 1111. -/
inductive Cond where
  | eq | ne | cs | cc | hi | ls | gt | le | fs | fc | lo | hs | lt | ge | always | never
  deriving DecidableEq, Repr

/-- The `areg` codes of R52, in the order of their encodings; `res5` to `res7` are the reserved 0101 to 0111. -/
inductive AReg where
  | upsr | dcr | bpc | dsr | car | res5 | res6 | res7 | fp | sp | sb | usp | cfg | psr | intbase | mod
  deriving DecidableEq, Repr

/-- A displacement in one of its three lengths (R200); the length is part of the instruction's bytes. -/
inductive Disp where
  | d7 (v : BitVec 7)
  | d14 (v : BitVec 14)
  | d30 (v : BitVec 30)
  deriving DecidableEq, Repr

/-- The registers of Memory Relative mode (R273). -/
inductive PtrReg where
  | fp | sp | sb
  deriving DecidableEq, Repr

/-- The registers of Memory Space mode (R272). -/
inductive SpaceReg where
  | fp | sp | sb | pc
  deriving DecidableEq, Repr

/-- The scale of Scaled Index mode (R279): 1, 2, 4, 8. -/
inductive Scale where
  | b | w | d | q
  deriving DecidableEq, Repr

/-- The addressing modes that are not Scaled Index (R270 to R278). -/
inductive Mode where
  | reg (n : RegNum)
  | regRel (n : RegNum) (d : Disp)
  | memRel (r : PtrReg) (d1 d2 : Disp)
  | imm (v : Quad)
  | abs (d : Disp)
  | ext (d1 d2 : Disp)
  | tos
  | space (r : SpaceReg) (d : Disp)
  deriving DecidableEq, Repr

/-- A general addressing mode (R190). `reserved` is code 10011; `idx` over an Immediate is illegal (R202) but has its
extension (R186); `idxBad` is Scaled Index whose base-mode field holds 10011 or 111xx. -/
inductive Gen where
  | mode (m : Mode)
  | reserved
  | idx (sc : Scale) (n : RegNum) (m : Mode)
  | idxBad (sc : Scale) (n : RegNum) (code : BitVec 5)
  deriving DecidableEq, Repr

/-- The U/W bits of the string options (R218): 00 none, 01 while, 10 unassigned, 11 until. -/
inductive Match where
  | none | whileMatch | unassigned | untilMatch
  deriving DecidableEq, Repr

/-- The options of a string instruction (R218) and its fixed-zero bits 23:19 and 14 (R244). -/
structure StrOpts where
  uw : Match
  back : Bool
  pad : BitVec 6
  deriving DecidableEq, Repr

/-- The instructions, one constructor for each row of the opcode table, in the table's order. -/
inductive Instr where
  -- Format 0 (R210)
  | beq (d : Disp) | bne (d : Disp) | bcs (d : Disp) | bcc (d : Disp)
  | bhi (d : Disp) | bls (d : Disp) | bgt (d : Disp) | ble (d : Disp)
  | bfs (d : Disp) | bfc (d : Disp) | blo (d : Disp) | bhs (d : Disp)
  | blt (d : Disp) | bge (d : Disp) | br (d : Disp) | bnever (d : Disp)
  -- Format 1 (R212)
  | bsr (d : Disp) | ret (d : Disp) | cxp (d : Disp) | rxp (d : Disp) | rett (d : Disp) | reti
  | save (m : Byte) | restore (m : Byte) | enter (m : Byte) (d : Disp) | exit (m : Byte)
  | nop | wait | dia | flag | svc | bpt
  -- Format 5 (R217)
  | movst (o : StrOpts) | movs (i : Size) (o : StrOpts)
  | cmpst (o : StrOpts) | cmps (i : Size) (o : StrOpts)
  | skpst (o : StrOpts) | skps (i : Size) (o : StrOpts)
  | setcfg (i : Size) (short : BitVec 4) (pad : BitVec 6)
  | undef5 (w : BitVec 16)
  -- Format 6 (R219)
  | rot (i : Size) (g1 g2 : Gen) | ash (i : Size) (g1 g2 : Gen)
  | cbit (i : Size) (g1 g2 : Gen) | cbiti (i : Size) (g1 g2 : Gen)
  | lsh (i : Size) (g1 g2 : Gen) | sbit (i : Size) (g1 g2 : Gen) | sbiti (i : Size) (g1 g2 : Gen)
  | neg (i : Size) (g1 g2 : Gen) | not (i : Size) (g1 g2 : Gen) | subp (i : Size) (g1 g2 : Gen)
  | abs (i : Size) (g1 g2 : Gen) | com (i : Size) (g1 g2 : Gen) | ibit (i : Size) (g1 g2 : Gen)
  | addp (i : Size) (g1 g2 : Gen)
  | undef6 (w : BitVec 16)
  -- Format 7 (R220)
  | movm (i : Size) (g1 g2 : Gen) (d : Disp) | cmpm (i : Size) (g1 g2 : Gen) (d : Disp)
  | inss (i : Size) (g1 g2 : Gen) (c : Byte) | exts (i : Size) (g1 g2 : Gen) (c : Byte)
  | movxbw (i : Size) (g1 g2 : Gen) | movzbw (i : Size) (g1 g2 : Gen)
  | movzd (i : Size) (g1 g2 : Gen) | movxd (i : Size) (g1 g2 : Gen)
  | mul (i : Size) (g1 g2 : Gen) | mei (i : Size) (g1 g2 : Gen) | dei (i : Size) (g1 g2 : Gen)
  | quo (i : Size) (g1 g2 : Gen) | rem (i : Size) (g1 g2 : Gen) | mod (i : Size) (g1 g2 : Gen)
  | div (i : Size) (g1 g2 : Gen)
  | undef7 (w : BitVec 16)
  -- Format 8 (R221)
  | extf (i : Size) (r : RegNum) (g1 g2 : Gen) (d : Disp) | cvtp (i : Size) (r : RegNum) (g1 g2 : Gen)
  | ins (i : Size) (r : RegNum) (g1 g2 : Gen) (d : Disp) | check (i : Size) (r : RegNum) (g1 g2 : Gen)
  | index (i : Size) (r : RegNum) (g1 g2 : Gen) | ffs (i : Size) (pad : BitVec 3) (g1 g2 : Gen)
  | movsu (i : Size) (g1 g2 : Gen) | movus (i : Size) (g1 g2 : Gen)
  | undef8sel (w : BitVec 16) | undef8op (w : BitVec 16)
  -- Format 9 (R222)
  | movif (f : FSize) (i : Size) (g1 g2 : Gen) | lfsr (fi : BitVec 3) (g1 : Gen) (pad : BitVec 5)
  | movlf (fi : BitVec 3) (g1 g2 : Gen) | movfl (fi : BitVec 3) (g1 g2 : Gen)
  | roundfi (f : FSize) (i : Size) (g1 g2 : Gen) | truncfi (f : FSize) (i : Size) (g1 g2 : Gen)
  | sfsr (fi : BitVec 3) (pad : BitVec 5) (g2 : Gen) | floorfi (f : FSize) (i : Size) (g1 g2 : Gen)
  -- Format 10 (R223)
  | undef10 (w : BitVec 16)
  -- Format 11 (R224)
  | addf (f : FSize) (pad : BitVec 1) (g1 g2 : Gen) | movf (f : FSize) (pad : BitVec 1) (g1 g2 : Gen)
  | cmpf (f : FSize) (pad : BitVec 1) (g1 g2 : Gen) | slot11at3 (f : FSize) (pad : BitVec 1) (g1 g2 : Gen)
  | subf (f : FSize) (pad : BitVec 1) (g1 g2 : Gen) | negf (f : FSize) (pad : BitVec 1) (g1 g2 : Gen)
  | slot11at6 (f : FSize) (pad : BitVec 1) (g1 g2 : Gen) | slot11at7 (f : FSize) (pad : BitVec 1) (g1 g2 : Gen)
  | divf (f : FSize) (pad : BitVec 1) (g1 g2 : Gen) | slot11at9 (f : FSize) (pad : BitVec 1) (g1 g2 : Gen)
  | slot11at10 (f : FSize) (pad : BitVec 1) (g1 g2 : Gen) | slot11at11 (f : FSize) (pad : BitVec 1) (g1 g2 : Gen)
  | mulf (f : FSize) (pad : BitVec 1) (g1 g2 : Gen) | absf (f : FSize) (pad : BitVec 1) (g1 g2 : Gen)
  | slot11at14 (f : FSize) (pad : BitVec 1) (g1 g2 : Gen) | slot11at15 (f : FSize) (pad : BitVec 1) (g1 g2 : Gen)
  -- Format 12 (R225)
  | polyf (f : FSize) (pad : BitVec 1) (g1 g2 : Gen) | dotf (f : FSize) (pad : BitVec 1) (g1 g2 : Gen)
  | scalbf (f : FSize) (pad : BitVec 1) (g1 g2 : Gen) | logbf (f : FSize) (pad : BitVec 1) (g1 g2 : Gen)
  | slot12 (op : BitVec 4) (f : FSize) (pad : BitVec 1) (g1 g2 : Gen)
  -- Format 13 (R223)
  | undef13 (w : BitVec 16)
  -- Format 14 (R227, R237)
  | cinv (a i d : Bool) (pad : BitVec 1) (g1 : Gen)
  | undef14 (w : BitVec 16)
  -- Format 15.0 (R228)
  | catst0 (w : BitVec 16) | catst1 (w : BitVec 16)
  | lcr (creg : BitVec 4) (i : BitVec 2) (pad : BitVec 1) (g1 : Gen)
  | scr (creg : BitVec 4) (i : BitVec 2) (pad : BitVec 1) (g1 : Gen)
  | undef150 (w : BitVec 16)
  -- Format 15.1 (R228)
  | ccv3ic (c : CSize) (i : Size) (g1 g2 : Gen) | lcsr (ci : BitVec 3) (g1 : Gen) (pad : BitVec 5)
  | ccv5qd (ci : BitVec 3) (g1 g2 : Gen) | ccv4dq (ci : BitVec 3) (g1 g2 : Gen)
  | ccv2ci (c : CSize) (i : Size) (g1 g2 : Gen) | ccv1ci (c : CSize) (i : Size) (g1 g2 : Gen)
  | scsr (ci : BitVec 3) (pad : BitVec 5) (g2 : Gen) | ccv0ci (c : CSize) (i : Size) (g1 g2 : Gen)
  -- Format 15.5 (R228)
  | ccal0 (c : CSize) (pad : BitVec 1) (g1 g2 : Gen) | cmov0 (c : CSize) (pad : BitVec 1) (g1 g2 : Gen)
  | ccmp0 (c : CSize) (pad : BitVec 1) (g1 g2 : Gen) | ccmp1 (c : CSize) (pad : BitVec 1) (g1 g2 : Gen)
  | ccal1 (c : CSize) (pad : BitVec 1) (g1 g2 : Gen) | cmov2 (c : CSize) (pad : BitVec 1) (g1 g2 : Gen)
  | ccal3 (c : CSize) (pad : BitVec 1) (g1 g2 : Gen) | cmov3 (c : CSize) (pad : BitVec 1) (g1 g2 : Gen)
  | ccal2 (c : CSize) (pad : BitVec 1) (g1 g2 : Gen) | cmov1 (c : CSize) (pad : BitVec 1) (g1 g2 : Gen)
  | slot155 (op : BitVec 4) (c : CSize) (pad : BitVec 1) (g1 g2 : Gen)
  -- Format 15, first bytes 56, 76, 96, D6, F6 (R228); Formats 16 to 19 (R223)
  | undef56 (w : BitVec 16) | undef76 (w : BitVec 16) | undef96 (w : BitVec 16)
  | undefD6 (w : BitVec 16) | undefF6 (w : BitVec 16)
  | undef16 (w : BitVec 16) | undef17 (w : BitVec 16) | undef18 (w : BitVec 16)
  | undef19 (nnn : BitVec 3)
  -- Format 2 (R213)
  | addq (i : Size) (q : BitVec 4) (g : Gen) | cmpq (i : Size) (q : BitVec 4) (g : Gen)
  | spr (i : Size) (r : AReg) (g : Gen) | scond (i : Size) (c : Cond) (g : Gen)
  | acb (i : Size) (q : BitVec 4) (g : Gen) (d : Disp) | movq (i : Size) (q : BitVec 4) (g : Gen)
  | lpr (i : Size) (r : AReg) (g : Gen)
  -- Format 3 (R215)
  | cxpd (i : Size) (g : Gen) | bicpsr (i : Size) (g : Gen) | jump (i : Size) (g : Gen)
  | bispsr (i : Size) (g : Gen) | adjsp (i : Size) (g : Gen) | jsr (i : Size) (g : Gen)
  | casei (i : Size) (g : Gen)
  | undef3 (gen : BitVec 5) (op : BitVec 4) (i : Size)
  -- Format 4 (R216)
  | add (i : Size) (g1 g2 : Gen) | cmp (i : Size) (g1 g2 : Gen) | bic (i : Size) (g1 g2 : Gen)
  | addc (i : Size) (g1 g2 : Gen) | mov (i : Size) (g1 g2 : Gen) | or (i : Size) (g1 g2 : Gen)
  | sub (i : Size) (g1 g2 : Gen) | addr (i : Size) (g1 g2 : Gen) | and (i : Size) (g1 g2 : Gen)
  | subc (i : Size) (g1 g2 : Gen) | tbit (i : Size) (g1 g2 : Gen) | xor (i : Size) (g1 g2 : Gen)
  deriving DecidableEq, Repr

end Sys2Proof
end

