-- ==== Sys2Proof/Machine/Sizes.lean ====
section
/-! DEFINITION. Operand sizes and the lengths of the extension fields (R11, R186, R190, R200). -/

namespace Sys2Proof

/-- Bytes of an integer operand (R11). An Immediate of the unassigned code i = 10, which has no size (R206, R240), has
0 bytes: DESIGN CHOICE (log 50). -/
def Size.bytes : Size → Nat
  | .b => 1 | .w => 2 | .u => 0 | .d => 4

/-- Bits of an integer operand (R11), written with the literal widths; 32 for the unassigned code, which no
instruction runs with (R240). -/
def Size.bits : Size → Nat
  | .b => 8 | .w => 16 | .u => 32 | .d => 32

/-- Bytes of a floating operand (R183). -/
def FSize.bytes : FSize → Nat
  | .std => 4 | .long => 8

/-- Bytes of a custom operand (R183). -/
def CSize.bytes : CSize → Nat
  | .dbl => 4 | .quad => 8

/-- The number of bytes of a displacement (R200). -/
def Disp.length : Disp → Nat
  | .d7 _ => 1 | .d14 _ => 2 | .d30 _ => 4

/-- The bytes of displacements that a mode adds (R190); an immediate adds the `n` bytes of its operand (R206). -/
def Mode.extLength (n : Nat) : Mode → Nat
  | .reg _ => 0
  | .regRel _ d => d.length
  | .memRel _ d1 d2 => d1.length + d2.length
  | .imm _ => n
  | .abs d => d.length
  | .ext d1 d2 => d1.length + d2.length
  | .tos => 0
  | .space _ d => d.length

/-- Index byte and extension bytes of a general operand of `n` bytes (R186). Scaled Index over Scaled Index has its own
index byte only, since R180 has one for each gen field: DESIGN CHOICE (log 50). -/
def Gen.length (n : Nat) : Gen → Nat
  | .mode m => m.extLength n
  | .reserved => 0
  | .idx _ _ m => 1 + m.extLength n
  | .idxBad _ _ _ => 1

end Sys2Proof
end

