-- ==== Sys2Proof/WellFormed.lean ====
section
/-! DEFINITION. Well-formed instructions: those whose fields the encoding can hold, each with one encoding. -/

namespace Sys2Proof

/-- The first byte 11100000 is reserved (R201): no displacement has it. -/
def Disp.wf : Disp → Bool
  | .d7 _ => true
  | .d14 _ => true
  | .d30 v => v.extractLsb' 24 6 != 0b100000#6

/-- An immediate is as wide as its operand's `n` bytes (R206). -/
def Mode.wf (n : Nat) : Mode → Bool
  | .reg _ => true
  | .regRel _ d => d.wf
  | .memRel _ d1 d2 => d1.wf && d2.wf
  | .imm v => decide (v.toNat < 256 ^ n)
  | .abs d => d.wf
  | .ext d1 d2 => d1.wf && d2.wf
  | .tos => true
  | .space _ d => d.wf

/-- Whether a mode is Immediate. -/
def Mode.isImm : Mode → Bool
  | .imm _ => true
  | .reg _ => false
  | .regRel _ _ => false
  | .memRel _ _ _ => false
  | .abs _ => false
  | .ext _ _ => false
  | .tos => false
  | .space _ _ => false

/-- The base-mode codes of Scaled Index that are no mode with an extension: 10011 and 111xx (R190, R202). -/
def badBase (code : BitVec 5) : Bool := code == 0b10011#5 || code.extractLsb' 2 3 == 0b111#3

/-- A general operand of `n` bytes (R190, R202). -/
def Gen.wf (n : Nat) : Gen → Bool
  | .mode m => m.wf n
  | .reserved => true
  | .idx _ _ m => m.wf n
  | .idxBad _ _ code => badBase code

/-- Size codes of Formats 2, 3 and 4, where 10 cannot occur (R240). -/
def Size.assigned : Size → Bool
  | .b => true | .w => true | .u => false | .d => true

/-- Bits 13:10 of an operation word. -/
def opOf (w : BitVec 16) : BitVec 4 := w.extractLsb' 2 4

/-- The operation words of Format 5 that no named row of the opcode table claims (R217, R252). -/
def undef5Word (w : BitVec 16) : Bool :=
  w.extractLsb' 4 2 != 0#2 || (opOf w != 2#4 && w.getLsbD 7 && w.extractLsb' 0 2 != 0#2)

/-- The operation words of Format 8, first byte AE with bit 10 = 1, that select no instruction (R221). -/
def undef8Word (w : BitVec 16) : Bool :=
  w.getLsbD 2 && w.extractLsb' 3 3 != 0b001#3 && w.extractLsb' 3 3 != 0b011#3

/-- The operation words of Format 14 that are not CINV (R227, R237; with op 1001 a DESIGN CHOICE against U12, log 37). -/
def undef14Word (w : BitVec 16) : Bool :=
  !(w.getLsbD 10 == false && opOf w == 0b1001#4 && w.extractLsb' 0 2 == 0b11#2)

/-- The unassigned opcodes of Format 12 (R225). -/
def slot12Op (op : BitVec 4) : Bool :=
  op != 0b0010#4 && op != 0b0011#4 && op != 0b0100#4 && op != 0b0101#4

/-- The unassigned opcodes of Format 15.5 (R228, R581). -/
def slot155Op (op : BitVec 4) : Bool :=
  op == 0b0110#4 || op == 0b0111#4 || op == 0b1010#4 || op == 0b1011#4 || op == 0b1110#4 || op == 0b1111#4

/-- The unassigned opcodes of Format 3 (R215). -/
def undef3Op (op : BitVec 4) : Bool :=
  op == 0b1000#4 || op.getLsbD 0

/-- Two operands of `n1` and `n2` bytes. -/
def wf2 (n1 : Nat) (g1 : Gen) (n2 : Nat) (g2 : Gen) : Bool := g1.wf n1 && g2.wf n2

/-- The well-formed instructions. -/
def Instr.wf : Instr → Bool
  | .beq d => d.wf | .bne d => d.wf | .bcs d => d.wf | .bcc d => d.wf
  | .bhi d => d.wf | .bls d => d.wf | .bgt d => d.wf | .ble d => d.wf
  | .bfs d => d.wf | .bfc d => d.wf | .blo d => d.wf | .bhs d => d.wf
  | .blt d => d.wf | .bge d => d.wf | .br d => d.wf | .bnever d => d.wf
  | .bsr d => d.wf | .ret d => d.wf | .cxp d => d.wf | .rxp d => d.wf | .rett d => d.wf | .reti => true
  | .save _ => true | .restore _ => true | .enter _ d => d.wf | .exit _ => true
  | .nop => true | .wait => true | .dia => true | .flag => true | .svc => true | .bpt => true
  | .movst _ => true | .movs _ _ => true | .cmpst _ => true | .cmps _ _ => true
  | .skpst _ => true | .skps _ _ => true | .setcfg _ _ _ => true
  | .undef5 w => undef5Word w
  | .rot i g1 g2 => wf2 1 g1 i.bytes g2 | .ash i g1 g2 => wf2 1 g1 i.bytes g2
  | .cbit i g1 g2 => wf2 i.bytes g1 4 g2 | .cbiti i g1 g2 => wf2 i.bytes g1 4 g2
  | .lsh i g1 g2 => wf2 1 g1 i.bytes g2
  | .sbit i g1 g2 => wf2 i.bytes g1 4 g2 | .sbiti i g1 g2 => wf2 i.bytes g1 4 g2
  | .neg i g1 g2 => wf2 i.bytes g1 i.bytes g2 | .not i g1 g2 => wf2 i.bytes g1 i.bytes g2
  | .subp i g1 g2 => wf2 i.bytes g1 i.bytes g2 | .abs i g1 g2 => wf2 i.bytes g1 i.bytes g2
  | .com i g1 g2 => wf2 i.bytes g1 i.bytes g2 | .ibit i g1 g2 => wf2 i.bytes g1 4 g2
  | .addp i g1 g2 => wf2 i.bytes g1 i.bytes g2
  | .undef6 w => opOf w == 0b0100#4 || opOf w == 0b1010#4
  | .movm _ g1 g2 d => wf2 4 g1 4 g2 && d.wf | .cmpm _ g1 g2 d => wf2 4 g1 4 g2 && d.wf
  | .inss i g1 g2 _ => wf2 i.bytes g1 4 g2 | .exts i g1 g2 _ => wf2 4 g1 i.bytes g2
  | .movxbw _ g1 g2 => wf2 1 g1 2 g2 | .movzbw _ g1 g2 => wf2 1 g1 2 g2
  | .movzd i g1 g2 => wf2 i.bytes g1 4 g2 | .movxd i g1 g2 => wf2 i.bytes g1 4 g2
  | .mul i g1 g2 => wf2 i.bytes g1 i.bytes g2
  | .mei i g1 g2 => wf2 i.bytes g1 (2 * i.bytes) g2 | .dei i g1 g2 => wf2 i.bytes g1 (2 * i.bytes) g2
  | .quo i g1 g2 => wf2 i.bytes g1 i.bytes g2 | .rem i g1 g2 => wf2 i.bytes g1 i.bytes g2
  | .mod i g1 g2 => wf2 i.bytes g1 i.bytes g2 | .div i g1 g2 => wf2 i.bytes g1 i.bytes g2
  | .undef7 w => opOf w == 0b1010#4
  | .extf i _ g1 g2 d => wf2 4 g1 i.bytes g2 && d.wf | .cvtp _ _ g1 g2 => wf2 4 g1 4 g2
  | .ins i _ g1 g2 d => wf2 i.bytes g1 4 g2 && d.wf | .check i _ g1 g2 => wf2 4 g1 i.bytes g2
  | .index i _ g1 g2 => wf2 i.bytes g1 i.bytes g2 | .ffs i _ g1 g2 => wf2 i.bytes g1 1 g2
  | .movsu _ g1 g2 => wf2 4 g1 4 g2 | .movus _ g1 g2 => wf2 4 g1 4 g2
  | .undef8sel w => undef8Word w | .undef8op w => w.getLsbD 2
  | .movif f i g1 g2 => wf2 i.bytes g1 f.bytes g2 | .lfsr _ g1 _ => g1.wf 4
  | .movlf _ g1 g2 => wf2 8 g1 4 g2 | .movfl _ g1 g2 => wf2 4 g1 8 g2
  | .roundfi f i g1 g2 => wf2 f.bytes g1 i.bytes g2 | .truncfi f i g1 g2 => wf2 f.bytes g1 i.bytes g2
  | .sfsr _ _ g2 => g2.wf 4 | .floorfi f i g1 g2 => wf2 f.bytes g1 i.bytes g2
  | .undef10 _ => true
  | .addf f _ g1 g2 => wf2 f.bytes g1 f.bytes g2 | .movf f _ g1 g2 => wf2 f.bytes g1 f.bytes g2
  | .cmpf f _ g1 g2 => wf2 f.bytes g1 f.bytes g2 | .slot11at3 f _ g1 g2 => wf2 f.bytes g1 f.bytes g2
  | .subf f _ g1 g2 => wf2 f.bytes g1 f.bytes g2 | .negf f _ g1 g2 => wf2 f.bytes g1 f.bytes g2
  | .slot11at6 f _ g1 g2 => wf2 f.bytes g1 f.bytes g2 | .slot11at7 f _ g1 g2 => wf2 f.bytes g1 f.bytes g2
  | .divf f _ g1 g2 => wf2 f.bytes g1 f.bytes g2 | .slot11at9 f _ g1 g2 => wf2 f.bytes g1 f.bytes g2
  | .slot11at10 f _ g1 g2 => wf2 f.bytes g1 f.bytes g2 | .slot11at11 f _ g1 g2 => wf2 f.bytes g1 f.bytes g2
  | .mulf f _ g1 g2 => wf2 f.bytes g1 f.bytes g2 | .absf f _ g1 g2 => wf2 f.bytes g1 f.bytes g2
  | .slot11at14 f _ g1 g2 => wf2 f.bytes g1 f.bytes g2 | .slot11at15 f _ g1 g2 => wf2 f.bytes g1 f.bytes g2
  | .polyf f _ g1 g2 => wf2 f.bytes g1 f.bytes g2 | .dotf f _ g1 g2 => wf2 f.bytes g1 f.bytes g2
  | .scalbf f _ g1 g2 => wf2 f.bytes g1 f.bytes g2 | .logbf f _ g1 g2 => wf2 f.bytes g1 f.bytes g2
  | .slot12 op f _ g1 g2 => slot12Op op && wf2 f.bytes g1 f.bytes g2
  | .undef13 _ => true
  | .cinv _ _ _ _ g1 => g1.wf 4
  | .undef14 w => undef14Word w
  | .catst0 w => opOf w == 0b0000#4 | .catst1 w => opOf w == 0b0001#4
  | .lcr _ _ _ g1 => g1.wf 4 | .scr _ _ _ g1 => g1.wf 4
  | .undef150 w => w.extractLsb' 4 2 != 0#2
  | .ccv3ic c i g1 g2 => wf2 i.bytes g1 c.bytes g2 | .lcsr _ g1 _ => g1.wf 4
  | .ccv5qd _ g1 g2 => wf2 8 g1 4 g2 | .ccv4dq _ g1 g2 => wf2 4 g1 8 g2
  | .ccv2ci c i g1 g2 => wf2 c.bytes g1 i.bytes g2 | .ccv1ci c i g1 g2 => wf2 c.bytes g1 i.bytes g2
  | .scsr _ _ g2 => g2.wf 4 | .ccv0ci c i g1 g2 => wf2 c.bytes g1 i.bytes g2
  | .ccal0 c _ g1 g2 => wf2 c.bytes g1 c.bytes g2 | .cmov0 c _ g1 g2 => wf2 c.bytes g1 c.bytes g2
  | .ccmp0 c _ g1 g2 => wf2 c.bytes g1 c.bytes g2 | .ccmp1 c _ g1 g2 => wf2 c.bytes g1 c.bytes g2
  | .ccal1 c _ g1 g2 => wf2 c.bytes g1 c.bytes g2 | .cmov2 c _ g1 g2 => wf2 c.bytes g1 c.bytes g2
  | .ccal3 c _ g1 g2 => wf2 c.bytes g1 c.bytes g2 | .cmov3 c _ g1 g2 => wf2 c.bytes g1 c.bytes g2
  | .ccal2 c _ g1 g2 => wf2 c.bytes g1 c.bytes g2 | .cmov1 c _ g1 g2 => wf2 c.bytes g1 c.bytes g2
  | .slot155 op c _ g1 g2 => slot155Op op && wf2 c.bytes g1 c.bytes g2
  | .undef56 _ => true | .undef76 _ => true | .undef96 _ => true | .undefD6 _ => true | .undefF6 _ => true
  | .undef16 _ => true | .undef17 _ => true | .undef18 _ => true | .undef19 _ => true
  | .addq i _ g => i.assigned && g.wf i.bytes | .cmpq i _ g => i.assigned && g.wf i.bytes
  | .spr i _ g => i.assigned && g.wf i.bytes | .scond i _ g => i.assigned && g.wf i.bytes
  | .acb i _ g d => i.assigned && g.wf i.bytes && d.wf | .movq i _ g => i.assigned && g.wf i.bytes
  | .lpr i _ g => i.assigned && g.wf i.bytes
  | .cxpd i g => i.assigned && g.wf 4 | .bicpsr i g => i.assigned && g.wf i.bytes
  | .jump i g => i.assigned && g.wf 4 | .bispsr i g => i.assigned && g.wf i.bytes
  | .adjsp i g => i.assigned && g.wf i.bytes | .jsr i g => i.assigned && g.wf 4
  | .casei i g => i.assigned && g.wf i.bytes
  | .undef3 _ op i => i.assigned && undef3Op op
  | .add i g1 g2 => i.assigned && wf2 i.bytes g1 i.bytes g2
  | .cmp i g1 g2 => i.assigned && wf2 i.bytes g1 i.bytes g2
  | .bic i g1 g2 => i.assigned && wf2 i.bytes g1 i.bytes g2
  | .addc i g1 g2 => i.assigned && wf2 i.bytes g1 i.bytes g2
  | .mov i g1 g2 => i.assigned && wf2 i.bytes g1 i.bytes g2
  | .or i g1 g2 => i.assigned && wf2 i.bytes g1 i.bytes g2
  | .sub i g1 g2 => i.assigned && wf2 i.bytes g1 i.bytes g2
  | .addr i g1 g2 => i.assigned && wf2 4 g1 4 g2
  | .and i g1 g2 => i.assigned && wf2 i.bytes g1 i.bytes g2
  | .subc i g1 g2 => i.assigned && wf2 i.bytes g1 i.bytes g2
  | .tbit i g1 g2 => i.assigned && wf2 i.bytes g1 4 g2
  | .xor i g1 g2 => i.assigned && wf2 i.bytes g1 i.bytes g2

end Sys2Proof
end

