-- ==== Sys2Proof/Decode.lean ====
section
/-! DEFINITION. The decoder, total on any list of bytes, and after it the encoder, both from the encoding tables
of 30_encoding (R180 to R230, R252). -/

namespace Sys2Proof

/-- Why a list of bytes is no instruction: it ends before the instruction does. Every other list decodes, since
the decode tree covers every first byte (R182). -/
inductive DecodeError where
  | truncated
  deriving DecidableEq, Repr

/-- What a parser answers: a value and the bytes after it. -/
abbrev Parse (α : Type) := Except DecodeError (α × List Byte)

/-- The longest instruction has 25 bytes (R186). -/
def maxLength : Nat := 25

/-! ### Codes of the small fields -/

/-- The `i` field (R183). -/
def Size.ofBits (v : BitVec 2) : Size :=
  match v with
  | 0b00#2 => .b | 0b01#2 => .w | 0b10#2 => .u | _ => .d

/-- The code of an `i` field (R183). -/
def Size.toBits : Size → BitVec 2
  | .b => 0b00#2 | .w => 0b01#2 | .u => 0b10#2 | .d => 0b11#2

/-- The `f` bit (R183). -/
def FSize.ofBit (v : Bool) : FSize := if v then .std else .long
/-- The code of an `f` bit (R183). -/
def FSize.toBits : FSize → BitVec 1
  | .std => 1#1 | .long => 0#1
/-- The `c` bit (R183). -/
def CSize.ofBit (v : Bool) : CSize := if v then .dbl else .quad
/-- The code of a `c` bit (R183). -/
def CSize.toBits : CSize → BitVec 1
  | .dbl => 1#1 | .quad => 0#1

/-- The condition codes (R211). -/
def Cond.ofBits (v : BitVec 4) : Cond :=
  match v with
  | 0b0000#4 => .eq | 0b0001#4 => .ne | 0b0010#4 => .cs | 0b0011#4 => .cc
  | 0b0100#4 => .hi | 0b0101#4 => .ls | 0b0110#4 => .gt | 0b0111#4 => .le
  | 0b1000#4 => .fs | 0b1001#4 => .fc | 0b1010#4 => .lo | 0b1011#4 => .hs
  | 0b1100#4 => .lt | 0b1101#4 => .ge | 0b1110#4 => .always | _ => .never

/-- The code of a condition (R211). -/
def Cond.toBits : Cond → BitVec 4
  | .eq => 0b0000#4 | .ne => 0b0001#4 | .cs => 0b0010#4 | .cc => 0b0011#4
  | .hi => 0b0100#4 | .ls => 0b0101#4 | .gt => 0b0110#4 | .le => 0b0111#4
  | .fs => 0b1000#4 | .fc => 0b1001#4 | .lo => 0b1010#4 | .hs => 0b1011#4
  | .lt => 0b1100#4 | .ge => 0b1101#4 | .always => 0b1110#4 | .never => 0b1111#4

/-- The `areg` codes (R52). -/
def AReg.ofBits (v : BitVec 4) : AReg :=
  match v with
  | 0b0000#4 => .upsr | 0b0001#4 => .dcr | 0b0010#4 => .bpc | 0b0011#4 => .dsr
  | 0b0100#4 => .car | 0b0101#4 => .res5 | 0b0110#4 => .res6 | 0b0111#4 => .res7
  | 0b1000#4 => .fp | 0b1001#4 => .sp | 0b1010#4 => .sb | 0b1011#4 => .usp
  | 0b1100#4 => .cfg | 0b1101#4 => .psr | 0b1110#4 => .intbase | _ => .mod

/-- The code of a dedicated register (R52). -/
def AReg.toBits : AReg → BitVec 4
  | .upsr => 0b0000#4 | .dcr => 0b0001#4 | .bpc => 0b0010#4 | .dsr => 0b0011#4
  | .car => 0b0100#4 | .res5 => 0b0101#4 | .res6 => 0b0110#4 | .res7 => 0b0111#4
  | .fp => 0b1000#4 | .sp => 0b1001#4 | .sb => 0b1010#4 | .usp => 0b1011#4
  | .cfg => 0b1100#4 | .psr => 0b1101#4 | .intbase => 0b1110#4 | .mod => 0b1111#4

/-- The scale of Scaled Index (R202). -/
def Scale.ofBits (v : BitVec 2) : Scale :=
  match v with
  | 0b00#2 => .b | 0b01#2 => .w | 0b10#2 => .d | _ => .q

/-- The code of a scale (R202). -/
def Scale.toBits : Scale → BitVec 2
  | .b => 0b00#2 | .w => 0b01#2 | .d => 0b10#2 | .q => 0b11#2

/-- The U/W option bits (R218). -/
def Match.ofBits (v : BitVec 2) : Match :=
  match v with
  | 0b00#2 => .none | 0b01#2 => .whileMatch | 0b10#2 => .unassigned | _ => .untilMatch

/-- The code of the U/W option (R218). -/
def Match.toBits : Match → BitVec 2
  | .none => 0b00#2 | .whileMatch => 0b01#2 | .unassigned => 0b10#2 | .untilMatch => 0b11#2

/-! ### Displacements, immediates and addressing modes -/

/-- One byte of the instruction stream. -/
def parseByte : List Byte → Parse Byte
  | [] => .error .truncated
  | b :: rest => .ok (b, rest)

/-- A displacement (R200): its first byte says its length. The reserved first byte E0 (R201) parses; executing the
instruction refuses it. -/
def parseDisp : List Byte → Parse Disp
  | [] => .error .truncated
  | b0 :: rest =>
    if b0.getLsbD 7 == false then .ok (.d7 (b0.extractLsb' 0 7), rest)
    else if b0.getLsbD 6 == false then
      match rest with
      | b1 :: r => .ok (.d14 (b0.extractLsb' 0 6 ++ b1), r)
      | [] => .error .truncated
    else
      match rest with
      | b1 :: b2 :: b3 :: r => .ok (.d30 (b0.extractLsb' 0 6 ++ b1 ++ b2 ++ b3), r)
      | _ => .error .truncated

/-- An immediate of `n` bytes, most significant byte first (R206), shifted into `acc`. -/
def parseImm : Nat → Quad → List Byte → Parse Quad
  | 0, acc, bs => .ok (acc, bs)
  | _ + 1, _, [] => .error .truncated
  | n + 1, acc, b :: bs => parseImm n ((acc <<< 8) ||| b.setWidth 64) bs

/-- A gen field with its index byte, if it is Scaled Index (R202). -/
inductive GenHead where
  | plain (code : BitVec 5)
  | indexed (sc : Scale) (n : RegNum) (base : BitVec 5)
  deriving DecidableEq, Repr

/-- Reads the index byte of a gen field that has one (R180 items 2 and 3, R202). -/
def parseHead (code : BitVec 5) (bs : List Byte) : Parse GenHead :=
  if code.extractLsb' 2 3 == 0b111#3 then
    match bs with
    | [] => .error .truncated
    | x :: r => .ok (.indexed (Scale.ofBits (code.extractLsb' 0 2)) (x.extractLsb' 0 3) (x.extractLsb' 3 5), r)
  else .ok (.plain code, bs)

/-- One displacement, as the extension of a mode. -/
def ext1 (k : Disp → Mode) (bs : List Byte) : Parse Mode :=
  match parseDisp bs with
  | .ok (d, r) => .ok (k d, r)
  | .error e => .error e

/-- Two displacements, disp1 first (R273, R275). -/
def ext2 (k : Disp → Disp → Mode) (bs : List Byte) : Parse Mode :=
  match parseDisp bs with
  | .ok (d1, r) => ext1 (k d1) r
  | .error e => .error e

/-- The extension of a mode code (R190) for an operand of `n` bytes. The codes 10011 and 111xx are never asked
for here. -/
def parseMode (n : Nat) (code : BitVec 5) (bs : List Byte) : Parse Mode :=
  if code.extractLsb' 3 2 == 0b00#2 then .ok (.reg (code.extractLsb' 0 3), bs)
  else if code.extractLsb' 3 2 == 0b01#2 then ext1 (.regRel (code.extractLsb' 0 3)) bs
  else match code with
    | 0b10000#5 => ext2 (.memRel .fp) bs
    | 0b10001#5 => ext2 (.memRel .sp) bs
    | 0b10010#5 => ext2 (.memRel .sb) bs
    | 0b10100#5 =>
      match parseImm n 0#64 bs with
      | .ok (v, r) => .ok (.imm v, r)
      | .error e => .error e
    | 0b10101#5 => ext1 .abs bs
    | 0b10110#5 => ext2 .ext bs
    | 0b11000#5 => ext1 (.space .fp) bs
    | 0b11001#5 => ext1 (.space .sp) bs
    | 0b11010#5 => ext1 (.space .sb) bs
    | 0b11011#5 => ext1 (.space .pc) bs
    | _ => .ok (.tos, bs)

/-- The extension of a gen field (R180 items 4 and 5). -/
def parseExt (n : Nat) (h : GenHead) (bs : List Byte) : Parse Gen :=
  match h with
  | .plain code =>
    if code == 0b10011#5 then .ok (.reserved, bs)
    else match parseMode n code bs with
      | .ok (m, r) => .ok (.mode m, r)
      | .error e => .error e
  | .indexed sc r base =>
    if badBase base then .ok (.idxBad sc r base, bs)
    else match parseMode n base bs with
      | .ok (m, r') => .ok (.idx sc r m, r')
      | .error e => .error e

/-- One general operand of `n` bytes. -/
def one (n : Nat) (c : BitVec 5) (bs : List Byte) (k : Gen → List Byte → Parse Instr) : Parse Instr :=
  match parseHead c bs with
  | .error e => .error e
  | .ok (h, r) =>
    match parseExt n h r with
    | .error e => .error e
    | .ok (g, r) => k g r

/-- Two general operands of `n1` and `n2` bytes: both index bytes, then gen1's extension, then gen2's (R180). -/
def two (n1 n2 : Nat) (c1 c2 : BitVec 5) (bs : List Byte) (k : Gen → Gen → List Byte → Parse Instr) : Parse Instr :=
  match parseHead c1 bs with
  | .error e => .error e
  | .ok (h1, r) =>
    match parseHead c2 r with
    | .error e => .error e
    | .ok (h2, r) =>
      match parseExt n1 h1 r with
      | .error e => .error e
      | .ok (g1, r) =>
        match parseExt n2 h2 r with
        | .error e => .error e
        | .ok (g2, r) => k g1 g2 r

/-- An instruction whose bytes end here. -/
def fin (i : Instr) (bs : List Byte) : Parse Instr := .ok (i, bs)

/-- An instruction that ends in an implied displacement (R208). -/
def withDisp (k : Disp → Instr) (bs : List Byte) : Parse Instr :=
  match parseDisp bs with
  | .error e => .error e
  | .ok (d, r) => .ok (k d, r)

/-- An instruction that ends in an implied byte (R208). -/
def withByte (k : Byte → Instr) (bs : List Byte) : Parse Instr :=
  match parseByte bs with
  | .error e => .error e
  | .ok (b, r) => .ok (k b, r)

/-- The operation word of a three-byte instruction: bits 23:8, its fields named at their places in Formats 6 and 7. -/
structure OpWord where
  g1 : BitVec 5
  g2 : BitVec 5
  op : BitVec 4
  i : BitVec 2
  deriving DecidableEq, Repr

/-- The fields of an operation word (R219). -/
def OpWord.ofBits (w : BitVec 16) : OpWord :=
  { g1 := w.extractLsb' 11 5, g2 := w.extractLsb' 6 5, op := w.extractLsb' 2 4, i := w.extractLsb' 0 2 }

/-- The operation word of fields (R219). -/
def OpWord.toBits (o : OpWord) : BitVec 16 := o.g1 ++ o.g2 ++ o.op ++ o.i

/-! ### The formats -/

/-- Format 0 (R210): the condition in bits 7:4, one displacement. -/
def decode0 (c : BitVec 4) (bs : List Byte) : Parse Instr :=
  match c with
  | 0b0000#4 => withDisp .beq bs
  | 0b0001#4 => withDisp .bne bs
  | 0b0010#4 => withDisp .bcs bs
  | 0b0011#4 => withDisp .bcc bs
  | 0b0100#4 => withDisp .bhi bs
  | 0b0101#4 => withDisp .bls bs
  | 0b0110#4 => withDisp .bgt bs
  | 0b0111#4 => withDisp .ble bs
  | 0b1000#4 => withDisp .bfs bs
  | 0b1001#4 => withDisp .bfc bs
  | 0b1010#4 => withDisp .blo bs
  | 0b1011#4 => withDisp .bhs bs
  | 0b1100#4 => withDisp .blt bs
  | 0b1101#4 => withDisp .bge bs
  | 0b1110#4 => withDisp .br bs
  | _ => withDisp .bnever bs

/-- Format 1 (R212), with the implied operands of R208. -/
def decode1 (op : BitVec 4) (bs : List Byte) : Parse Instr :=
  match op with
  | 0b0000#4 => withDisp .bsr bs
  | 0b0001#4 => withDisp .ret bs
  | 0b0010#4 => withDisp .cxp bs
  | 0b0011#4 => withDisp .rxp bs
  | 0b0100#4 => withDisp .rett bs
  | 0b0101#4 => fin .reti bs
  | 0b0110#4 => withByte .save bs
  | 0b0111#4 => withByte .restore bs
  | 0b1000#4 =>
    match parseByte bs with
    | .error e => .error e
    | .ok (m, r) => withDisp (.enter m) r
  | 0b1001#4 => withByte .exit bs
  | 0b1010#4 => fin .nop bs
  | 0b1011#4 => fin .wait bs
  | 0b1100#4 => fin .dia bs
  | 0b1101#4 => fin .flag bs
  | 0b1110#4 => fin .svc bs
  | _ => fin .bpt bs

/-- The string options of an operation word (R217, R218): bits 23:19 and 14 are the pad. -/
def strOpts (w : BitVec 16) : StrOpts :=
  { uw := Match.ofBits (w.extractLsb' 9 2), back := w.getLsbD 8,
    pad := w.extractLsb' 11 5 ++ w.extractLsb' 6 1 }

/-- Format 5 (R217), with the T bit (bit 15) choosing the translating form, which exists for bytes only. -/
def decode5 (w : BitVec 16) (bs : List Byte) : Parse Instr :=
  let i := Size.ofBits (w.extractLsb' 0 2)
  let t := w.getLsbD 7
  let o := strOpts w
  match w.extractLsb' 2 4 with
  | 0b0000#4 => if !t then fin (.movs i o) bs else if i = .b then fin (.movst o) bs else fin (.undef5 w) bs
  | 0b0001#4 => if !t then fin (.cmps i o) bs else if i = .b then fin (.cmpst o) bs else fin (.undef5 w) bs
  | 0b0010#4 => fin (.setcfg i (w.extractLsb' 7 4) (w.extractLsb' 11 5 ++ w.extractLsb' 6 1)) bs
  | 0b0011#4 => if !t then fin (.skps i o) bs else if i = .b then fin (.skpst o) bs else fin (.undef5 w) bs
  | _ => fin (.undef5 w) bs

/-- Format 6 (R219). -/
def decode6 (w : BitVec 16) (bs : List Byte) : Parse Instr :=
  let o := OpWord.ofBits w
  let i := Size.ofBits o.i
  match o.op with
  | 0b0000#4 => two 1 i.bytes o.g1 o.g2 bs fun g1 g2 => fin (.rot i g1 g2)
  | 0b0001#4 => two 1 i.bytes o.g1 o.g2 bs fun g1 g2 => fin (.ash i g1 g2)
  | 0b0010#4 => two i.bytes 4 o.g1 o.g2 bs fun g1 g2 => fin (.cbit i g1 g2)
  | 0b0011#4 => two i.bytes 4 o.g1 o.g2 bs fun g1 g2 => fin (.cbiti i g1 g2)
  | 0b0101#4 => two 1 i.bytes o.g1 o.g2 bs fun g1 g2 => fin (.lsh i g1 g2)
  | 0b0110#4 => two i.bytes 4 o.g1 o.g2 bs fun g1 g2 => fin (.sbit i g1 g2)
  | 0b0111#4 => two i.bytes 4 o.g1 o.g2 bs fun g1 g2 => fin (.sbiti i g1 g2)
  | 0b1000#4 => two i.bytes i.bytes o.g1 o.g2 bs fun g1 g2 => fin (.neg i g1 g2)
  | 0b1001#4 => two i.bytes i.bytes o.g1 o.g2 bs fun g1 g2 => fin (.not i g1 g2)
  | 0b1011#4 => two i.bytes i.bytes o.g1 o.g2 bs fun g1 g2 => fin (.subp i g1 g2)
  | 0b1100#4 => two i.bytes i.bytes o.g1 o.g2 bs fun g1 g2 => fin (.abs i g1 g2)
  | 0b1101#4 => two i.bytes i.bytes o.g1 o.g2 bs fun g1 g2 => fin (.com i g1 g2)
  | 0b1110#4 => two i.bytes 4 o.g1 o.g2 bs fun g1 g2 => fin (.ibit i g1 g2)
  | 0b1111#4 => two i.bytes i.bytes o.g1 o.g2 bs fun g1 g2 => fin (.addp i g1 g2)
  | _ => fin (.undef6 w) bs

/-- Format 7 (R220). -/
def decode7 (w : BitVec 16) (bs : List Byte) : Parse Instr :=
  let o := OpWord.ofBits w
  let i := Size.ofBits o.i
  match o.op with
  | 0b0000#4 => two 4 4 o.g1 o.g2 bs fun g1 g2 => withDisp (.movm i g1 g2)
  | 0b0001#4 => two 4 4 o.g1 o.g2 bs fun g1 g2 => withDisp (.cmpm i g1 g2)
  | 0b0010#4 => two i.bytes 4 o.g1 o.g2 bs fun g1 g2 => withByte (.inss i g1 g2)
  | 0b0011#4 => two 4 i.bytes o.g1 o.g2 bs fun g1 g2 => withByte (.exts i g1 g2)
  | 0b0100#4 => two 1 2 o.g1 o.g2 bs fun g1 g2 => fin (.movxbw i g1 g2)
  | 0b0101#4 => two 1 2 o.g1 o.g2 bs fun g1 g2 => fin (.movzbw i g1 g2)
  | 0b0110#4 => two i.bytes 4 o.g1 o.g2 bs fun g1 g2 => fin (.movzd i g1 g2)
  | 0b0111#4 => two i.bytes 4 o.g1 o.g2 bs fun g1 g2 => fin (.movxd i g1 g2)
  | 0b1000#4 => two i.bytes i.bytes o.g1 o.g2 bs fun g1 g2 => fin (.mul i g1 g2)
  | 0b1001#4 => two i.bytes (2 * i.bytes) o.g1 o.g2 bs fun g1 g2 => fin (.mei i g1 g2)
  | 0b1011#4 => two i.bytes (2 * i.bytes) o.g1 o.g2 bs fun g1 g2 => fin (.dei i g1 g2)
  | 0b1100#4 => two i.bytes i.bytes o.g1 o.g2 bs fun g1 g2 => fin (.quo i g1 g2)
  | 0b1101#4 => two i.bytes i.bytes o.g1 o.g2 bs fun g1 g2 => fin (.rem i g1 g2)
  | 0b1110#4 => two i.bytes i.bytes o.g1 o.g2 bs fun g1 g2 => fin (.mod i g1 g2)
  | 0b1111#4 => two i.bytes i.bytes o.g1 o.g2 bs fun g1 g2 => fin (.div i g1 g2)
  | _ => fin (.undef7 w) bs

/-- Format 8 (R221): bits 7:6 of the first byte are `op1`, bit 10 is `op2`, bits 13:11 are `reg`. -/
def decode8 (op1 : BitVec 2) (w : BitVec 16) (bs : List Byte) : Parse Instr :=
  let o := OpWord.ofBits w
  let i := Size.ofBits o.i
  let r := w.extractLsb' 3 3
  match w.extractLsb' 2 1 ++ op1 with
  | 0b000#3 => two 4 i.bytes o.g1 o.g2 bs fun g1 g2 => withDisp (.extf i r g1 g2)
  | 0b001#3 => two 4 4 o.g1 o.g2 bs fun g1 g2 => fin (.cvtp i r g1 g2)
  | 0b010#3 => two i.bytes 4 o.g1 o.g2 bs fun g1 g2 => withDisp (.ins i r g1 g2)
  | 0b011#3 => two 4 i.bytes o.g1 o.g2 bs fun g1 g2 => fin (.check i r g1 g2)
  | 0b100#3 => two i.bytes i.bytes o.g1 o.g2 bs fun g1 g2 => fin (.index i r g1 g2)
  | 0b101#3 => two i.bytes 1 o.g1 o.g2 bs fun g1 g2 => fin (.ffs i r g1 g2)
  | 0b110#3 =>
    if r = 0b001#3 then two 4 4 o.g1 o.g2 bs fun g1 g2 => fin (.movsu i g1 g2)
    else if r = 0b011#3 then two 4 4 o.g1 o.g2 bs fun g1 g2 => fin (.movus i g1 g2)
    else fin (.undef8sel w) bs
  | _ => fin (.undef8op w) bs

/-- Format 9 (R222): `op` in bits 13:11, `f` in bit 10, `i` in bits 9:8. -/
def decode9 (w : BitVec 16) (bs : List Byte) : Parse Instr :=
  let o := OpWord.ofBits w
  let i := Size.ofBits o.i
  let f := FSize.ofBit (w.getLsbD 2)
  match w.extractLsb' 3 3 with
  | 0b000#3 => two i.bytes f.bytes o.g1 o.g2 bs fun g1 g2 => fin (.movif f i g1 g2)
  | 0b001#3 => one 4 o.g1 bs fun g1 => fin (.lfsr (w.extractLsb' 0 3) g1 o.g2)
  | 0b010#3 => two 8 4 o.g1 o.g2 bs fun g1 g2 => fin (.movlf (w.extractLsb' 0 3) g1 g2)
  | 0b011#3 => two 4 8 o.g1 o.g2 bs fun g1 g2 => fin (.movfl (w.extractLsb' 0 3) g1 g2)
  | 0b100#3 => two f.bytes i.bytes o.g1 o.g2 bs fun g1 g2 => fin (.roundfi f i g1 g2)
  | 0b101#3 => two f.bytes i.bytes o.g1 o.g2 bs fun g1 g2 => fin (.truncfi f i g1 g2)
  | 0b110#3 => one 4 o.g2 bs fun g2 => fin (.sfsr (w.extractLsb' 0 3) o.g1 g2)
  | _ => two f.bytes i.bytes o.g1 o.g2 bs fun g1 g2 => fin (.floorfi f i g1 g2)

/-- Format 11 (R224): bit 9 is written 0, `f` in bit 8. -/
def decode11 (w : BitVec 16) (bs : List Byte) : Parse Instr :=
  let o := OpWord.ofBits w
  let f := FSize.ofBit (w.getLsbD 0)
  let p := w.extractLsb' 1 1
  match o.op with
  | 0b0000#4 => two f.bytes f.bytes o.g1 o.g2 bs fun g1 g2 => fin (.addf f p g1 g2)
  | 0b0001#4 => two f.bytes f.bytes o.g1 o.g2 bs fun g1 g2 => fin (.movf f p g1 g2)
  | 0b0010#4 => two f.bytes f.bytes o.g1 o.g2 bs fun g1 g2 => fin (.cmpf f p g1 g2)
  | 0b0011#4 => two f.bytes f.bytes o.g1 o.g2 bs fun g1 g2 => fin (.slot11at3 f p g1 g2)
  | 0b0100#4 => two f.bytes f.bytes o.g1 o.g2 bs fun g1 g2 => fin (.subf f p g1 g2)
  | 0b0101#4 => two f.bytes f.bytes o.g1 o.g2 bs fun g1 g2 => fin (.negf f p g1 g2)
  | 0b0110#4 => two f.bytes f.bytes o.g1 o.g2 bs fun g1 g2 => fin (.slot11at6 f p g1 g2)
  | 0b0111#4 => two f.bytes f.bytes o.g1 o.g2 bs fun g1 g2 => fin (.slot11at7 f p g1 g2)
  | 0b1000#4 => two f.bytes f.bytes o.g1 o.g2 bs fun g1 g2 => fin (.divf f p g1 g2)
  | 0b1001#4 => two f.bytes f.bytes o.g1 o.g2 bs fun g1 g2 => fin (.slot11at9 f p g1 g2)
  | 0b1010#4 => two f.bytes f.bytes o.g1 o.g2 bs fun g1 g2 => fin (.slot11at10 f p g1 g2)
  | 0b1011#4 => two f.bytes f.bytes o.g1 o.g2 bs fun g1 g2 => fin (.slot11at11 f p g1 g2)
  | 0b1100#4 => two f.bytes f.bytes o.g1 o.g2 bs fun g1 g2 => fin (.mulf f p g1 g2)
  | 0b1101#4 => two f.bytes f.bytes o.g1 o.g2 bs fun g1 g2 => fin (.absf f p g1 g2)
  | 0b1110#4 => two f.bytes f.bytes o.g1 o.g2 bs fun g1 g2 => fin (.slot11at14 f p g1 g2)
  | _ => two f.bytes f.bytes o.g1 o.g2 bs fun g1 g2 => fin (.slot11at15 f p g1 g2)

/-- Format 12 (R225). -/
def decode12 (w : BitVec 16) (bs : List Byte) : Parse Instr :=
  let o := OpWord.ofBits w
  let f := FSize.ofBit (w.getLsbD 0)
  let p := w.extractLsb' 1 1
  match o.op with
  | 0b0010#4 => two f.bytes f.bytes o.g1 o.g2 bs fun g1 g2 => fin (.polyf f p g1 g2)
  | 0b0011#4 => two f.bytes f.bytes o.g1 o.g2 bs fun g1 g2 => fin (.dotf f p g1 g2)
  | 0b0100#4 => two f.bytes f.bytes o.g1 o.g2 bs fun g1 g2 => fin (.scalbf f p g1 g2)
  | 0b0101#4 => two f.bytes f.bytes o.g1 o.g2 bs fun g1 g2 => fin (.logbf f p g1 g2)
  | _ => two f.bytes f.bytes o.g1 o.g2 bs fun g1 g2 => fin (.slot12 o.op f p g1 g2)

/-- Format 14 (R227, R237): CINV is op 1001, i 11, bit 18 zero; every other word is undefined (log 37; with op 1001 a
DESIGN CHOICE against U12). -/
def decode14 (w : BitVec 16) (bs : List Byte) : Parse Instr :=
  if undef14Word w then fin (.undef14 w) bs
  else one 4 (w.extractLsb' 11 5) bs fun g1 =>
    fin (.cinv (w.getLsbD 9) (w.getLsbD 8) (w.getLsbD 7) (w.extractLsb' 6 1) g1)

/-- Format 15.0 (R228): `creg` in bits 18:15, bit 14 not used. -/
def decode150 (w : BitVec 16) (bs : List Byte) : Parse Instr :=
  let o := OpWord.ofBits w
  match o.op with
  | 0b0000#4 => fin (.catst0 w) bs
  | 0b0001#4 => fin (.catst1 w) bs
  | 0b0010#4 => one 4 o.g1 bs fun g1 => fin (.lcr (w.extractLsb' 7 4) o.i (w.extractLsb' 6 1) g1)
  | 0b0011#4 => one 4 o.g1 bs fun g1 => fin (.scr (w.extractLsb' 7 4) o.i (w.extractLsb' 6 1) g1)
  | _ => fin (.undef150 w) bs

/-- Format 15.1 (R228): `op` in bits 13:11, `c` in bit 10, `i` in bits 9:8. -/
def decode151 (w : BitVec 16) (bs : List Byte) : Parse Instr :=
  let o := OpWord.ofBits w
  let i := Size.ofBits o.i
  let c := CSize.ofBit (w.getLsbD 2)
  match w.extractLsb' 3 3 with
  | 0b000#3 => two i.bytes c.bytes o.g1 o.g2 bs fun g1 g2 => fin (.ccv3ic c i g1 g2)
  | 0b001#3 => one 4 o.g1 bs fun g1 => fin (.lcsr (w.extractLsb' 0 3) g1 o.g2)
  | 0b010#3 => two 8 4 o.g1 o.g2 bs fun g1 g2 => fin (.ccv5qd (w.extractLsb' 0 3) g1 g2)
  | 0b011#3 => two 4 8 o.g1 o.g2 bs fun g1 g2 => fin (.ccv4dq (w.extractLsb' 0 3) g1 g2)
  | 0b100#3 => two c.bytes i.bytes o.g1 o.g2 bs fun g1 g2 => fin (.ccv2ci c i g1 g2)
  | 0b101#3 => two c.bytes i.bytes o.g1 o.g2 bs fun g1 g2 => fin (.ccv1ci c i g1 g2)
  | 0b110#3 => one 4 o.g2 bs fun g2 => fin (.scsr (w.extractLsb' 0 3) o.g1 g2)
  | _ => two c.bytes i.bytes o.g1 o.g2 bs fun g1 g2 => fin (.ccv0ci c i g1 g2)

/-- Format 15.5 (R228): bit 9 not used, `c` in bit 8. -/
def decode155 (w : BitVec 16) (bs : List Byte) : Parse Instr :=
  let o := OpWord.ofBits w
  let c := CSize.ofBit (w.getLsbD 0)
  let p := w.extractLsb' 1 1
  match o.op with
  | 0b0000#4 => two c.bytes c.bytes o.g1 o.g2 bs fun g1 g2 => fin (.ccal0 c p g1 g2)
  | 0b0001#4 => two c.bytes c.bytes o.g1 o.g2 bs fun g1 g2 => fin (.cmov0 c p g1 g2)
  | 0b0010#4 => two c.bytes c.bytes o.g1 o.g2 bs fun g1 g2 => fin (.ccmp0 c p g1 g2)
  | 0b0011#4 => two c.bytes c.bytes o.g1 o.g2 bs fun g1 g2 => fin (.ccmp1 c p g1 g2)
  | 0b0100#4 => two c.bytes c.bytes o.g1 o.g2 bs fun g1 g2 => fin (.ccal1 c p g1 g2)
  | 0b0101#4 => two c.bytes c.bytes o.g1 o.g2 bs fun g1 g2 => fin (.cmov2 c p g1 g2)
  | 0b1000#4 => two c.bytes c.bytes o.g1 o.g2 bs fun g1 g2 => fin (.ccal3 c p g1 g2)
  | 0b1001#4 => two c.bytes c.bytes o.g1 o.g2 bs fun g1 g2 => fin (.cmov3 c p g1 g2)
  | 0b1100#4 => two c.bytes c.bytes o.g1 o.g2 bs fun g1 g2 => fin (.ccal2 c p g1 g2)
  | 0b1101#4 => two c.bytes c.bytes o.g1 o.g2 bs fun g1 g2 => fin (.cmov1 c p g1 g2)
  | _ => two c.bytes c.bytes o.g1 o.g2 bs fun g1 g2 => fin (.slot155 o.op c p g1 g2)

/-- Format 2 (R213): `short` in bits 10:7, `op` in bits 6:4. -/
def decode2 (w : BitVec 16) (bs : List Byte) : Parse Instr :=
  let g := w.extractLsb' 11 5
  let q := w.extractLsb' 7 4
  let i := Size.ofBits (w.extractLsb' 0 2)
  match w.extractLsb' 4 3 with
  | 0b000#3 => one i.bytes g bs fun g => fin (.addq i q g)
  | 0b001#3 => one i.bytes g bs fun g => fin (.cmpq i q g)
  | 0b010#3 => one i.bytes g bs fun g => fin (.spr i (AReg.ofBits q) g)
  | 0b011#3 => one i.bytes g bs fun g => fin (.scond i (Cond.ofBits q) g)
  | 0b100#3 => one i.bytes g bs fun g => withDisp (.acb i q g)
  | 0b101#3 => one i.bytes g bs fun g => fin (.movq i q g)
  | _ => one i.bytes g bs fun g => fin (.lpr i (AReg.ofBits q) g)

/-- Format 3 (R215): `op` in bits 10:7. -/
def decode3 (w : BitVec 16) (bs : List Byte) : Parse Instr :=
  let g := w.extractLsb' 11 5
  let op := w.extractLsb' 7 4
  let i := Size.ofBits (w.extractLsb' 0 2)
  match op with
  | 0b0000#4 => one 4 g bs fun g => fin (.cxpd i g)
  | 0b0010#4 => one i.bytes g bs fun g => fin (.bicpsr i g)
  | 0b0100#4 => one 4 g bs fun g => fin (.jump i g)
  | 0b0110#4 => one i.bytes g bs fun g => fin (.bispsr i g)
  | 0b1010#4 => one i.bytes g bs fun g => fin (.adjsp i g)
  | 0b1100#4 => one 4 g bs fun g => fin (.jsr i g)
  | 0b1110#4 => one i.bytes g bs fun g => fin (.casei i g)
  | _ => fin (.undef3 g op i) bs

/-- Format 4 (R216); the last arm is op 1110, since xx11 is Format 2, 3 or a three-byte format. -/
def decode4 (w : BitVec 16) (bs : List Byte) : Parse Instr :=
  let o := OpWord.ofBits w
  let i := Size.ofBits o.i
  match o.op with
  | 0b0000#4 => two i.bytes i.bytes o.g1 o.g2 bs fun g1 g2 => fin (.add i g1 g2)
  | 0b0001#4 => two i.bytes i.bytes o.g1 o.g2 bs fun g1 g2 => fin (.cmp i g1 g2)
  | 0b0010#4 => two i.bytes i.bytes o.g1 o.g2 bs fun g1 g2 => fin (.bic i g1 g2)
  | 0b0100#4 => two i.bytes i.bytes o.g1 o.g2 bs fun g1 g2 => fin (.addc i g1 g2)
  | 0b0101#4 => two i.bytes i.bytes o.g1 o.g2 bs fun g1 g2 => fin (.mov i g1 g2)
  | 0b0110#4 => two i.bytes i.bytes o.g1 o.g2 bs fun g1 g2 => fin (.or i g1 g2)
  | 0b1000#4 => two i.bytes i.bytes o.g1 o.g2 bs fun g1 g2 => fin (.sub i g1 g2)
  | 0b1001#4 => two 4 4 o.g1 o.g2 bs fun g1 g2 => fin (.addr i g1 g2)
  | 0b1010#4 => two i.bytes i.bytes o.g1 o.g2 bs fun g1 g2 => fin (.and i g1 g2)
  | 0b1100#4 => two i.bytes i.bytes o.g1 o.g2 bs fun g1 g2 => fin (.subc i g1 g2)
  | 0b1101#4 => two i.bytes 4 o.g1 o.g2 bs fun g1 g2 => fin (.tbit i g1 g2)
  | _ => two i.bytes i.bytes o.g1 o.g2 bs fun g1 g2 => fin (.xor i g1 g2)

/-- The three-byte formats with first byte xxxx1110 (R182): `hi` is bits 7:4 of the first byte. -/
def decodeE (hi : BitVec 4) (w : BitVec 16) (bs : List Byte) : Parse Instr :=
  match hi with
  | 0x0#4 => decode5 w bs
  | 0x1#4 => decode14 w bs
  | 0x2#4 => decode8 0b00#2 w bs
  | 0x3#4 => decode9 w bs
  | 0x4#4 => decode6 w bs
  | 0x5#4 => fin (.undef16 w) bs
  | 0x6#4 => decode8 0b01#2 w bs
  | 0x7#4 => fin (.undef10 w) bs
  | 0x8#4 => fin (.undef18 w) bs
  | 0x9#4 => fin (.undef13 w) bs
  | 0xA#4 => decode8 0b10#2 w bs
  | 0xB#4 => decode11 w bs
  | 0xC#4 => decode7 w bs
  | 0xD#4 => fin (.undef17 w) bs
  | 0xE#4 => decode8 0b11#2 w bs
  | _ => decode12 w bs

/-- Format 15, first byte nnn10110 (R228). -/
def decode15 (nnn : BitVec 3) (w : BitVec 16) (bs : List Byte) : Parse Instr :=
  match nnn with
  | 0b000#3 => decode150 w bs
  | 0b001#3 => decode151 w bs
  | 0b010#3 => fin (.undef56 w) bs
  | 0b011#3 => fin (.undef76 w) bs
  | 0b100#3 => fin (.undef96 w) bs
  | 0b101#3 => decode155 w bs
  | 0b110#3 => fin (.undefD6 w) bs
  | _ => fin (.undefF6 w) bs

/-- An instruction whose basic part has two bytes after the first: `k` gets bits 23:8 (R181). -/
def withOpWord (bs : List Byte) (k : BitVec 16 → List Byte → Parse Instr) : Parse Instr :=
  match bs with
  | b1 :: b2 :: r => k (b2 ++ b1) r
  | _ => .error .truncated

/-- An instruction whose basic part has one byte after the first, `b`: `k` gets bits 15:0 (R181). -/
def withHalf (b : Byte) (bs : List Byte) (k : BitVec 16 → List Byte → Parse Instr) : Parse Instr :=
  match bs with
  | b1 :: r => k (b1 ++ b) r
  | _ => .error .truncated

/-- The decoder: the tree of R182 on the first byte. An undefined opcode takes the basic part of its format only: DESIGN
CHOICE (log 53). -/
def decode : List Byte → Parse Instr
  | [] => .error .truncated
  | b :: bs =>
    match b.extractLsb' 0 4 with
    | 0xA#4 => decode0 (b.extractLsb' 4 4) bs
    | 0x2#4 => decode1 (b.extractLsb' 4 4) bs
    | 0x6#4 =>
      if b.getLsbD 4 then withOpWord bs (decode15 (b.extractLsb' 5 3))
      else fin (.undef19 (b.extractLsb' 5 3)) bs
    | 0xE#4 => withOpWord bs (decodeE (b.extractLsb' 4 4))
    | 0xC#4 => withHalf b bs (if b.extractLsb' 4 3 == 0b111#3 then decode3 else decode2)
    | 0xD#4 => withHalf b bs (if b.extractLsb' 4 3 == 0b111#3 then decode3 else decode2)
    | 0xF#4 => withHalf b bs (if b.extractLsb' 4 3 == 0b111#3 then decode3 else decode2)
    | _ => withHalf b bs decode4

/-! ### The opcode table's words -/

/-- The `n` bytes of a number, least significant first (R181). -/
def wordBytes : Nat → Nat → List Byte
  | 0, _ => []
  | n + 1, w => BitVec.ofNat 8 w :: wordBytes n (w / 256)

/-- The bytes of an instruction whose first `nbits` bits are `w`, every later bit 0, up to the longest instruction. -/
def tableBytes (nbits w : Nat) : List Byte :=
  wordBytes (nbits / 8) w ++ List.replicate (maxLength - nbits / 8) 0#8

/-- The instruction the decoder reads from a word of the opcode table. -/
def decodeTableWord (nbits w : Nat) : Option Instr :=
  match decode (tableBytes nbits w) with
  | .ok (i, _) => some i
  | .error _ => none

/-! ### The encoder -/

/-- The bytes of a displacement (R200). -/
def Disp.encode : Disp → List Byte
  | .d7 v => [0#1 ++ v]
  | .d14 v => [0b10#2 ++ v.extractLsb' 8 6, v.extractLsb' 0 8]
  | .d30 v => [0b11#2 ++ v.extractLsb' 24 6, v.extractLsb' 16 8, v.extractLsb' 8 8, v.extractLsb' 0 8]

/-- The low `n` bytes of an immediate, most significant first (R206). -/
def encodeImm : Nat → Quad → List Byte
  | 0, _ => []
  | n + 1, v => (v >>> (8 * n)).setWidth 8 :: encodeImm n v

/-- The gen code of a mode (R190). -/
def Mode.code : Mode → BitVec 5
  | .reg n => 0b00#2 ++ n
  | .regRel n _ => 0b01#2 ++ n
  | .memRel .fp _ _ => 0b10000#5
  | .memRel .sp _ _ => 0b10001#5
  | .memRel .sb _ _ => 0b10010#5
  | .imm _ => 0b10100#5
  | .abs _ => 0b10101#5
  | .ext _ _ => 0b10110#5
  | .tos => 0b10111#5
  | .space .fp _ => 0b11000#5
  | .space .sp _ => 0b11001#5
  | .space .sb _ => 0b11010#5
  | .space .pc _ => 0b11011#5

/-- The extension bytes of a mode for an operand of `n` bytes (R190). -/
def Mode.extBytes (n : Nat) : Mode → List Byte
  | .reg _ => []
  | .regRel _ d => d.encode
  | .memRel _ d1 d2 => d1.encode ++ d2.encode
  | .imm v => encodeImm n v
  | .abs d => d.encode
  | .ext d1 d2 => d1.encode ++ d2.encode
  | .tos => []
  | .space _ d => d.encode

/-- The 5-bit gen field (R190). -/
def Gen.code : Gen → BitVec 5
  | .mode m => m.code
  | .reserved => 0b10011#5
  | .idx sc _ _ => 0b111#3 ++ sc.toBits
  | .idxBad sc _ _ => 0b111#3 ++ sc.toBits

/-- The index byte of a gen field, if it has one (R202). -/
def Gen.head : Gen → List Byte
  | .mode _ => []
  | .reserved => []
  | .idx _ n m => [m.code ++ n]
  | .idxBad _ n code => [code ++ n]

/-- The extension bytes of a gen field. -/
def Gen.extBytes (n : Nat) : Gen → List Byte
  | .mode m => m.extBytes n
  | .reserved => []
  | .idx _ _ m => m.extBytes n
  | .idxBad _ _ _ => []

/-- A first byte and an operation word in address order (R181). -/
def enc3 (b : Byte) (w : BitVec 16) : List Byte := [b, w.extractLsb' 0 8, w.extractLsb' 8 8]

/-- A two-byte basic instruction in address order (R181). -/
def enc2 (w : BitVec 16) : List Byte := [w.extractLsb' 0 8, w.extractLsb' 8 8]

/-- Index byte and extension of one operand. -/
def tail1 (n : Nat) (g : Gen) : List Byte := g.head ++ g.extBytes n

/-- Index bytes and extensions of two operands (R180). -/
def tail2 (n1 : Nat) (g1 : Gen) (n2 : Nat) (g2 : Gen) : List Byte :=
  g1.head ++ (g2.head ++ (g1.extBytes n1 ++ g2.extBytes n2))

/-- A three-byte instruction with two operands, `op` in bits 13:10 and `i` in bits 9:8. -/
def encTwo (b : Byte) (op : BitVec 4) (i : BitVec 2) (n1 : Nat) (g1 : Gen) (n2 : Nat) (g2 : Gen) : List Byte :=
  enc3 b (OpWord.toBits { g1 := g1.code, g2 := g2.code, op := op, i := i }) ++ tail2 n1 g1 n2 g2

/-- A Format 4 instruction (R216). -/
def enc4 (op : BitVec 4) (i : Size) (n1 : Nat) (g1 : Gen) (n2 : Nat) (g2 : Gen) : List Byte :=
  enc2 (OpWord.toBits { g1 := g1.code, g2 := g2.code, op := op, i := i.toBits }) ++ tail2 n1 g1 n2 g2

/-- A Format 2 instruction (R213). -/
def encQ (op : BitVec 3) (short : BitVec 4) (i : Size) (g : Gen) : List Byte :=
  enc2 (g.code ++ short ++ op ++ 0b11#2 ++ i.toBits) ++ tail1 i.bytes g

/-- A Format 3 instruction (R215) with an operand of `n` bytes. -/
def encG (op : BitVec 4) (i : Size) (n : Nat) (g : Gen) : List Byte :=
  enc2 (g.code ++ op ++ 0b11111#5 ++ i.toBits) ++ tail1 n g

/-- A string instruction (R217, R218). -/
def encStr (op : BitVec 4) (t : BitVec 1) (i : Size) (o : StrOpts) : List Byte :=
  enc3 0x0E#8 (o.pad.extractLsb' 1 5 ++ o.uw.toBits ++ BitVec.ofBool o.back ++ t ++ o.pad.extractLsb' 0 1
    ++ op ++ i.toBits)

/-- The bytes of an instruction (R210 to R228). -/
def encode : Instr → List Byte
  | .beq d => 0x0A#8 :: d.encode
  | .bne d => 0x1A#8 :: d.encode
  | .bcs d => 0x2A#8 :: d.encode
  | .bcc d => 0x3A#8 :: d.encode
  | .bhi d => 0x4A#8 :: d.encode
  | .bls d => 0x5A#8 :: d.encode
  | .bgt d => 0x6A#8 :: d.encode
  | .ble d => 0x7A#8 :: d.encode
  | .bfs d => 0x8A#8 :: d.encode
  | .bfc d => 0x9A#8 :: d.encode
  | .blo d => 0xAA#8 :: d.encode
  | .bhs d => 0xBA#8 :: d.encode
  | .blt d => 0xCA#8 :: d.encode
  | .bge d => 0xDA#8 :: d.encode
  | .br d => 0xEA#8 :: d.encode
  | .bnever d => 0xFA#8 :: d.encode
  | .bsr d => 0x02#8 :: d.encode
  | .ret d => 0x12#8 :: d.encode
  | .cxp d => 0x22#8 :: d.encode
  | .rxp d => 0x32#8 :: d.encode
  | .rett d => 0x42#8 :: d.encode
  | .reti => [0x52#8]
  | .save m => [0x62#8, m]
  | .restore m => [0x72#8, m]
  | .enter m d => 0x82#8 :: m :: d.encode
  | .exit m => [0x92#8, m]
  | .nop => [0xA2#8]
  | .wait => [0xB2#8]
  | .dia => [0xC2#8]
  | .flag => [0xD2#8]
  | .svc => [0xE2#8]
  | .bpt => [0xF2#8]
  | .movst o => encStr 0#4 1#1 .b o
  | .movs i o => encStr 0#4 0#1 i o
  | .cmpst o => encStr 1#4 1#1 .b o
  | .cmps i o => encStr 1#4 0#1 i o
  | .skpst o => encStr 3#4 1#1 .b o
  | .skps i o => encStr 3#4 0#1 i o
  | .setcfg i short pad => enc3 0x0E#8 (pad.extractLsb' 1 5 ++ short ++ pad.extractLsb' 0 1 ++ 2#4 ++ i.toBits)
  | .undef5 w => enc3 0x0E#8 w
  | .rot i g1 g2 => encTwo 0x4E#8 0#4 i.toBits 1 g1 i.bytes g2
  | .ash i g1 g2 => encTwo 0x4E#8 1#4 i.toBits 1 g1 i.bytes g2
  | .cbit i g1 g2 => encTwo 0x4E#8 2#4 i.toBits i.bytes g1 4 g2
  | .cbiti i g1 g2 => encTwo 0x4E#8 3#4 i.toBits i.bytes g1 4 g2
  | .lsh i g1 g2 => encTwo 0x4E#8 5#4 i.toBits 1 g1 i.bytes g2
  | .sbit i g1 g2 => encTwo 0x4E#8 6#4 i.toBits i.bytes g1 4 g2
  | .sbiti i g1 g2 => encTwo 0x4E#8 7#4 i.toBits i.bytes g1 4 g2
  | .neg i g1 g2 => encTwo 0x4E#8 8#4 i.toBits i.bytes g1 i.bytes g2
  | .not i g1 g2 => encTwo 0x4E#8 9#4 i.toBits i.bytes g1 i.bytes g2
  | .subp i g1 g2 => encTwo 0x4E#8 11#4 i.toBits i.bytes g1 i.bytes g2
  | .abs i g1 g2 => encTwo 0x4E#8 12#4 i.toBits i.bytes g1 i.bytes g2
  | .com i g1 g2 => encTwo 0x4E#8 13#4 i.toBits i.bytes g1 i.bytes g2
  | .ibit i g1 g2 => encTwo 0x4E#8 14#4 i.toBits i.bytes g1 4 g2
  | .addp i g1 g2 => encTwo 0x4E#8 15#4 i.toBits i.bytes g1 i.bytes g2
  | .undef6 w => enc3 0x4E#8 w
  | .movm i g1 g2 d => encTwo 0xCE#8 0#4 i.toBits 4 g1 4 g2 ++ d.encode
  | .cmpm i g1 g2 d => encTwo 0xCE#8 1#4 i.toBits 4 g1 4 g2 ++ d.encode
  | .inss i g1 g2 c => encTwo 0xCE#8 2#4 i.toBits i.bytes g1 4 g2 ++ [c]
  | .exts i g1 g2 c => encTwo 0xCE#8 3#4 i.toBits 4 g1 i.bytes g2 ++ [c]
  | .movxbw i g1 g2 => encTwo 0xCE#8 4#4 i.toBits 1 g1 2 g2
  | .movzbw i g1 g2 => encTwo 0xCE#8 5#4 i.toBits 1 g1 2 g2
  | .movzd i g1 g2 => encTwo 0xCE#8 6#4 i.toBits i.bytes g1 4 g2
  | .movxd i g1 g2 => encTwo 0xCE#8 7#4 i.toBits i.bytes g1 4 g2
  | .mul i g1 g2 => encTwo 0xCE#8 8#4 i.toBits i.bytes g1 i.bytes g2
  | .mei i g1 g2 => encTwo 0xCE#8 9#4 i.toBits i.bytes g1 (2 * i.bytes) g2
  | .dei i g1 g2 => encTwo 0xCE#8 11#4 i.toBits i.bytes g1 (2 * i.bytes) g2
  | .quo i g1 g2 => encTwo 0xCE#8 12#4 i.toBits i.bytes g1 i.bytes g2
  | .rem i g1 g2 => encTwo 0xCE#8 13#4 i.toBits i.bytes g1 i.bytes g2
  | .mod i g1 g2 => encTwo 0xCE#8 14#4 i.toBits i.bytes g1 i.bytes g2
  | .div i g1 g2 => encTwo 0xCE#8 15#4 i.toBits i.bytes g1 i.bytes g2
  | .undef7 w => enc3 0xCE#8 w
  | .extf i r g1 g2 d => encTwo 0x2E#8 (r ++ 0#1) i.toBits 4 g1 i.bytes g2 ++ d.encode
  | .cvtp i r g1 g2 => encTwo 0x6E#8 (r ++ 0#1) i.toBits 4 g1 4 g2
  | .ins i r g1 g2 d => encTwo 0xAE#8 (r ++ 0#1) i.toBits i.bytes g1 4 g2 ++ d.encode
  | .check i r g1 g2 => encTwo 0xEE#8 (r ++ 0#1) i.toBits 4 g1 i.bytes g2
  | .index i r g1 g2 => encTwo 0x2E#8 (r ++ 1#1) i.toBits i.bytes g1 i.bytes g2
  | .ffs i pad g1 g2 => encTwo 0x6E#8 (pad ++ 1#1) i.toBits i.bytes g1 1 g2
  | .movsu i g1 g2 => encTwo 0xAE#8 0b0011#4 i.toBits 4 g1 4 g2
  | .movus i g1 g2 => encTwo 0xAE#8 0b0111#4 i.toBits 4 g1 4 g2
  | .undef8sel w => enc3 0xAE#8 w
  | .undef8op w => enc3 0xEE#8 w
  | .movif f i g1 g2 => encTwo 0x3E#8 (0#3 ++ f.toBits) i.toBits i.bytes g1 f.bytes g2
  | .lfsr fi g1 pad =>
    enc3 0x3E#8 (OpWord.toBits ⟨g1.code, pad, 1#3 ++ fi.extractLsb' 2 1, fi.extractLsb' 0 2⟩) ++ tail1 4 g1
  | .movlf fi g1 g2 => encTwo 0x3E#8 (2#3 ++ fi.extractLsb' 2 1) (fi.extractLsb' 0 2) 8 g1 4 g2
  | .movfl fi g1 g2 => encTwo 0x3E#8 (3#3 ++ fi.extractLsb' 2 1) (fi.extractLsb' 0 2) 4 g1 8 g2
  | .roundfi f i g1 g2 => encTwo 0x3E#8 (4#3 ++ f.toBits) i.toBits f.bytes g1 i.bytes g2
  | .truncfi f i g1 g2 => encTwo 0x3E#8 (5#3 ++ f.toBits) i.toBits f.bytes g1 i.bytes g2
  | .sfsr fi pad g2 =>
    enc3 0x3E#8 (OpWord.toBits ⟨pad, g2.code, 6#3 ++ fi.extractLsb' 2 1, fi.extractLsb' 0 2⟩) ++ tail1 4 g2
  | .floorfi f i g1 g2 => encTwo 0x3E#8 (7#3 ++ f.toBits) i.toBits f.bytes g1 i.bytes g2
  | .undef10 w => enc3 0x7E#8 w
  | .addf f pad g1 g2 => encTwo 0xBE#8 0#4 (pad ++ f.toBits) f.bytes g1 f.bytes g2
  | .movf f pad g1 g2 => encTwo 0xBE#8 1#4 (pad ++ f.toBits) f.bytes g1 f.bytes g2
  | .cmpf f pad g1 g2 => encTwo 0xBE#8 2#4 (pad ++ f.toBits) f.bytes g1 f.bytes g2
  | .slot11at3 f pad g1 g2 => encTwo 0xBE#8 3#4 (pad ++ f.toBits) f.bytes g1 f.bytes g2
  | .subf f pad g1 g2 => encTwo 0xBE#8 4#4 (pad ++ f.toBits) f.bytes g1 f.bytes g2
  | .negf f pad g1 g2 => encTwo 0xBE#8 5#4 (pad ++ f.toBits) f.bytes g1 f.bytes g2
  | .slot11at6 f pad g1 g2 => encTwo 0xBE#8 6#4 (pad ++ f.toBits) f.bytes g1 f.bytes g2
  | .slot11at7 f pad g1 g2 => encTwo 0xBE#8 7#4 (pad ++ f.toBits) f.bytes g1 f.bytes g2
  | .divf f pad g1 g2 => encTwo 0xBE#8 8#4 (pad ++ f.toBits) f.bytes g1 f.bytes g2
  | .slot11at9 f pad g1 g2 => encTwo 0xBE#8 9#4 (pad ++ f.toBits) f.bytes g1 f.bytes g2
  | .slot11at10 f pad g1 g2 => encTwo 0xBE#8 10#4 (pad ++ f.toBits) f.bytes g1 f.bytes g2
  | .slot11at11 f pad g1 g2 => encTwo 0xBE#8 11#4 (pad ++ f.toBits) f.bytes g1 f.bytes g2
  | .mulf f pad g1 g2 => encTwo 0xBE#8 12#4 (pad ++ f.toBits) f.bytes g1 f.bytes g2
  | .absf f pad g1 g2 => encTwo 0xBE#8 13#4 (pad ++ f.toBits) f.bytes g1 f.bytes g2
  | .slot11at14 f pad g1 g2 => encTwo 0xBE#8 14#4 (pad ++ f.toBits) f.bytes g1 f.bytes g2
  | .slot11at15 f pad g1 g2 => encTwo 0xBE#8 15#4 (pad ++ f.toBits) f.bytes g1 f.bytes g2
  | .polyf f pad g1 g2 => encTwo 0xFE#8 2#4 (pad ++ f.toBits) f.bytes g1 f.bytes g2
  | .dotf f pad g1 g2 => encTwo 0xFE#8 3#4 (pad ++ f.toBits) f.bytes g1 f.bytes g2
  | .scalbf f pad g1 g2 => encTwo 0xFE#8 4#4 (pad ++ f.toBits) f.bytes g1 f.bytes g2
  | .logbf f pad g1 g2 => encTwo 0xFE#8 5#4 (pad ++ f.toBits) f.bytes g1 f.bytes g2
  | .slot12 op f pad g1 g2 => encTwo 0xFE#8 op (pad ++ f.toBits) f.bytes g1 f.bytes g2
  | .undef13 w => enc3 0x9E#8 w
  | .cinv a i d pad g1 =>
    enc3 0x1E#8 (g1.code ++ 0#1 ++ BitVec.ofBool a ++ BitVec.ofBool i ++ BitVec.ofBool d ++ pad ++ 0b1001#4 ++ 0b11#2)
      ++ tail1 4 g1
  | .undef14 w => enc3 0x1E#8 w
  | .catst0 w => enc3 0x16#8 w
  | .catst1 w => enc3 0x16#8 w
  | .lcr creg i pad g1 => enc3 0x16#8 (g1.code ++ creg ++ pad ++ 0b0010#4 ++ i) ++ tail1 4 g1
  | .scr creg i pad g1 => enc3 0x16#8 (g1.code ++ creg ++ pad ++ 0b0011#4 ++ i) ++ tail1 4 g1
  | .undef150 w => enc3 0x16#8 w
  | .ccv3ic c i g1 g2 => encTwo 0x36#8 (0#3 ++ c.toBits) i.toBits i.bytes g1 c.bytes g2
  | .lcsr ci g1 pad =>
    enc3 0x36#8 (OpWord.toBits ⟨g1.code, pad, 1#3 ++ ci.extractLsb' 2 1, ci.extractLsb' 0 2⟩) ++ tail1 4 g1
  | .ccv5qd ci g1 g2 => encTwo 0x36#8 (2#3 ++ ci.extractLsb' 2 1) (ci.extractLsb' 0 2) 8 g1 4 g2
  | .ccv4dq ci g1 g2 => encTwo 0x36#8 (3#3 ++ ci.extractLsb' 2 1) (ci.extractLsb' 0 2) 4 g1 8 g2
  | .ccv2ci c i g1 g2 => encTwo 0x36#8 (4#3 ++ c.toBits) i.toBits c.bytes g1 i.bytes g2
  | .ccv1ci c i g1 g2 => encTwo 0x36#8 (5#3 ++ c.toBits) i.toBits c.bytes g1 i.bytes g2
  | .scsr ci pad g2 =>
    enc3 0x36#8 (OpWord.toBits ⟨pad, g2.code, 6#3 ++ ci.extractLsb' 2 1, ci.extractLsb' 0 2⟩) ++ tail1 4 g2
  | .ccv0ci c i g1 g2 => encTwo 0x36#8 (7#3 ++ c.toBits) i.toBits c.bytes g1 i.bytes g2
  | .ccal0 c pad g1 g2 => encTwo 0xB6#8 0#4 (pad ++ c.toBits) c.bytes g1 c.bytes g2
  | .cmov0 c pad g1 g2 => encTwo 0xB6#8 1#4 (pad ++ c.toBits) c.bytes g1 c.bytes g2
  | .ccmp0 c pad g1 g2 => encTwo 0xB6#8 2#4 (pad ++ c.toBits) c.bytes g1 c.bytes g2
  | .ccmp1 c pad g1 g2 => encTwo 0xB6#8 3#4 (pad ++ c.toBits) c.bytes g1 c.bytes g2
  | .ccal1 c pad g1 g2 => encTwo 0xB6#8 4#4 (pad ++ c.toBits) c.bytes g1 c.bytes g2
  | .cmov2 c pad g1 g2 => encTwo 0xB6#8 5#4 (pad ++ c.toBits) c.bytes g1 c.bytes g2
  | .ccal3 c pad g1 g2 => encTwo 0xB6#8 8#4 (pad ++ c.toBits) c.bytes g1 c.bytes g2
  | .cmov3 c pad g1 g2 => encTwo 0xB6#8 9#4 (pad ++ c.toBits) c.bytes g1 c.bytes g2
  | .ccal2 c pad g1 g2 => encTwo 0xB6#8 12#4 (pad ++ c.toBits) c.bytes g1 c.bytes g2
  | .cmov1 c pad g1 g2 => encTwo 0xB6#8 13#4 (pad ++ c.toBits) c.bytes g1 c.bytes g2
  | .slot155 op c pad g1 g2 => encTwo 0xB6#8 op (pad ++ c.toBits) c.bytes g1 c.bytes g2
  | .undef56 w => enc3 0x56#8 w
  | .undef76 w => enc3 0x76#8 w
  | .undef96 w => enc3 0x96#8 w
  | .undefD6 w => enc3 0xD6#8 w
  | .undefF6 w => enc3 0xF6#8 w
  | .undef16 w => enc3 0x5E#8 w
  | .undef17 w => enc3 0xDE#8 w
  | .undef18 w => enc3 0x8E#8 w
  | .undef19 nnn => [nnn ++ 0b00110#5]
  | .addq i q g => encQ 0#3 q i g
  | .cmpq i q g => encQ 1#3 q i g
  | .spr i r g => encQ 2#3 r.toBits i g
  | .scond i c g => encQ 3#3 c.toBits i g
  | .acb i q g d => encQ 4#3 q i g ++ d.encode
  | .movq i q g => encQ 5#3 q i g
  | .lpr i r g => encQ 6#3 r.toBits i g
  | .cxpd i g => encG 0#4 i 4 g
  | .bicpsr i g => encG 2#4 i i.bytes g
  | .jump i g => encG 4#4 i 4 g
  | .bispsr i g => encG 6#4 i i.bytes g
  | .adjsp i g => encG 10#4 i i.bytes g
  | .jsr i g => encG 12#4 i 4 g
  | .casei i g => encG 14#4 i i.bytes g
  | .undef3 gen op i => enc2 (gen ++ op ++ 0b11111#5 ++ i.toBits)
  | .add i g1 g2 => enc4 0#4 i i.bytes g1 i.bytes g2
  | .cmp i g1 g2 => enc4 1#4 i i.bytes g1 i.bytes g2
  | .bic i g1 g2 => enc4 2#4 i i.bytes g1 i.bytes g2
  | .addc i g1 g2 => enc4 4#4 i i.bytes g1 i.bytes g2
  | .mov i g1 g2 => enc4 5#4 i i.bytes g1 i.bytes g2
  | .or i g1 g2 => enc4 6#4 i i.bytes g1 i.bytes g2
  | .sub i g1 g2 => enc4 8#4 i i.bytes g1 i.bytes g2
  | .addr i g1 g2 => enc4 9#4 i 4 g1 4 g2
  | .and i g1 g2 => enc4 10#4 i i.bytes g1 i.bytes g2
  | .subc i g1 g2 => enc4 12#4 i i.bytes g1 i.bytes g2
  | .tbit i g1 g2 => enc4 13#4 i i.bytes g1 4 g2
  | .xor i g1 g2 => enc4 14#4 i i.bytes g1 i.bytes g2

end Sys2Proof
end

