-- ==== Sys2Proof/Config.lean ====
section
/-! DEFINITION. What an implementation or the board fixes, and the free values: opaque constants, most of them applied
to the counter `freeCount` of the state, of which nothing can be proved (log 20). -/

namespace Sys2Proof

/-- What a slave answers (R524 to R527): done, with the two double-words it has ready; a status word; or nothing,
for ever. -/
inductive SlaveReply where
  | done (lo hi : Word)
  | status (sw : Word)
  | silent
  deriving DecidableEq, Repr, Inhabited

/-- Which of the three notes of R230 an unassigned slave opcode follows (U13, log 25). -/
inductive SlotNote where
  | likeMov | likeAdd | likeCmp
  deriving DecidableEq, Repr, Inhabited

namespace Config

/-- A double-word the manual leaves undefined (log 20). -/
opaque freeWord : Nat → Word

/-- A choice the manual leaves open (log 20). -/
opaque freeBool : Nat → Bool

/-- A choice among several that the manual leaves open (log 20). -/
opaque freeNat : Nat → Nat

/-- What the data bus holds at an address where nothing answers (R89, log 40). -/
opaque busByte : Nat → Word → Byte

/-- How many double-words an instruction burst that opens at an address reads after the first before the CPU no longer
needs them (R142, log 40). -/
opaque burstLength : Nat → Word → Nat

/-- The byte an interrupt control unit answers at an address (R145, R631, log 35). -/
opaque icuByte : Nat → Word → Byte

/-- Whether the read of a Memory Relative pointer shows the status of a data transfer, as R273 writes, or that of an
address calculation, as R82, R91 and R140 write: the spec contradicts itself and rules nothing (log 46). -/
opaque pointerIsData : Bool

/-- What a slave answers to an ID byte, an operation word and the double-words sent (R527, log 22). -/
opaque slaveAnswer : Nat → Byte → BitVec 16 → List Word → SlaveReply

/-- The note of an unassigned Format 12 opcode (R225, U13, log 25). -/
opaque note12 : BitVec 4 → SlotNote

/-- The note of an unassigned Format 15.5 opcode (R228, U13, log 25). -/
opaque note155 : BitVec 4 → SlotNote

end Config

end Sys2Proof
end

