-- ==== Sys2Proof/Machine/State.lean ====
section
/-! DEFINITION. The state of the NS32GX32 as plain data, the reasons a step can stop, and the state after reset.
Every field is listed in INVENTORY.md with the rule that names it. -/

namespace Sys2Proof.Machine

/-- The one fault. -/
inductive Fault where
  /-- Raised by a slave instruction whose slave never asserts SDN or FSSR: the CPU waits for ever (R524). Safe: the
  manual gives no time-out, so the machine stops there too (log 22). -/
  | slaveSilent
  deriving DecidableEq, Repr

/-- Where the spec gives no effect at all. Every one is safe: the model goes on nowhere. -/
inductive Refusal where
  /-- Raised by an arm of `exec` whose instruction has no meaning yet. Safe. -/
  | notModelled (mnemonic : String)
  /-- Raised by an instruction with a displacement whose first byte is E0 (R201, D9; log 10). Safe. -/
  | reservedDisplacement
  /-- Raised by a fetch that does not hold a whole instruction; the 25 bytes a step fetches always do (R186). Safe. -/
  | truncatedInstruction
  /-- Raised by a step whose instruction bytes lie in FF800000 to FFFFFFFF (R23, D11; log 39). Safe. -/
  | reservedFetch
  /-- Raised by loading CFG with a 1 in bit 2 or bits 31:13 (R46, U3; log 6). Safe. -/
  | reservedCfgBit
  /-- Raised by an `i` field that selects nothing and is not 11: CXPD, JUMP, JSR, ADDR, CVTP, SETCFG (U12; log 12). Safe. -/
  | unconventionalSize
  /-- Raised by BICPSRD and BISPSRD (R215, U12; log 12). Safe. -/
  | psrDouble
  /-- Raised by MOVXBW and MOVZBW with i other than 00, MOVZiD and MOVXiD with i = 11 (R220, U12; log 12). Safe. -/
  | extendSize
  /-- Raised by a string instruction with U/W = 10 (R218, U12; log 12). Safe. -/
  | stringOption
  /-- Raised by LPRi and SPRi of areg 0101 to 0111 (R243, U12; log 12). Safe. -/
  | reservedAreg
  /-- Raised by LPRi and SPRi with another length than the register's own (U24; log 13). Safe. -/
  | procRegSize
  /-- Raised by a nonzero bit that the encoding writes as 0 (R244, U12; log 11). Safe. -/
  | dontCareBits
  /-- Raised by Register mode for an operand of class addr (R265, U14; log 14). Safe. -/
  | registerAddress
  /-- Raised by an odd register for a double-length operand (R266, U15; log 15). Safe. -/
  | oddPair
  /-- Raised by a MOVMi or CMPMi block that is not 1 to 16 bytes of whole elements (U16; log 15). Safe. -/
  | blockLength
  /-- Raised by an EXTi or INSi field length outside 1 to 32 (U21; log 19). Safe. -/
  | fieldLength
  /-- Raised by a vector byte 80 to EF from the master interrupt control unit (R635; log 36). Safe. -/
  | vectorByte
  deriving DecidableEq, Repr

/-- The operating states of R58; Processing-An-Exception lies inside one step (log 44). -/
inductive OpState where
  | reset | executing | waiting | halted
  deriving DecidableEq, Repr

/-- A cache line: tag, one validity bit and four bytes for each of its four double-words (R120, R130). -/
structure Line where
  tag : BitVec 23
  valid : BitVec 4
  data : Vector Word 4
  deriving DecidableEq, Repr

/-- A set of the data cache: two lines; `lru` says that the second is the least recently used (R130). -/
structure DataSet where
  way0 : Line
  way1 : Line
  lru : Bool
  deriving DecidableEq, Repr

/-- What is in a region of the address space (R9 `PlatformMap`, R89, D5). -/
inductive RegionKind where
  | ram | rom | device | nothing
  deriving DecidableEq, Repr

/-- A region of the board: its kind and how its bus cycles end unless a `BusReply` says otherwise (R9, R89, R133, R142,
R148; log 40). -/
structure Region where
  base : Nat
  size : Nat
  kind : RegionKind
  readError : Bool
  writeError : Bool
  ciin : Bool
  iodec : Bool
  burst : Bool
  deriving DecidableEq, Repr

/-- The board's answer to one bus cycle (R9 `BusResponse`, R158 (b); log 40): whether it ends in a bus error, CIIN,
IODEC, and the bytes that a device puts on the bus. -/
structure BusReply where
  error : Bool
  ciin : Bool
  iodec : Bool
  bytes : List (Word × Byte)
  deriving DecidableEq, Repr

/-- The cache invalidation inputs CINVE, INVIC, INVDC and INVSET (R9, R756; log 43): whether invalidation is enabled,
which cache loses its contents, and whether one set or all of it. -/
structure Invalidation where
  cinve : Bool
  ic : Bool
  dc : Bool
  set : Option (BitVec 5)
  deriving DecidableEq, Repr

/-- What the outside world does before a step: the RST level, edges of NMI and DBG, the INT level, bytes written by
another bus master, and cache invalidation requests (R9, R158; log 41). -/
structure Input where
  rst : Bool
  nmi : Bool
  dbg : Bool
  int : Bool
  writes : List (Word × Byte)
  invalidate : List Invalidation
  deriving DecidableEq, Repr

/-- A reference of the CPU as an instruction-level model sees it (R140, R158 (a)): a memory reference with its status
code, the fetch of a double-word with its, or a slave cycle. -/
inductive Ref where
  | fetch (status : BitVec 5) (addr : Word) (user : Bool)
  | mem (status : BitVec 5) (addr : Word) (size : Nat) (write user interlocked : Bool) (data : Quad)
  | slaveWrite (status : BitVec 5) (data : Word)
  | slaveRead (status : BitVec 5) (data : Word)
  deriving DecidableEq, Repr

/-- A store that may still wait in the write buffer: its address, the bytes it replaced, and whether its bus cycle ends
in a bus error that the CPU has not yet recognized (R101, R625; logs 27, 32). -/
structure PendingStore where
  addr : Word
  old : List Byte
  failed : Bool
  deriving DecidableEq, Repr

/-- Where instruction fetching stands (R140, R702; log 47): nothing fetched since reset, at the start of a new sequence,
or inside one. -/
inductive FetchSequence where
  | unstarted | broken | running
  deriving DecidableEq, Repr

/-- What the fetching of instructions carries from step to step: overwritten bytes that a fetch may still deliver
(R105, U8; log 30), those that may lie in the instruction queue or buffer and those that the instruction cache may have
been filled with; and whether the next double-word continues a sequence (R140). -/
structure FetchUnit where
  prefetched : List (Word × Byte)
  cached : List (Word × Byte)
  sequence : FetchSequence
  deriving DecidableEq, Repr

/-- Nothing fetched yet. -/
def FetchUnit.empty : FetchUnit := { prefetched := [], cached := [], sequence := .unstarted }

/-- The machine. -/
structure State where
  regs : Vector Word 8
  pc : Word
  sp0 : Word
  sp1 : Word
  fp : Word
  sb : Word
  intbase : Word
  mod : Half
  psr : Half
  cfg : Word
  dcr : Word
  dsr : Word
  car : Word
  bpc : Word
  op : OpState
  nmiLatch : Bool
  dbgLatch : Bool
  dbgPending : Bool
  intLow : Bool
  midString : Bool
  elementRefs : List Ref
  afterException : Bool
  writeBuffer : List PendingStore
  fetchUnit : FetchUnit
  icache : Vector Line 32
  dcache : Vector DataSet 32
  mem : List Host.Cell
  freeCount : Nat
  refs : List Ref
  icuReplies : List Byte
  slaveReplies : List SlaveReply
  busReplies : List BusReply
  platform : List Region
  inputs : List Input
  deriving DecidableEq, Repr

/-- A line with nothing valid in it. -/
def emptyLine : Line := { tag := 0#23, valid := 0#4, data := Vector.replicate 4 0#32 }

/-- An empty set of the data cache. -/
def emptySet : DataSet := { way0 := emptyLine, way1 := emptyLine, lru := false }

/-- The machine after reset (R70, R700). The registers whose reset value the spec does not give hold 0
(DESIGN CHOICE, log 2). -/
def State.reset : State :=
  { regs := Vector.replicate 8 0#32
    pc := 0#32
    sp0 := 0#32
    sp1 := 0#32
    fp := 0#32
    sb := 0#32
    intbase := 0#32
    mod := 0#16
    psr := 0#16
    cfg := 0x000000F0#32
    dcr := 0#32
    dsr := 0#32
    car := 0#32
    bpc := 0#32
    op := .executing
    nmiLatch := false
    dbgLatch := false
    dbgPending := false
    intLow := false
    midString := false
    elementRefs := []
    afterException := false
    writeBuffer := []
    fetchUnit := .empty
    icache := Vector.replicate 32 emptyLine
    dcache := Vector.replicate 32 emptySet
    mem := []
    freeCount := 0
    refs := []
    icuReplies := []
    slaveReplies := []
    busReplies := []
    platform := []
    inputs := [] }

end Sys2Proof.Machine
end

