-- ==== Sys2Proof/Machine/Memory.lean ====
section
/-! DEFINITION. Memory as a canonical list of cells (R80 to R83), the board's regions (R89), and the two caches as
arrays of lines (R120 to R136). -/

namespace Sys2Proof.Machine

/-- What an address that the list does not mention reads as: 00 (DESIGN CHOICE, log 1). -/
def memDefault : Byte := 0#8

/-- The byte at an address. -/
def memGet : List Host.Cell → Nat → Byte
  | [], _ => memDefault
  | (k, b) :: rest, a => if a = k then b else memGet rest a

/-- Memory with the byte `v` at the address `a`; writing the default removes the cell. -/
def memSet : List Host.Cell → Nat → Byte → List Host.Cell
  | [], a, v => if v = memDefault then [] else [(a, v)]
  | (k, b) :: rest, a, v =>
    if a < k then (if v = memDefault then (k, b) :: rest else (a, v) :: (k, b) :: rest)
    else if a = k then (if v = memDefault then rest else (a, v) :: rest)
    else (k, b) :: memSet rest a v

/-- Cells strictly rising from `lo` on, inside the address space (R80), none holding the default. -/
def memWfFrom (lo : Nat) : List Host.Cell → Bool
  | [] => true
  | (k, b) :: rest => decide (lo ≤ k) && decide (k < 4294967296) && decide (b ≠ memDefault) && memWfFrom (k + 1) rest

/-- The canonical form of memory. -/
def Memory.wf (m : List Host.Cell) : Bool := memWfFrom 0 m

/-! ### Bytes of values -/

/-- The little-endian value of bytes (R81, R82). -/
def ofBytes : List Byte → Quad
  | [] => 0#64
  | b :: rest => (ofBytes rest <<< 8) ||| b.setWidth 64

/-- The low `n` bytes of a value, least significant first (R83). -/
def toBytes : Nat → Quad → List Byte
  | 0, _ => []
  | n + 1, v => v.setWidth 8 :: toBytes n (v >>> 8)

/-- The bytes that `f` gives at `n` addresses from `a`, modulo 2^32 (R82, D11). -/
def bytesFrom (f : Word → Byte) (a : Word) : Nat → List Byte
  | 0 => []
  | n + 1 => f a :: bytesFrom f (a + 1#32) n

/-- Whether `p` holds at one of `n` addresses from `a`. -/
def anyFrom (p : Word → Bool) (a : Word) : Nat → Bool
  | 0 => false
  | n + 1 => p a || anyFrom p (a + 1#32) n

/-- The address of the first of `n` bytes from `a` of the `k`-th aligned double-word they touch; used to look a
reference up double-word by double-word (R86). -/
def dwordsOf (a : Word) : Nat → List Word
  | 0 => []
  | n + 1 => a :: (dwordsOf (a + 1#32) n).filter (fun x => x.extractLsb' 0 2 == 0#2)

/-! ### The board -/

/-- The region of an address that no entry of `platform` covers: RAM, cacheable, with burst cycles, never in error
(D5, log 40). -/
def defaultRegion : Region :=
  { base := 0, size := 4294967296, kind := .ram, readError := false, writeError := false, ciin := false,
    iodec := false, burst := true }

/-- The region an address lies in: the first entry that covers it (R89). -/
def regionAt : List Region → Word → Region
  | [], _ => defaultRegion
  | r :: rest, a => if r.base ≤ a.toNat && a.toNat < r.base + r.size then r else regionAt rest a

/-- How the board answers the bus cycle in hand at an address (R9, R158): as the next bus reply says, else as the
region does. -/
def regionOf (s : State) (a : Word) : Region :=
  let r := regionAt s.platform a
  match s.busReplies with
  | [] => r
  | b :: _ => { r with readError := b.error, writeError := b.error, ciin := b.ciin, iodec := b.iodec }

/-- The byte that the next bus reply has for an address. -/
def replyByte (s : State) (a : Word) : Option Byte :=
  s.busReplies.head?.bind fun b => (b.bytes.find? fun e => e.1 == a).map (·.2)

/-- What the bus delivers at an address (R89): memory; a device's byte; or where nothing answers a free byte. -/
def busByte (s : State) (a : Word) : Byte :=
  match (regionAt s.platform a).kind with
  | .ram => memGet s.mem a.toNat
  | .rom => memGet s.mem a.toNat
  | .device => (replyByte s a).getD (Config.busByte s.freeCount a)
  | .nothing => Config.busByte s.freeCount a

/-- Whether a location may be cached: CIIN and IODEC inactive (R123, R133). -/
def cacheable (s : State) (a : Word) : Bool := !(regionOf s a).ciin && !(regionOf s a).iodec

/-- Whether a location is on a cacheable page (R113): the region's own CIIN and IODEC. -/
def cacheablePage (s : State) (a : Word) : Bool :=
  !(regionAt s.platform a).ciin && !(regionAt s.platform a).iodec

/-- One bus cycle made: its reply is used up (R9). -/
def useReply (s : State) : State := { s with busReplies := s.busReplies.tail }

/-! ### References double-word by double-word (R86) -/

/-- The bytes of a reference, each with the state in which the bus cycle of its double-word is made: `cur` for the
double-word in hand, `next` for the one after it; `look` is what reading or looking up one double-word does. -/
def viewsFrom (look : State → Word → State) (cur next : State) (a : Word) : Nat → List (Word × State)
  | 0 => []
  | n + 1 =>
    if a.extractLsb' 0 2 = 0#2 then (a, next) :: viewsFrom look next (look next a) (a + 1#32) n
    else (a, cur) :: viewsFrom look cur next (a + 1#32) n

/-- The `n` bytes of a reference from an address, each with the state in which its bus cycle is made. -/
def views (look : State → Word → State) (s : State) (a : Word) (n : Nat) : List (Word × State) :=
  viewsFrom look s (if a.extractLsb' 0 2 = 0#2 then s else look s a) a n

/-- The state after every double-word of a reference. -/
def afterViews (look : State → Word → State) (s : State) (a : Word) (n : Nat) : State := (dwordsOf a n).foldl look s

/-- A bus cycle that looks up nothing: a write, or a read past the caches. -/
def plainCycle (s : State) (_ : Word) : State := useReply s

/-- Memory after a byte is stored: only RAM keeps it (R89). -/
def storeByte (p : List Region) (m : List Host.Cell) (a : Word) (v : Byte) : List Host.Cell :=
  if (regionAt p a).kind = .ram then memSet m a.toNat v else m

/-- Memory after bytes are stored at consecutive addresses (R83). -/
def storeBytes (p : List Region) (m : List Host.Cell) (a : Word) : List Byte → List Host.Cell
  | [] => m
  | b :: rest => storeBytes p (storeByte p m a b) (a + 1#32) rest

/-! ### Cache lines (R120, R130: tag 31:9, set 8:4, double-word 3:2, byte 1:0) -/

/-- The tag of an address. -/
def tagOf (a : Word) : BitVec 23 := a.extractLsb' 9 23
/-- The set of an address. -/
def setOf (a : Word) : Fin 32 := (a.extractLsb' 4 5).toFin
/-- The double-word of an address in its line. -/
def dwordOf (a : Word) : Fin 4 := (a.extractLsb' 2 2).toFin

/-- Whether a line holds an address's double-word (R122, R132). -/
def Line.hit (l : Line) (a : Word) : Bool := l.tag == tagOf a && l.valid.getLsbD (dwordOf a).val

/-- The byte of a line at an address. -/
def Line.byte (l : Line) (a : Word) : Byte :=
  (l.data[dwordOf a] >>> (8 * (a.extractLsb' 0 2).toNat)).setWidth 8

/-- A line with a byte replaced. -/
def Line.setByte (l : Line) (a : Word) (v : Byte) : Line :=
  let k := 8 * (a.extractLsb' 0 2).toNat
  let w := (l.data[dwordOf a] &&& ~~~(0xFF#32 <<< k)) ||| (v.setWidth 32 <<< k)
  { l with data := l.data.set (dwordOf a).val w (dwordOf a).isLt }

/-- The double-word that memory holds at an aligned address. -/
def dwordAt (s : State) (a : Word) : Word := (ofBytes (bytesFrom (busByte s) a 4)).setWidth 32

/-- The first step of a miss (R123, R133): if the tag differs it is loaded and every validity bit is cleared. -/
def Line.claim (l : Line) (a : Word) : Line :=
  if l.tag == tagOf a then l else { l with tag := tagOf a, valid := 0#4 }

/-- Whether reading the aligned double-word at an address ends in a bus error (R148). -/
def dwordError (s : State) (a : Word) : Bool := anyFrom (fun x => (regionOf s x).readError) a 4

/-- A line with one double-word loaded and made valid. -/
def Line.load (l : Line) (k : Fin 4) (w : Word) : Line :=
  { l with data := l.data.set k.val w k.isLt, valid := l.valid ||| (1#4 <<< k.val) }

/-- The address of the `k`-th double-word of the 16-byte block of an address. -/
def blockWord (a : Word) (k : Fin 4) : Word := (a &&& 0xFFFFFFF0#32) + BitVec.ofNat 32 (4 * k.val)

/-- Double-words of one block read in a burst, a bus cycle each (R142), until the board ends it or IODEC is active. A
double-word is cached if its own cycle has CIIN and IODEC inactive (R123, R133; log 40) and ends in no error, for then
its data is ignored (R141, R148), and so is its IODEC (R154). -/
def burstRead (a : Word) (l : Line) (s : State) : List (Fin 4) → Line × State
  | [] => (l, s)
  | k :: rest =>
    let x := blockWord a k
    let l' := if cacheable s x && !dwordError s x then l.load k (dwordAt s x) else l
    if (regionAt s.platform x).burst && (!(regionOf s x).iodec || dwordError s x) then burstRead a l' (useReply s) rest
    else (l', useReply s)

/-! ### CFG bits (R40) -/

/-- CFG.I. -/
def State.cfgI (s : State) : Bool := s.cfg.getLsbD 0
/-- CFG.F. -/
def State.cfgF (s : State) : Bool := s.cfg.getLsbD 1
/-- CFG.C. -/
def State.cfgC (s : State) : Bool := s.cfg.getLsbD 3
/-- CFG.DE. -/
def State.cfgDE (s : State) : Bool := s.cfg.getLsbD 8
/-- CFG.DC. -/
def State.cfgDC (s : State) : Bool := s.cfg.getLsbD 9
/-- CFG.LDC. -/
def State.cfgLDC (s : State) : Bool := s.cfg.getLsbD 10
/-- CFG.IC. -/
def State.cfgIC (s : State) : Bool := s.cfg.getLsbD 11
/-- CFG.LIC. -/
def State.cfgLIC (s : State) : Bool := s.cfg.getLsbD 12

/-! ### The data cache (R130 to R136) -/

/-- The byte the data cache holds at an address, if it does (R132). -/
def dcByte (s : State) (a : Word) : Option Byte :=
  let set := s.dcache[setOf a]
  if set.way0.hit a then some (set.way0.byte a)
  else if set.way1.hit a then some (set.way1.byte a)
  else none

/-- The order in which a data burst reads the double-words of a block: wrap-around (R133, R142). -/
def dataBurst (a : Word) : List (Fin 4) := [dwordOf a, dwordOf a + 1, dwordOf a + 2, dwordOf a + 3]

/-- One double-word looked up for a read (R132 to R134): a hit marks the other line as least recently used and makes no
bus cycle; a miss claims a line unless the cache is locked, and fills it with what may be cached. That a miss which
fills nothing counts as a use of its line is the model's choice (log 31). -/
def dcLookup (s : State) (a : Word) : State :=
  let set := s.dcache[setOf a]
  let put (u : State) (x : DataSet) : State := { u with dcache := s.dcache.set (setOf a).val x (setOf a).isLt }
  if set.way0.hit a then put s { set with lru := true }
  else if set.way1.hit a then put s { set with lru := false }
  else if s.cfgLDC then useReply s
  else
    let second := if set.way0.tag == tagOf a then false else if set.way1.tag == tagOf a then true else set.lru
    let r := burstRead a ((if second then set.way1 else set.way0).claim a) s (dataBurst a)
    put r.2 (if second then { set with way1 := r.1, lru := false } else { set with way0 := r.1, lru := true })

/-- A data set after a byte is written: a hit is updated, locked or not (R135, U9). -/
def DataSet.write (set : DataSet) (a : Word) (v : Byte) : DataSet :=
  if set.way0.hit a then { set with way0 := set.way0.setByte a v }
  else if set.way1.hit a then { set with way1 := set.way1.setByte a v }
  else set

/-- The data cache after bytes are written (R135). -/
def dcWrite (dc : Vector DataSet 32) (a : Word) : List Byte → Vector DataSet 32
  | [] => dc
  | b :: rest => dcWrite (dc.set (setOf a).val (dc[setOf a].write a b) (setOf a).isLt) (a + 1#32) rest

/-- A line with nothing valid (R125, R136). -/
def Line.invalidate (l : Line) : Line := { l with valid := 0#4 }

/-- A line invalidated if it holds the 16-byte block of an address (R495). -/
def Line.invalidateBlock (l : Line) (a : Word) : Line := if l.tag == tagOf a then l.invalidate else l

/-- A set of the data cache with nothing valid (R136). -/
def DataSet.invalidate (x : DataSet) : DataSet := { x with way0 := x.way0.invalidate, way1 := x.way1.invalidate }

/-- The data cache with nothing valid (R136). -/
def dcInvalidate (dc : Vector DataSet 32) : Vector DataSet 32 := dc.map DataSet.invalidate

/-- The data cache without one block (R136, R495). -/
def dcInvalidateBlock (dc : Vector DataSet 32) (a : Word) : Vector DataSet 32 :=
  let x := dc[setOf a]
  dc.set (setOf a).val { x with way0 := x.way0.invalidateBlock a, way1 := x.way1.invalidateBlock a } (setOf a).isLt

/-! ### The instruction cache (R120 to R126) -/

/-- The byte the instruction cache holds at an address, if it is enabled and does (R121, R122). -/
def icByte (s : State) (a : Word) : Option Byte :=
  let l := s.icache[setOf a]
  if s.cfgIC && l.hit a then some (l.byte a) else none

/-- The double-words of a block that an instruction burst reads: in order to its end (R123), or fewer, where the CPU
detects that what it prefetches is no longer needed (R142); how many is free (log 40). -/
def codeBurst (s : State) (a : Word) : List (Fin 4) :=
  (([0, 1, 2, 3] : List (Fin 4)).filter fun k => decide (dwordOf a ≤ k)).take (1 + Config.burstLength s.freeCount a)

/-- One double-word looked up for a fetch (R121 to R124): a hit makes no bus cycle; a miss fills from it towards the end
of its block, unless the cache is locked. -/
def icLookup (s : State) (a : Word) : State :=
  let l := s.icache[setOf a]
  if !s.cfgIC then useReply s
  else if l.hit a then s
  else if s.cfgLIC then useReply s
  else
    let r := burstRead a (l.claim a) s (codeBurst s a)
    { r.2 with icache := s.icache.set (setOf a).val r.1 (setOf a).isLt }

/-- The instruction cache with nothing valid (R125). -/
def icInvalidate (ic : Vector Line 32) : Vector Line 32 := ic.map Line.invalidate

/-- The instruction cache without one block (R125, R495). -/
def icInvalidateBlock (ic : Vector Line 32) (a : Word) : Vector Line 32 :=
  ic.set (setOf a).val (ic[setOf a].invalidateBlock a) (setOf a).isLt

/-! ### Bytes that a fetch may still see old (R105, U8; log 30) -/

/-- The overwritten bytes, remembered beside those already known. -/
def noteStale (p : List Region) (m : List Host.Cell) (a : Word) (known : List (Word × Byte)) :
    List Byte → List (Word × Byte)
  | [] => known
  | b :: rest =>
    let old := memGet m a.toNat
    let known' := if (regionAt p a).kind = .ram && old != b && !known.contains (a, old) then (a, old) :: known else known
    noteStale p m (a + 1#32) known' rest

/-- The overwritten bytes that a fetch may still deliver: prefetched ones, and with the instruction cache enabled those
it may have been filled with. -/
def staleBytes (s : State) : List (Word × Byte) :=
  s.fetchUnit.prefetched ++ (if s.cfgIC then s.fetchUnit.cached else [])

/-- The bytes a fetch of an address may deliver: the cached one (R122), the overwritten ones (U8), and the one on the
bus; after a hit the last only in RAM, where it is the cached one unless it has been stored since. -/
def fetchCandidates (s : State) (a : Word) : List Byte :=
  let stale := ((staleBytes s).filter fun e => e.1 == a).map (·.2)
  match icByte s a with
  | some b => b :: (stale ++ (if (regionAt s.platform a).kind = .ram then [memGet s.mem a.toNat] else []))
  | none => stale ++ [busByte s a]

/-- The `k`-th byte of a fetch: one of its candidates, a free choice where they differ. -/
def fetchByte (s : State) (k : Nat) (a : Word) : Byte :=
  let cs := fetchCandidates s a
  let h := cs.headD (busByte s a)
  if cs.all (· == h) then h
  else cs.getD (Config.freeNat (s.freeCount + k) % cs.length) h

/-- The bytes fetched at addresses, each in the state of its own bus cycle; `k` numbers the first. -/
def fetchAll (k : Nat) : List (Word × State) → List Byte
  | [] => []
  | e :: rest => fetchByte e.2 k e.1 :: fetchAll (k + 1) rest

/-- The `n` bytes fetched from an address. -/
def fetchFrom (s : State) (a : Word) (n : Nat) : List Byte := fetchAll 0 (views icLookup s a n)

/-! ### Storing (R83, R101, R105, R135) -/

/-- What a fetch may still see once bytes are overwritten: any prefetched byte, and where the instruction cache is
enabled and may hold the location (R113) a cached one too. -/
def FetchUnit.note (s : State) (a : Word) (bs : List Byte) : FetchUnit :=
  { s.fetchUnit with
    prefetched := noteStale s.platform s.mem a s.fetchUnit.prefetched bs
    cached :=
      if s.cfgIC && anyFrom (cacheablePage s) a bs.length then noteStale s.platform s.mem a s.fetchUnit.cached bs
      else s.fetchUnit.cached }

/-- Everything a store does: memory, a data-cache hit, the bytes a fetch may still see, the write buffer. -/
def store (s : State) (a : Word) (bs : List Byte) (failed : Bool) : State :=
  { s with
    mem := storeBytes s.platform s.mem a bs
    dcache := if s.cfgDC then dcWrite s.dcache a bs else s.dcache
    fetchUnit := .note s a bs
    writeBuffer :=
      { addr := a, old := bytesFrom (fun x => memGet s.mem x.toNat) a bs.length, failed := failed } :: s.writeBuffer }

/-- Bytes of which `b` lies at `a`, when they start at `x`. -/
def patchByte (a : Word) (b : Byte) (x : Word) : List Byte → List Byte
  | [] => []
  | c :: rest => (if x = a then b else c) :: patchByte a b (x + 1#32) rest

/-- A byte another bus master writes: memory changes, no cache does (R126, R137); losing a pending store later does not
lose that byte (R101; log 32). Before the first fetch after a reset nothing has been prefetched (R702). -/
def externalWrite (s : State) (a : Word) (b : Byte) : State :=
  { s with
    mem := storeByte s.platform s.mem a b
    fetchUnit := if s.fetchUnit.sequence = .unstarted then s.fetchUnit else .note s a [b]
    writeBuffer := s.writeBuffer.map fun w => { w with old := patchByte a b w.addr w.old } }

/-- Bytes another bus master writes, one after the other. -/
def externalWrites (s : State) : List (Word × Byte) → State
  | [] => s
  | (a, b) :: rest => externalWrites (externalWrite s a b) rest

/-- The last `k` pending stores lost (R101, R700; log 32). -/
def undoStores (p : List Region) (m : List Host.Cell) : Nat → List PendingStore → List Host.Cell
  | 0, _ => m
  | _ + 1, [] => m
  | k + 1, w :: rest => undoStores p (storeBytes p m w.addr w.old) k rest

/-- Whether a write has ended in a bus error that is not yet recognized (R625, R690). -/
def State.pendingError (s : State) : Bool := s.writeBuffer.any (·.failed)

/-- Fetching goes on elsewhere: the next double-word is the first of a new sequence (R140). -/
def FetchUnit.restart (f : FetchUnit) : FetchUnit :=
  { f with sequence := if f.sequence = .unstarted then .unstarted else .broken }

/-- The prefetched bytes discarded (R110); what the instruction cache may hold is still there (R113). That fetching then
starts a new sequence is DEDUCED (R140, log 47). -/
def discardPrefetched (s : State) : State := { s with fetchUnit := { s.fetchUnit.restart with prefetched := [] } }

/-- The instruction cache loses what it holds of the selected addresses (R125): what was fetched from it may still lie
in the instruction queue. -/
def forgetCached (sel : Word → Bool) (s : State) : State :=
  let gone := s.fetchUnit.cached.filter fun e => sel e.1
  { s with
    fetchUnit := { s.fetchUnit with
      prefetched := gone ++ s.fetchUnit.prefetched
      cached := s.fetchUnit.cached.filter fun e => !sel e.1 } }

/-- An address of the range in which reads and writes are kept in order (R88, R108, C7). -/
def ioAddress (a : Word) : Bool := decide (0xFF000000 ≤ a.toNat)

/-- Whether a data read of `n` bytes at an address waits for a pending store: the store is to one of its bytes (R104),
IODEC counts in one of its bus cycles (R107, R154), or both lie in the dedicated range (R108). -/
def waitsFor (iodec : Bool) (a : Word) (n : Nat) (w : PendingStore) : Bool :=
  anyFrom (fun x => decide ((x - w.addr).toNat < w.old.length)) a n
    || iodec
    || (anyFrom ioAddress a n && anyFrom ioAddress w.addr w.old.length)

end Sys2Proof.Machine
end

