-- ==== Sys2Proof/Machine/Ops.lean ====
section
/-! DEFINITION. The named operations the meanings are written over: the machine monad, the status register, memory
references, the stack, debug conditions, serializing operations, taking an exception and returning from one. -/

namespace Sys2Proof.Machine

/-! ### The machine monad -/

/-- The traps an instruction can end in by suspension (R620). -/
inductive TrapKind where
  | slave | ill | svc | dvz | flg | bpt | und
  deriving DecidableEq, Repr

/-- Why an instruction's actions stop before it completes. -/
inductive Stop where
  /-- One of the seven traps (R620). -/
  | trap (k : TrapKind)
  /-- A bus error on a read (R624). -/
  | readError
  /-- A bus error on a write, recognized now (R625). -/
  | writeError
  /-- A bus error that halts the CPU (R626). -/
  | fatal
  /-- No effect in the spec. -/
  | refuse (r : Refusal)
  /-- The machine stops. -/
  | fault (f : Fault)
  deriving DecidableEq, Repr

/-- Actions on the state that may stop, keeping the state they stopped in. -/
abbrev M (α : Type) := EStateM Stop State α

/-- The outcome type of a step. -/
abbrev Out := Host.Outcome State Fault Refusal

/-- The state. -/
def getS : M State := fun s => .ok s s
/-- A change of the state. -/
def upd (f : State → State) : M Unit := fun s => .ok () (f s)
/-- Stop here. -/
def stop {α : Type} (e : Stop) : M α := fun s => .error e s
/-- Stop here if `b`. -/
def stopIf (b : Bool) (e : Stop) : M Unit := fun s => if b then .error e s else .ok () s

/-- A free double-word (log 20). -/
def drawWord : M Word := fun s => .ok (Config.freeWord s.freeCount) { s with freeCount := s.freeCount + 1 }
/-- A free choice (log 20). -/
def drawBool : M Bool := fun s => .ok (Config.freeBool s.freeCount) { s with freeCount := s.freeCount + 1 }
/-- A free number (log 20). -/
def drawNat : M Nat := fun s => .ok (Config.freeNat s.freeCount) { s with freeCount := s.freeCount + 1 }

/-! ### The processor status register (R32, R33) -/

/-- The implemented bits of PSR (R32): bits 3 and 15:12 read 0 and ignore writes (R33, D2). -/
def psrMask : Half := 0x0FF7#16

/-- The implemented bits of DCR (R48). -/
def dcrMask : Word := 0x00FE00EF#32
/-- The implemented bits of DSR (R49). -/
def dsrMask : Word := 0xF0000000#32
/-- The implemented bits of CFG (R40). -/
def cfgMask : Word := 0x00001F0B#32

/-- A status word with one bit written. -/
def setBit (p : Half) (k : Nat) (b : Bool) : Half := if b then p ||| (1#16 <<< k) else p &&& ~~~(1#16 <<< k)

/-- PSR.C, bit 0. -/
def State.flagC (s : State) : Bool := s.psr.getLsbD 0
/-- PSR.T, bit 1. -/
def State.flagT (s : State) : Bool := s.psr.getLsbD 1
/-- PSR.L, bit 2. -/
def State.flagL (s : State) : Bool := s.psr.getLsbD 2
/-- PSR.V, bit 4. -/
def State.flagV (s : State) : Bool := s.psr.getLsbD 4
/-- PSR.F, bit 5. -/
def State.flagF (s : State) : Bool := s.psr.getLsbD 5
/-- PSR.Z, bit 6. -/
def State.flagZ (s : State) : Bool := s.psr.getLsbD 6
/-- PSR.N, bit 7. -/
def State.flagN (s : State) : Bool := s.psr.getLsbD 7
/-- PSR.U, bit 8: user mode (R38). -/
def State.flagU (s : State) : Bool := s.psr.getLsbD 8
/-- PSR.S, bit 9: the stack pointer is SP1 (R39). -/
def State.flagS (s : State) : Bool := s.psr.getLsbD 9
/-- PSR.P, bit 10: trace pending (R36). -/
def State.flagP (s : State) : Bool := s.psr.getLsbD 10
/-- PSR.I, bit 11: maskable interrupts enabled (R39). -/
def State.flagI (s : State) : Bool := s.psr.getLsbD 11

/-- C and F written (R320). -/
def setCF (c f : Bool) (p : Half) : Half := setBit (setBit p 0 c) 5 f
/-- F written. -/
def setF (f : Bool) (p : Half) : Half := setBit p 5 f
/-- Z, N and L written (R337). -/
def setZNL (z n l : Bool) (p : Half) : Half := setBit (setBit (setBit p 6 z) 7 n) 2 l
/-- P written (R36). -/
def setP (b : Bool) (p : Half) : Half := setBit p 10 b

/-- A change of PSR. -/
def updPsr (f : Half → Half) : M Unit := upd fun s => { s with psr := f s.psr }

/-! ### Registers -/

/-- General register `n` (R21). -/
def State.reg (s : State) (n : RegNum) : Word := s.regs[n.toNat]'n.isLt

/-- General register `n` written, all 32 bits (R12). -/
def State.setReg (s : State) (n : RegNum) (v : Word) : State := { s with regs := s.regs.set n.toNat v n.isLt }

/-- The low `8n` bits of a register replaced, the others kept (R21, R263). -/
def mergeLow (n : Nat) (old : Word) (v : Quad) : Word :=
  match n with
  | 1 => (old &&& 0xFFFFFF00#32) ||| (v.setWidth 32 &&& 0x000000FF#32)
  | 2 => (old &&& 0xFFFF0000#32) ||| (v.setWidth 32 &&& 0x0000FFFF#32)
  | _ => v.setWidth 32

/-- The selected stack pointer (R25). -/
def State.sp (s : State) : Word := if s.flagS then s.sp1 else s.sp0

/-- The selected stack pointer written (R25). -/
def State.setSp (s : State) (v : Word) : State := if s.flagS then { s with sp1 := v } else { s with sp0 := v }

/-! ### Memory references (R82, R83, R91, R140) -/

/-- Status 01010: data transfer. -/
def stData : BitVec 5 := 0b01010#5
/-- Status 01011: read of a read-modify-write operand; also of a bit or bit-field base that the instruction changes
(DESIGN CHOICE, log 46). -/
def stRmw : BitVec 5 := 0b01011#5
/-- Status 01100: read for an effective address (R82, R91, R140). -/
def stAddress : BitVec 5 := 0b01100#5
/-- The status of the pointer read of Memory Relative mode: 01010, which R273 writes as 1010, or 01100, as R82, R91 and
R140 have it; which of the two is left open: DESIGN CHOICE (log 46). -/
def stPointer : BitVec 5 := if Config.pointerIsData then stData else stAddress
/-- Status 01000: sequential instruction fetch (R140). -/
def stSequential : BitVec 5 := 0b01000#5
/-- Status 01001: non-sequential instruction fetch (R140). -/
def stNonSequential : BitVec 5 := 0b01001#5

/-- How a reference is made: its status, the U/S pin, interlocked or not, past the data cache or through it. -/
structure RefKind where
  status : BitVec 5
  user : Bool
  interlocked : Bool
  cached : Bool
  deriving DecidableEq, Repr

/-- The byte a data read delivers: the data cache's on a hit, else the bus's (R131, R132). -/
def readByte (cached : Bool) (s : State) (a : Word) : Byte :=
  if cached && s.cfgDC then (dcByte s a).getD (busByte s a) else busByte s a

/-- Whether reading an address makes a bus cycle: a data-cache hit makes none (R132). -/
def readCycleAt (cached : Bool) (s : State) (a : Word) : Bool := !(cached && s.cfgDC && (dcByte s a).isSome)

/-- Whether reading an address makes a bus cycle that ends in a bus error (R148). -/
def readErrorAt (cached : Bool) (s : State) (a : Word) : Bool :=
  (regionOf s a).readError && readCycleAt cached s a

/-- The write buffer written to memory up to the newest store that `p` selects, in program order (R101, R103). A write
that ended in a bus error is recognized when it is due (R625; log 27). -/
def settleWrites (p : PendingStore → Bool) : M Unit := fun s =>
  let waiting := s.writeBuffer.takeWhile fun w => !p w
  if (s.writeBuffer.drop waiting.length).any (·.failed) then .error .writeError s
  else .ok () { s with writeBuffer := waiting }

/-- The write buffer empty: every earlier store has reached memory (R110). -/
def drain : M Unit := settleWrites fun _ => true

/-- A serializing operation (R110): the write buffer drained, the prefetched instructions discarded. -/
def serialize : M Unit := do
  drain
  upd discardPrefetched

/-- What reading one double-word does: through the data cache (R132, R133), or a bus cycle past it. -/
def readCycle (cached : Bool) (s : State) (a : Word) : State :=
  if cached && s.cfgDC then dcLookup s a else plainCycle s a

/-- The bytes of a data read, each with the state in which its double-word is read (R86). -/
def dataViews (cached : Bool) (s : State) (a : Word) (n : Nat) : List (Word × State) := views (readCycle cached) s a n

/-- Whether IODEC is active in one of the bus cycles of a data read (R107); in a cycle that ends in a bus error it is
ignored (R154). -/
def ioRead (cached : Bool) (s : State) (a : Word) (n : Nat) : Bool :=
  let vs := dataViews cached s a n
  let failed (a : Word) : Bool :=
    vs.any fun e => e.1.extractLsb' 2 30 == a.extractLsb' 2 30 && readErrorAt cached e.2 e.1
  vs.any fun e => (regionOf e.2 e.1).iodec && readCycleAt cached e.2 e.1 && !failed e.1

/-- The bus cycles of a read reference (R82): its bytes, the data cache looked up (R132, R133), a bus error (R148). -/
def readNow (k : RefKind) (a : Word) (n : Nat) : M Quad := fun s =>
  let vs := dataViews k.cached s a n
  let v := ofBytes (vs.map fun e => readByte k.cached e.2 e.1)
  let s' : State := { afterViews (readCycle k.cached) s a n with
    refs := s.refs ++ [.mem k.status a n false k.user k.interlocked v]
    freeCount := s.freeCount + 1 }
  if vs.any fun e => readErrorAt k.cached e.2 e.1 then .error .readError s' else .ok v s'

/-- `MemRead(a, n)` (R82): a read reference, after the stores it waits for (R104, R107, R108). -/
def readRef (k : RefKind) (a : Word) (n : Nat) : M Quad := do
  let s ← getS
  settleWrites (waitsFor (ioRead k.cached s a n) a n)
  readNow k a n

/-- `MemWrite(a, n, v)` (R83): a write reference. Its bus cycle may come later (R101): a third store waits until the
oldest of two is written, and a bus error is recognized when its store is due (R288, R625; log 27). -/
def writeRef (k : RefKind) (a : Word) (n : Nat) (v : Quad) : M Unit := fun s =>
  let failed := (views plainCycle s a n).any fun e => (regionOf e.2 e.1).writeError
  let s' := store { afterViews plainCycle s a n with refs := s.refs ++ [.mem k.status a n true k.user k.interlocked v] }
    a (toBytes n v) failed
  if (s'.writeBuffer.drop 2).any (·.failed) then .error .writeError s'
  else .ok () { s' with writeBuffer := s'.writeBuffer.take 2 }

/-- A data read in the current mode (R91). -/
def memRead (a : Word) (n : Nat) : M Quad := fun s => readRef ⟨stData, s.flagU, false, true⟩ a n s
/-- The read half of a read-modify-write operand (R91). -/
def memReadRmw (a : Word) (n : Nat) : M Quad := fun s => readRef ⟨stRmw, s.flagU, false, true⟩ a n s
/-- The read of a pointer for an effective address, through the data cache (R91, R273, R275). -/
def memReadPtr (status : BitVec 5) (a : Word) : M Word := fun s =>
  match readRef ⟨status, s.flagU, false, true⟩ a 4 s with
  | .ok v s' => .ok (v.setWidth 32) s'
  | .error e s' => .error e s'
/-- A data write in the current mode (R91). -/
def memWrite (a : Word) (n : Nat) (v : Quad) : M Unit := fun s => writeRef ⟨stData, s.flagU, false, false⟩ a n v s
/-- A double-word read. -/
def memRead32 (a : Word) : M Word := do return (← memRead a 4).setWidth 32
/-- A word read. -/
def memRead16 (a : Word) : M Half := do return (← memRead a 2).setWidth 16
/-- The interlocked read of SBITIi and CBITIi, past the data cache, after every earlier write (R111, R131, R373); its
status is log 46's. -/
def memReadLocked (a : Word) : M Quad := do
  drain
  let s ← getS
  readRef ⟨stRmw, s.flagU, true, false⟩ a 1
/-- The interlocked write of SBITIi and CBITIi (R111, R135); with it the instruction serializes (R373, R375). -/
def memWriteLocked (a : Word) (v : Quad) : M Unit := do
  let s ← getS
  writeRef ⟨stData, s.flagU, true, false⟩ a 1 v
  serialize

/-- `Push(n, v)` (R26). -/
def push (n : Nat) (v : Quad) : M Unit := do
  upd fun s => s.setSp (s.sp - BitVec.ofNat 32 n)
  let s ← getS
  memWrite s.sp n v

/-- `Pop(n)` (R26). -/
def pop (n : Nat) : M Quad := do
  let s ← getS
  let v ← memRead s.sp n
  upd fun s => s.setSp (s.sp + BitVec.ofNat 32 n)
  return v

/-- The address of the current module's descriptor (R31, R53). -/
def State.modAddr (s : State) : Word := s.mod.setWidth 32

/-- The module `m` entered: MOD and SB loaded (R450). -/
def enterModule (m : Half) : M Unit := do
  upd fun s => { s with mod := m }
  let sb ← memRead32 (m.setWidth 32)
  upd fun s => { s with sb := sb }

/-! ### Debug conditions (R680 to R687) -/

/-- The registers that control them. -/
structure DebugRegs where
  dcr : Word
  car : Word
  bpc : Word
  deriving DecidableEq, Repr

/-- The debug registers of a state. -/
def State.debugRegs (s : State) : DebugRegs := ⟨s.dcr, s.car, s.bpc⟩

/-- `mode_ok` (R681): UD (bit 21) for user mode, SD (bit 22) for supervisor mode. -/
def DebugRegs.modeOk (d : DebugRegs) (user : Bool) : Bool := if user then d.dcr.getLsbD 21 else d.dcr.getLsbD 22
/-- `ac_enabled` (R681): DEN and CAE. -/
def DebugRegs.acEnabled (d : DebugRegs) : Bool := d.dcr.getLsbD 23 && d.dcr.getLsbD 7
/-- `pc_enabled` (R681): DEN and PCE. -/
def DebugRegs.pcEnabled (d : DebugRegs) : Bool := d.dcr.getLsbD 23 && d.dcr.getLsbD 20
/-- DCR.TR (R48). -/
def DebugRegs.trap (d : DebugRegs) : Bool := d.dcr.getLsbD 19

/-- Whether one of the bytes of a reference is compared and matches (R682); the two low bits of CAR are ignored
(U5, log 8). -/
def DebugRegs.byteMatch (d : DebugRegs) (a : Word) : Bool :=
  a.extractLsb' 2 30 == d.car.extractLsb' 2 30 && d.dcr.getLsbD (a.extractLsb' 0 2).toNat

/-- `hit` of R682 for a reference of the given direction. -/
def DebugRegs.hit (d : DebugRegs) (write : Bool) : Ref → Bool
  | .mem _ a n w u _ _ =>
    w == write && d.acEnabled && d.modeOk u && (if w then d.dcr.getLsbD 5 else d.dcr.getLsbD 6)
      && anyFrom d.byteMatch a n
  | .fetch _ _ _ => false
  | .slaveWrite _ _ => false
  | .slaveRead _ _ => false

/-- The PC-match condition (R683). -/
def DebugRegs.pcMatch (d : DebugRegs) (user : Bool) (pc : Word) : Bool :=
  d.pcEnabled && d.modeOk user && pc == d.bpc

/-- A double-word with one bit written. -/
def setBit32 (w : Word) (k : Nat) (b : Bool) : Word := if b then w ||| (1#32 <<< k) else w &&& ~~~(1#32 <<< k)

/-- Detected conditions committed (R49, R682, R683, R686): DSR.BCA with RD, DSR.BPC, and a pending Trap (DBG) if
DCR.TR. RD is 1 for a read only; a read and a write together leave it clear. -/
def commitDebug (d : DebugRegs) (readHit writeHit pcHit : Bool) (s : State) : State :=
  let ac := readHit || writeHit
  let dsr1 := if ac then setBit32 (setBit32 s.dsr 28 true) 31 (readHit && !writeHit) else s.dsr
  { s with
    dsr := if pcHit then setBit32 dsr1 30 true else dsr1
    dbgPending := s.dbgPending || (d.trap && (ac || pcHit)) }

/-- The conditions that references met, committed. -/
def commitRefs (d : DebugRegs) (rs : List Ref) (pcHit : Bool) (s : State) : State :=
  commitDebug d (rs.any (d.hit false)) (rs.any (d.hit true)) pcHit s

/-! ### Interrupt control unit (R145, R631, R634) -/

/-- A byte read from an interrupt control unit, past the data cache. -/
def icuNow (status : BitVec 5) (a : Word) : M Byte := fun s =>
  let b := match s.icuReplies with
    | [] => Config.icuByte s.freeCount a
    | b :: _ => b
  let s' := useReply { s with
    icuReplies := s.icuReplies.tail
    freeCount := s.freeCount + 1
    refs := s.refs ++ [.mem status a 1 false s.flagU false (b.setWidth 64)] }
  if (regionOf s a).readError then .error .readError s' else .ok b s'

/-- Whether a status code is that of an Interrupt-Acknowledge cycle (R140). -/
def isAcknowledge (status : BitVec 5) : Bool := status == 0b00100#5 || status == 0b00101#5

/-- An Interrupt-Acknowledge or End-of-Interrupt cycle, after the stores it waits for (R108, C7). IODEC makes an
End-of-Interrupt cycle wait (R107), unless the cycle ends in a bus error (R154); an acknowledge is not affected by it
(R633). -/
def icuRead (status : BitVec 5) (a : Word) : M Byte := do
  let s ← getS
  let r := regionOf s a
  settleWrites (waitsFor (r.iodec && !r.readError && !isAcknowledge status) a 1)
  icuNow status a

/-- Reads whose bus error is fatal (R626). -/
def fatally {α : Type} (m : M α) : M α := fun s =>
  match m s with
  | .ok a s' => .ok a s'
  | .error .readError s' => .error .fatal s'
  | .error e s' => .error e s'

/-! ### Taking an exception (R620 to R645) -/

/-- PSR after an entry (R644): T, V, U, S and P cleared, and I where the row lists it. -/
def entryPsr (clearI : Bool) (p : Half) : Half :=
  if clearI then p &&& ~~~0x0F12#16 else p &&& ~~~0x0712#16

/-- `Service(vector, ret)` (R641), with the 8-byte frame of R642: the word between PSR and PC is not written in
Direct-Exception mode (U30, log 28). -/
def service (vector : Byte) (copy : Half) (ret : Word) : M Unit := do
  let s0 ← getS
  let direct := s0.cfgDE
  push 2 (copy.setWidth 64)
  let s ← getS
  if direct then upd fun s => s.setSp (s.sp - 2#32) else push 2 (s.mod.setWidth 64)
  let entry ← memRead32 (s0.intbase + 4#32 * vector.setWidth 32)
  if direct then upd fun s => { s with pc := entry }
  else
    upd fun s => { s with mod := entry.setWidth 16 }
    let base ← memRead32 ((entry &&& 0xFFFF#32) + 8#32)
    upd fun s => { s with pc := base + (entry >>> 16) }
    let sb ← memRead32 (entry &&& 0xFFFF#32)
    upd fun s => { s with sb := sb }
  push 4 (ret.setWidth 64)
  serialize

/-- The state after an entry: executing, nothing half done; the debug conditions its references met are held pending
(R686 Note 2). `n` references had been made before it. That a read hit and a write hit of one entry leave DSR.RD clear,
as R682 says of one instruction, is the model's choice (log 49). -/
def entered (n : Nat) (s : State) : State :=
  commitRefs s.debugRegs (s.refs.drop n) false
    { s with op := .executing, midString := false, elementRefs := [], afterException := true }

/-- Taking an exception: P cleared first where the row says so, the PSR copy made, PSR changed, the vector found, the
service sequence (R620, R624, R633, R644, R660, R685). A bus error on the way halts the CPU (R626), with PC, PSR, SP0,
MOD and SB as the sequence had made them when the error was noticed: DESIGN CHOICE (log 54). -/
def takeException (clearP clearI : Bool) (vector : M Byte) (ret : Word) (s : State) : Out :=
  let copy := if clearP then setP false s.psr else s.psr
  let enter : M Unit := do
    let v ← vector
    service v copy ret
  match enter { s with psr := entryPsr clearI copy } with
  | .ok _ s' => .next (entered s.refs.length s')
  | .error (.refuse r) _ => .refused r
  | .error (.fault f) _ => .fault f
  | .error _ s' => .next { s' with op := .halted, writeBuffer := s'.writeBuffer.take 2 }

/-- The vectors of the seven traps (R611, R620). -/
def TrapKind.vector : TrapKind → Byte
  | .slave => 3#8 | .ill => 4#8 | .svc => 5#8 | .dvz => 6#8 | .flg => 7#8 | .bpt => 8#8 | .und => 10#8

/-- Whether a trap clears P before the copy (R620 step 3). -/
def TrapKind.clearsP : TrapKind → Bool
  | .ill => true | .und => true | .slave => false | .svc => false | .dvz => false | .flg => false | .bpt => false

/-- A suspended instruction (R602): registers and flags as at its start; memory writes already made, caches and what
the outside world has answered stay. -/
def suspend (s0 s' : State) : State :=
  { s0 with
    mem := s'.mem
    icache := s'.icache
    dcache := s'.dcache
    writeBuffer := s'.writeBuffer
    fetchUnit := s'.fetchUnit
    freeCount := s'.freeCount
    refs := s'.refs
    icuReplies := s'.icuReplies
    slaveReplies := s'.slaveReplies
    busReplies := s'.busReplies }

/-! ### The non-restartable bus error (R603, R625; log 27) -/

/-- `n` free bytes. -/
def freeBytes (k : Nat) : Nat → List Byte
  | 0 => []
  | n + 1 => (Config.freeWord k).setWidth 8 :: freeBytes (k + 1) n

/-- The data cache's copies of bytes made free, where it holds them. -/
def freeCopies (s : State) (span : Word × Nat) : State :=
  { s with
    dcache := if s.cfgDC then dcWrite s.dcache span.1 (freeBytes s.freeCount span.2) else s.dcache
    freeCount := s.freeCount + span.2 }

/-- Bytes of memory, and where the data cache holds them its copies, made free. -/
def freeSpan (s : State) (span : Word × Nat) : State :=
  freeCopies { s with
    mem := storeBytes s.platform s.mem span.1 (freeBytes s.freeCount span.2)
    freeCount := s.freeCount + span.2 } span

/-- The bytes a reference writes. -/
def Ref.written : Ref → Option (Word × Nat)
  | .mem _ a n w _ _ _ => if w then some (a, n) else none
  | .fetch _ _ _ => none
  | .slaveWrite _ _ => none
  | .slaveRead _ _ => none

/-- The references of the instruction that began at `s0` and has come to `s`: for a string instruction those of the
earlier elements too. -/
def ownRefs (s0 s : State) : List Ref :=
  (if s0.midString then s0.elementRefs else []) ++ s.refs.drop s0.refs.length

/-- The bytes a waiting store writes. -/
def PendingStore.span (w : PendingStore) : Word × Nat := (w.addr, w.old.length)

/-- The bytes whose contents a non-restartable bus error leaves undefined (R603, U29): those of the writes that failed
and all that the terminated instruction wrote. -/
def lostSpans (s0 s : State) : List (Word × Nat) :=
  (s.writeBuffer.filter (·.failed)).map PendingStore.span ++ (ownRefs s0 s).filterMap Ref.written

/-- A register as it was, or free if the terminated instruction changed it. -/
def unlessChanged (old new free : Word) : Word := if old = new then new else free

/-- What a non-restartable bus error leaves of the terminated instruction (R603, R625, U29): general registers, FP,
SP1, flags, a debug register it loaded and its bytes in memory are free, stores that wait may be lost, a pending Trap
(DBG) that is not external is gone; `s0` is the state at the instruction's start, `s` the state at the error. The bytes
of a lost store are in memory as before it; what a cache line that holds them keeps the spec does not say (R101, R135),
and it is free: DESIGN CHOICE (log 32). -/
def terminate (s0 s : State) : State :=
  let c := s.freeCount
  let lost := Config.freeNat c % 3
  let w (k : Nat) : Word := Config.freeWord (c + k)
  let s1 : State := { s with
    regs := #v[w 0, w 1, w 2, w 3, w 4, w 5, w 6, w 7]
    fp := w 8
    sp1 := w 9
    sp0 := s0.sp0
    sb := s0.sb
    mod := s0.mod
    intbase := s0.intbase
    cfg := s0.cfg
    psr := (w 10).setWidth 16 &&& psrMask
    dcr := unlessChanged s0.dcr s.dcr (w 11 &&& dcrMask)
    dsr := unlessChanged s0.dsr s.dsr (w 12 &&& dsrMask)
    car := unlessChanged s0.car s.car (w 13)
    bpc := unlessChanged s0.bpc s.bpc (w 14)
    mem := undoStores s.platform s.mem lost s.writeBuffer
    writeBuffer := []
    dbgPending := false
    midString := false
    elementRefs := []
    freeCount := c + 32 }
  (lostSpans s0 s).foldl freeSpan (((s.writeBuffer.take lost).map PendingStore.span).foldl freeCopies s1)

/-- The slave status word read and discarded (R625 step 4). -/
def dummyStatusRead : M Unit := fun s =>
  .ok () { s with
    refs := s.refs ++ [.slaveRead 0b11110#5 (Config.freeWord s.freeCount)]
    freeCount := s.freeCount + 1 }

/-- Non-restartable bus error (R625): vector 12, a free return address. -/
def takeWriteError (s0 s : State) : Out :=
  let t := terminate s0 s
  takeException false true (do dummyStatusRead; return 12#8) (Config.freeWord t.freeCount)
    { t with freeCount := t.freeCount + 32 }

/-- A point at which a write that ended in a bus error may be recognized (R690 "at any point"): whether it is, is free;
`s0` is the state at the start of the instruction being executed. -/
def reporting (s0 : State) (go : State → Out) (s : State) : Out :=
  if s.pendingError then
    let s' : State := { s with freeCount := s.freeCount + 1 }
    if Config.freeBool s.freeCount then takeWriteError s0 s' else go s'
  else go s

/-! ### The exceptions -/

/-- An exception entered: no earlier write may still end in an unrecognized bus error, for the entry waits for the
write buffer (R110, R625). What the entry does away with (a latch, a pending trap) stays where it is not entered
(R632, R645, R684): `onEntry` makes that change. -/
def enterException (s0 : State) (clearP clearI : Bool) (vector : M Byte) (ret : Word) (s : State)
    (onEntry : State → State := id) : Out :=
  if s.pendingError then takeWriteError s0 s else takeException clearP clearI vector ret (onEntry s)

/-- Trap sequence of R620, from the suspended state `s`. -/
def takeTrap (s0 : State) (k : TrapKind) (s : State) : Out := enterException s0 k.clearsP false (pure k.vector) s.pc s

/-- Restartable bus error (R624), from the suspended state `s`. -/
def takeReadError (s0 s : State) : Out := enterException s0 true true (pure 11#8) s.pc s

/-- Trap (OVF) (R622): `s` is the state after the completed instruction. -/
def takeOverflow (s0 s : State) : Out := enterException s0 false false (pure 13#8) s.pc s

/-- Trap (TRC) (R660). -/
def takeTrace (s : State) : Out := enterException s true false (pure 9#8) s.pc s

/-- What Trap (DBG) records and does away with (R684, R685). -/
def debugTaken (s : State) : State :=
  { s with
    dsr := if s.dbgLatch then setBit32 s.dsr 29 true else s.dsr
    dbgLatch := false
    dbgPending := false }

/-- Trap (DBG) (R684, R685): BEX records an external condition; `s0` is `s` before its debug conditions were
committed, and `mark` records one that is met by taking the trap. -/
def takeDebug (s0 s : State) (mark : State → State := id) : Out :=
  enterException s0 s.midString true (pure 14#8) s.pc s fun u => debugTaken (mark u)

/-- Steps 3 to 7 of the interrupt sequence (R633): the acknowledge cycles and the vector. -/
def interruptVector (nmi : Bool) : M Byte := do
  let s ← getS
  if nmi then
    let _ ← icuRead 0b00100#5 0xFFFFFF00#32
    return 1#8
  else
    let b ← icuRead 0b00100#5 0xFFFFFE00#32
    if !s.cfgI then return 0#8
    else if !b.getLsbD 7 then return b
    else if b.extractLsb' 4 4 == 0xF#4 then
      let ca ← memRead32 (s.intbase + 4#32 * b.signExtend 32)
      icuRead 0b00101#5 ca
    else stop (.refuse .vectorByte)

/-- The interrupt sequence (R632, R633). -/
def takeInterrupt (s0 : State) (nmi : Bool) (s : State) : Out :=
  enterException s0 s.midString true (interruptVector nmi) s.pc s
    fun u => { u with nmiLatch := if nmi then false else u.nmiLatch }

/-! ### Completing an instruction -/

/-- How an instruction's actions end when they complete: the transfer of control, if any; whether an integer overflow
was detected (R340); whether it was an element of a string instruction, and elements are left (R421); whether a debug
register was loaded (U25). -/
structure Done where
  target : Option Word := none
  overflow : Bool := false
  element : Bool := false
  unfinished : Bool := false
  debugLoaded : Bool := false
  deriving DecidableEq, Repr

/-- The registers that control the debug conditions of an instruction: those at its start; for one that loads BPC, CAR
or DCR a free choice of the old or the new contents (R682 Note 3, U25, log 21). -/
def controls (d : Done) (s0 s' : State) : DebugRegs :=
  if d.debugLoaded then (if Config.freeBool s'.freeCount then s'.debugRegs else s0.debugRegs) else s0.debugRegs

/-- Completion (R23, R601, R622, R686): the PC advances, a transfer of control starts a new fetch sequence (R140), debug conditions are committed, an overflow traps if V was
set when the instruction began. A string instruction with elements left keeps its conditions noted (R690). -/
def complete (len : Nat) (s0 : State) (d : Done) (s' : State) : Out :=
  let dbg := controls d s0 s'
  let rs := if d.element then ownRefs s0 s' else s'.refs.drop s0.refs.length
  let s1 : State := { s' with
    pc := if d.unfinished then s0.pc else d.target.getD (s0.pc + BitVec.ofNat 32 len)
    midString := d.unfinished
    elementRefs := if d.unfinished then rs else []
    afterException := d.unfinished && s0.afterException
    fetchUnit := if d.target.isSome then s'.fetchUnit.restart else s'.fetchUnit
    freeCount := if d.debugLoaded then s'.freeCount + 1 else s'.freeCount }
  let s2 := if d.unfinished then s1 else commitRefs dbg rs (dbg.pcMatch s0.flagU s0.pc) s1
  if d.overflow && s0.flagV then takeOverflow s0 s2 else .next s2

/-- An instruction of `len` bytes run from `s0`: completed, suspended by a trap or a read error, terminated by a write
error, halted by a fatal one (R626; what the registers then hold: log 54), or stopped. -/
def finish (len : Nat) (body : M Done) (s0 : State) : Out :=
  match body s0 with
  | .ok d s' => reporting s0 (complete len s0 d) s'
  | .error (.trap k) s' => takeTrap s0 k (suspend s0 s')
  | .error .readError s' => takeReadError s0 (suspend s0 s')
  | .error .writeError s' => takeWriteError s0 s'
  | .error .fatal s' => .next { s' with op := .halted }
  | .error (.refuse r) _ => .refused r
  | .error (.fault f) _ => .fault f

/-! ### Returning from an exception (R457, R458, R650) -/

/-- The common part of RETT and RETI: PC, PSR and, unless Direct-Exception mode is on, MOD and SB from the selected
stack; the word between PC and PSR is not read in Direct-Exception mode (C10). -/
def returnFrom (discard : Word) : M Done := do
  let s ← getS
  let pc ← memRead32 s.sp
  let modw ← if s.cfgDE then pure s.mod else memRead16 (s.sp + 4#32)
  let psr ← memRead16 (s.sp + 6#32)
  upd fun s => s.setSp (s.sp + 8#32)
  updPsr fun _ => psr &&& psrMask
  if s.cfgDE then pure () else enterModule modw
  upd fun s => s.setSp (s.sp + discard)
  serialize
  return { target := some pc }

/-- The End of Interrupt cycles of RETI (R457, R634). An index byte 80 to EF is read as the pseudocode of R457 says
(DESIGN CHOICE, log 36). -/
def endOfInterrupt : M Unit := do
  let s ← getS
  let b ← fatally (icuRead 0b00110#5 0xFFFFFE00#32)
  if s.cfgI && b.getLsbD 7 then
    let ca ← fatally (memRead32 (s.intbase + 4#32 * b.signExtend 32))
    let _ ← fatally (icuRead 0b00111#5 ca)
    pure ()
  else pure ()

end Sys2Proof.Machine
end

