-- ==== Sys2Proof/Machine/Operands.lean ====
section
/-! DEFINITION. Operand access through the general addressing modes (40_operands), the checks made before an
instruction's actions (R241, R242), and the running of an instruction. -/

namespace Sys2Proof

/-- The value of a displacement, sign-extended to 32 bits (R200). -/
def Disp.value : Disp → Word
  | .d7 v => v.signExtend 32
  | .d14 v => v.signExtend 32
  | .d30 v => v.signExtend 32

/-- The factor of a scale (R279). -/
def Scale.factor : Scale → Word
  | .b => 1#32 | .w => 2#32 | .d => 4#32 | .q => 8#32

namespace Machine

/-- Where an operand is (R261). -/
inductive Loc where
  | reg (n : RegNum)
  | imm (v : Quad)
  | mem (a : Word)
  | tos
  deriving DecidableEq, Repr

/-- The base of a bit or bit field (R268). -/
inductive Base where
  | reg (n : RegNum)
  | mem (a : Word)
  deriving DecidableEq, Repr

/-- The register of Memory Relative mode (R273). -/
def State.ptrReg (s : State) : PtrReg → Word
  | .fp => s.fp | .sp => s.sp | .sb => s.sb

/-- The register of Memory Space mode (R272); PC is the address of the current instruction (R22). -/
def State.spaceReg (s : State) : SpaceReg → Word
  | .fp => s.fp | .sp => s.sp | .sb => s.sb | .pc => s.pc

/-- `LocOp` of the modes without an index (R270 to R278). -/
def locMode : Mode → M Loc
  | .reg n => pure (.reg n)
  | .regRel n d => do return .mem ((← getS).reg n + d.value)
  | .memRel r d1 d2 => do
    let s ← getS
    let p ← memReadPtr stPointer (s.ptrReg r + d1.value)
    return .mem (p + d2.value)
  | .imm v => pure (.imm v)
  | .abs d => pure (.mem d.value)
  | .ext d1 d2 => do
    let s ← getS
    let lb ← memReadPtr stAddress (s.modAddr + 4#32)
    let p ← memReadPtr stAddress (lb + 4#32 * d1.value)
    return .mem (p + d2.value)
  | .tos => pure .tos
  | .space r d => do return .mem ((← getS).spaceReg r + d.value)

/-- The base address of Scaled Index (R279): over a register its value, over TOS the stack pointer. -/
def indexBase (s : State) : Loc → Word
  | .reg n => s.reg n
  | .mem a => a
  | .tos => s.sp
  | .imm v => v.setWidth 32

/-- `LocOp` (R261). The illegal forms trap before they get here (R241). -/
def locGen : Gen → M Loc
  | .mode m => locMode m
  | .idx sc n m => do
    let l ← locMode m
    let s ← getS
    return .mem (indexBase s l + sc.factor * s.reg n)
  | .reserved => stop (.trap .und)
  | .idxBad _ _ _ => stop (.trap .und)

/-- The low `n` bytes of a value. -/
def lowBytes (n : Nat) (v : Quad) : Quad :=
  match n with
  | 1 => v &&& 0xFF#64
  | 2 => v &&& 0xFFFF#64
  | 4 => v &&& 0xFFFFFFFF#64
  | _ => v

/-- The data read of class read (R262): TOS pops. -/
def readLoc (n : Nat) : Loc → M Quad
  | .reg k => do return lowBytes n (((← getS).reg k).setWidth 64)
  | .imm v => pure (lowBytes n v)
  | .mem a => memRead a n
  | .tos => pop n

/-- The read half of class rmw (R260, R277): TOS is read in place. -/
def readRmw (n : Nat) : Loc → M Quad
  | .reg k => do return lowBytes n (((← getS).reg k).setWidth 64)
  | .imm v => pure (lowBytes n v)
  | .mem a => memReadRmw a n
  | .tos => do memReadRmw (← getS).sp n

/-- The low bytes of a register written (R21, R263). -/
def writeReg (n : Nat) (k : RegNum) (v : Quad) : M Unit := upd fun s => s.setReg k (mergeLow n (s.reg k) v)

/-- The data write of class write (R263): TOS pushes. -/
def writeLoc (n : Nat) (v : Quad) : Loc → M Unit
  | .reg k => writeReg n k v
  | .imm _ => stop (.trap .und)
  | .mem a => memWrite a n v
  | .tos => push n v

/-- The write half of class rmw (R260, R277): TOS is written in place. -/
def writeRmw (n : Nat) (v : Quad) : Loc → M Unit
  | .reg k => writeReg n k v
  | .imm _ => stop (.trap .und)
  | .mem a => memWrite a n v
  | .tos => do memWrite (← getS).sp n v

/-- `ReadOp(gen, n)` (R262). -/
def readOp (g : Gen) (n : Nat) : M Quad := do readLoc n (← locGen g)

/-- `ReadOp(gen, i)` for an integer operand. -/
def readInt (i : Size) (g : Gen) : M (BitVec i.bits) := do return (← readOp g i.bytes).setWidth i.bits

/-- `AddrOp(gen)` (R265); a register has no address (U14, log 14). -/
def addrOp (g : Gen) : M Word := do
  match ← locGen g with
  | .mem a => pure a
  | .tos => return (← getS).sp
  | .reg _ => stop (.refuse .registerAddress)
  | .imm _ => stop (.trap .und)

/-- `BaseOp(gen)` (R268). -/
def baseOp (g : Gen) : M Base := do
  match ← locGen g with
  | .mem a => pure (.mem a)
  | .tos => return .mem (← getS).sp
  | .reg n => pure (.reg n)
  | .imm _ => stop (.trap .und)

/-! ### The checks before an instruction acts (R241, R242) -/

/-- The access classes (R260). -/
inductive Access where
  | read | write | rmw | addr | regaddr
  deriving DecidableEq, Repr

/-- A general operand of an instruction: its mode, class and size in bytes. -/
structure Operand where
  gen : Gen
  access : Access
  bytes : Nat
  deriving DecidableEq, Repr

/-- The slave instruction sets (R520). -/
inductive SlaveSet where
  | float | custom
  deriving DecidableEq, Repr

/-- What is fixed about an instruction before it acts. -/
structure Shape where
  basic : Nat
  size : Size := .d
  ops : List Operand := []
  disp : Option Disp := none
  implied : Nat := 0
  slave : Option SlaveSet := none
  privileged : Bool := false
  reserved : Option Refusal := none
  deriving DecidableEq, Repr

/-- The instruction's length (R186). -/
def Shape.length (sh : Shape) : Nat :=
  sh.basic + (sh.ops.map fun o => o.gen.length o.bytes).sum + sh.implied
    + (match sh.disp with | some d => d.length | none => 0)

/-- Conditions 4, 5 and 6 of Trap (UND) (R241): the reserved mode, Immediate with a class other than read, Scaled Index
over a base it may not have. -/
def Operand.illegal (o : Operand) : Bool :=
  match o.gen with
  | .reserved => true
  | .idxBad _ _ _ => true
  | .mode (.imm _) => decide (o.access ≠ .read)
  | .mode _ => false
  | .idx _ _ m => m.isImm

/-- Whether a slave set is disabled (R521). -/
def State.slaveDisabled (s : State) : Option SlaveSet → Bool
  | none => false
  | some .float => !s.cfgF
  | some .custom => !s.cfgC

/-- Whether a mode has a displacement with the reserved first byte (R201). -/
def modeReservedDisp : Mode → Bool
  | .reg _ => false
  | .regRel _ d => !d.wf
  | .memRel _ d1 d2 => !d1.wf || !d2.wf
  | .imm _ => false
  | .abs d => !d.wf
  | .ext d1 d2 => !d1.wf || !d2.wf
  | .tos => false
  | .space _ d => !d.wf

/-- Whether a general operand has one (R201). -/
def genReservedDisp : Gen → Bool
  | .mode m => modeReservedDisp m
  | .idx _ _ m => modeReservedDisp m
  | .reserved => false
  | .idxBad _ _ _ => false

/-- Whether an instruction has one (R201, D9). -/
def Shape.reservedDisp (sh : Shape) : Bool :=
  (sh.ops.any fun o => genReservedDisp o.gen) || (match sh.disp with | some d => !d.wf | none => false)

/-- The first check that fails, in the order of R242: Trap (UND) for a disabled slave set, for i = 10 (D10, log 9) and
for a bad addressing mode; Trap (ILL); then what the spec gives no effect. -/
def Shape.check (sh : Shape) (s : State) : Option Stop :=
  if s.slaveDisabled sh.slave then some (.trap .und)
  else if sh.size = .u then some (.trap .und)
  else if sh.ops.any Operand.illegal then some (.trap .und)
  else if sh.privileged && s.flagU then some (.trap .ill)
  else if sh.reservedDisp then some (.refuse .reservedDisplacement)
  else sh.reserved.map .refuse

/-- The actions of an instruction after its checks. -/
def checked (sh : Shape) (body : M Done) : M Done := fun s =>
  match sh.check s with
  | some e => .error e s
  | none => body s

/-- An instruction run: its checks, then its actions. -/
def run (sh : Shape) (body : M Done) (s : State) : Out := finish sh.length (checked sh body) s

/-- The refusal of an instruction when `b` holds. -/
def refuseIf (b : Bool) (r : Refusal) : Option Refusal := if b then some r else none

/-- An operand read. -/
def rd (g : Gen) (n : Nat) : Operand := ⟨g, .read, n⟩
/-- An operand written. -/
def wr (g : Gen) (n : Nat) : Operand := ⟨g, .write, n⟩
/-- An operand read and written. -/
def rw (g : Gen) (n : Nat) : Operand := ⟨g, .rmw, n⟩
/-- An operand of which the address is used. It has no size of its own: that an Immediate here, which traps, has 4 bytes
is the model's choice (log 50). -/
def ad (g : Gen) : Operand := ⟨g, .addr, 4⟩
/-- A bit or bit-field base; an Immediate has 4 bytes here too (log 50). -/
def ra (g : Gen) : Operand := ⟨g, .regaddr, 4⟩

/-- What a two-operand instruction computes: the value written, the flags, and whether an integer overflow was
detected (R340). -/
structure Result (w : Nat) where
  value : BitVec w
  psr : Half → Half := id
  overflow : Bool := false

/-- `dest <- f dest src` (R264): gen1 read, gen2 read and written at one location. -/
def readModify (n1 n2 w1 w2 : Nat) (g1 g2 : Gen) (f : State → BitVec w2 → BitVec w1 → M (Result w2)) : M Done := do
  let a ← readOp g1 n1
  let l ← locGen g2
  let b ← readRmw n2 l
  let s ← getS
  let r ← f s (b.setWidth w2) (a.setWidth w1)
  writeRmw n2 (r.value.setWidth 64) l
  updPsr r.psr
  return { overflow := r.overflow }

/-- `dest <- f src` (R264): gen1 read, gen2 written. -/
def readWrite (n1 n2 w1 w2 : Nat) (g1 g2 : Gen) (f : BitVec w1 → M (Result w2)) : M Done := do
  let a ← readOp g1 n1
  let l ← locGen g2
  let r ← f (a.setWidth w1)
  writeLoc n2 (r.value.setWidth 64) l
  updPsr r.psr
  return { overflow := r.overflow }

/-- `dest <- dest op src` on operands of size `i`. -/
def binary (basic : Nat) (i : Size) (g1 g2 : Gen) (f : State → BitVec i.bits → BitVec i.bits → M (Result i.bits)) :
    State → Out :=
  run { basic := basic, size := i, ops := [rd g1 i.bytes, rw g2 i.bytes] }
    (readModify i.bytes i.bytes i.bits i.bits g1 g2 f)

/-- `dest <- op src` on operands of size `i` (Format 6). -/
def unary (i : Size) (g1 g2 : Gen) (f : BitVec i.bits → M (Result i.bits)) : State → Out :=
  run { basic := 3, size := i, ops := [rd g1 i.bytes, wr g2 i.bytes] }
    (readWrite i.bytes i.bytes i.bits i.bits g1 g2 f)

end Machine

end Sys2Proof
end

