-- ==== Sys2Proof/Machine/Flags.lean ====
section
/-! DEFINITION. Every flag computation and the arithmetic it belongs to: carry, borrow, overflow (R320), comparison
(R337), packed decimal (R335), conditions (R211), shifts (R367 to R369), division (R329 to R334). -/

namespace Sys2Proof.Machine

/-- Whether an integer is outside the signed `n`-bit range (R320). -/
def outside (n : Nat) (x : Int) : Bool := decide (x < -(2 : Int) ^ (n - 1)) || decide ((2 : Int) ^ (n - 1) ≤ x)

/-- `carry_n(b, a, cin)` (R320). -/
def carry {n : Nat} (b a : BitVec n) (cin : Bool) : Bool := decide (2 ^ n ≤ a.toNat + b.toNat + cin.toNat)

/-- `ovf_n(b, a, cin)` (R320). -/
def addOvf {n : Nat} (b a : BitVec n) (cin : Bool) : Bool := outside n (b.toInt + a.toInt + cin.toNat)

/-- `borrow_n(b, a, bin)` (R320). -/
def borrow {n : Nat} (b a : BitVec n) (bin : Bool) : Bool := decide (b.toNat < a.toNat + bin.toNat)

/-- `ovf_n` of `b - a - bin` (R320). -/
def subOvf {n : Nat} (b a : BitVec n) (bin : Bool) : Bool := outside n (b.toInt - a.toInt - bin.toNat)

/-- A carry as a number. -/
def bitOf {n : Nat} (c : Bool) : BitVec n := if c then 1#n else 0#n

/-- `b + a + cin` with C and F (R321 to R323). -/
def addResult {n : Nat} (b a : BitVec n) (cin : Bool) : Result n :=
  { value := b + a + bitOf cin, psr := setCF (carry b a cin) (addOvf b a cin), overflow := addOvf b a cin }

/-- `b - a - bin` with C and F (R324, R325). -/
def subResult {n : Nat} (b a : BitVec n) (bin : Bool) : Result n :=
  { value := b - a - bitOf bin, psr := setCF (borrow b a bin) (subOvf b a bin), overflow := subOvf b a bin }

/-- The most negative value, the one that has no negative (R326, R327). -/
def isMin {n : Nat} (a : BitVec n) : Bool := a == BitVec.intMin n

/-- The flags of a comparison of `a` with the second operand `b` (R337). -/
def compareFlags {n : Nat} (a b : BitVec n) : Half → Half :=
  setZNL (a == b) (decide (b.toInt < a.toInt)) (decide (b.toNat < a.toNat))

/-- The truth of a condition (R211). -/
def condHolds (s : State) : Cond → Bool
  | .eq => s.flagZ
  | .ne => !s.flagZ
  | .cs => s.flagC
  | .cc => !s.flagC
  | .hi => s.flagL
  | .ls => !s.flagL
  | .gt => s.flagN
  | .le => !s.flagN
  | .fs => s.flagF
  | .fc => !s.flagF
  | .lo => !s.flagL && !s.flagZ
  | .hs => s.flagL || s.flagZ
  | .lt => !s.flagN && !s.flagZ
  | .ge => s.flagN || s.flagZ
  | .always => true
  | .never => false

/-! ### Multiplication and division -/

/-- `QUO` (R329): toward zero; `a` is not 0. -/
def quoResult {n : Nat} (b a : BitVec n) : Result n :=
  { value := BitVec.ofInt n (b.toInt.tdiv a.toInt), overflow := outside n (b.toInt.tdiv a.toInt) }
/-- `REM` (R330). -/
def remResult {n : Nat} (b a : BitVec n) : Result n := { value := BitVec.ofInt n (b.toInt.tmod a.toInt) }
/-- `DIV` (R331): downward. -/
def divResult {n : Nat} (b a : BitVec n) : Result n :=
  { value := BitVec.ofInt n (b.toInt.fdiv a.toInt), overflow := outside n (b.toInt.fdiv a.toInt) }
/-- `MOD` (R332). -/
def modResult {n : Nat} (b a : BitVec n) : Result n := { value := BitVec.ofInt n (b.toInt.fmod a.toInt) }
/-- `MUL` (R328): overflow is judged on the signed product. -/
def mulResult {n : Nat} (b a : BitVec n) : Result n := { value := b * a, overflow := outside n (b.toInt * a.toInt) }

/-- A division: Trap (DVZ) if the divisor is 0 (R341). -/
def dividing {n : Nat} (f : BitVec n → BitVec n → Result n) (b a : BitVec n) : M (Result n) :=
  if a = 0#n then stop (.trap .dvz) else pure (f b a)

/-! ### Packed decimal (R335, R336) -/

/-- Whether the `k` low digits are decimal. -/
def bcdValid : Nat → Nat → Bool
  | 0, _ => true
  | k + 1, v => decide (v % 16 ≤ 9) && bcdValid k (v / 16)

/-- The decimal value of `k` packed digits. -/
def bcdValue : Nat → Nat → Nat
  | 0, _ => 0
  | k + 1, v => v % 16 + 10 * bcdValue k (v / 16)

/-- `k` packed digits of a number. -/
def bcdEncode : Nat → Nat → Nat
  | 0, _ => 0
  | k + 1, v => v % 10 + 16 * bcdEncode k (v / 10)

/-- `ADDP` on `2i` digits (R335): C is the decimal carry, F is cleared; with an invalid digit the result, C and F are
free (U18, log 17). -/
def addPacked {n : Nat} (b a : BitVec n) (c : Bool) : M (Result n) :=
  let k := n / 4
  let t := bcdValue k b.toNat + bcdValue k a.toNat + c.toNat
  if bcdValid k b.toNat && bcdValid k a.toNat then
    pure { value := BitVec.ofNat n (bcdEncode k (t % 10 ^ k)), psr := setCF (decide (10 ^ k ≤ t)) false }
  else do
    let v ← drawWord
    let x ← drawBool
    let y ← drawBool
    pure { value := v.setWidth n, psr := setCF x y }

/-- `SUBP` on `2i` digits (R336): C is the decimal borrow, F is cleared; invalid digits as in `addPacked`. -/
def subPacked {n : Nat} (b a : BitVec n) (c : Bool) : M (Result n) :=
  let k := n / 4
  let x := bcdValue k b.toNat
  let y := bcdValue k a.toNat + c.toNat
  if bcdValid k b.toNat && bcdValid k a.toNat then
    pure { value := BitVec.ofNat n (bcdEncode k ((x + 10 ^ k - y) % 10 ^ k)), psr := setCF (decide (x < y)) false }
  else do
    let v ← drawWord
    let p ← drawBool
    let q ← drawBool
    pure { value := v.setWidth n, psr := setCF p q }

/-! ### Shifts (R367 to R369) -/

/-- `LSH` by a signed count (R367): defined for -n to n; outside a free value (U19, log 18). -/
def logicalShift {n : Nat} (b : BitVec n) (count : Byte) : M (Result n) :=
  let c := count.toInt
  if decide (-(n : Int) ≤ c) && decide (c ≤ n) then
    pure { value := if 0 ≤ c then b <<< c.toNat else b >>> (-c).toNat }
  else do
    let v ← drawWord
    pure { value := v.setWidth n }

/-- `ASH` by a signed count (R368): a left shift overflows when the exact product does not fit; outside -n to n the
value and the overflow are free (U19, log 18). -/
def arithmeticShift {n : Nat} (b : BitVec n) (count : Byte) : M (Result n) :=
  let c := count.toInt
  if decide (-(n : Int) ≤ c) && decide (c ≤ n) then
    pure { value := if 0 ≤ c then b <<< c.toNat else b.sshiftRight (-c).toNat
           overflow := decide (0 ≤ c) && outside n (b.toInt * 2 ^ c.toNat) }
  else do
    let v ← drawWord
    let o ← drawBool
    pure { value := v.setWidth n, overflow := o }

/-- `ROT` by a signed count (R369): defined for -(n-1) to n-1; outside a free value (U19, log 18). -/
def rotate {n : Nat} (b : BitVec n) (count : Byte) : M (Result n) :=
  let c := count.toInt
  if decide (-(n : Int) < c) && decide (c < n) then
    let k := (c.emod n).toNat
    pure { value := (b <<< k) ||| (b >>> (n - k)) }
  else do
    let v ← drawWord
    pure { value := v.setWidth n }

/-- The first set bit at or after `k` among `m` more (R377). -/
def findSet {n : Nat} (b : BitVec n) (k : Nat) : Nat → Option Nat
  | 0 => none
  | m + 1 => if b.getLsbD k then some k else findSet b (k + 1) m

end Sys2Proof.Machine
end

