-- ==== Sys2Proof/Machine/Moves.lean ====
section
/-! DEFINITION. Move instructions (41_moves R300 to R307). None changes a flag. -/

namespace Sys2Proof.Machine

/-- MOVi (R300). -/
def execMov (i : Size) (g1 g2 : Gen) : State → Out :=
  run { basic := 2, size := i, ops := [rd g1 i.bytes, wr g2 i.bytes] }
    (readWrite i.bytes i.bytes i.bits i.bits g1 g2 fun a => pure { value := a })

/-- The value of a `quick` field at size `i` (R285). -/
def quick (i : Size) (q : BitVec 4) : BitVec i.bits := q.signExtend i.bits

/-- MOVQi (R301). -/
def execMovq (i : Size) (q : BitVec 4) (g : Gen) : State → Out :=
  run { basic := 2, size := i, ops := [wr g i.bytes] } do
    let l ← locGen g
    writeLoc i.bytes ((quick i q).setWidth 64) l
    return {}

/-- Whether the displacement of MOVMi or CMPMi is that of 1 to 16 bytes of whole elements (R302, U16). -/
def blockOk (i : Size) (d : Disp) : Bool :=
  !d.value.msb && decide (d.value.toNat % i.bytes = 0) && decide (d.value.toNat + i.bytes ≤ 16)

/-- The number of elements of MOVMi and CMPMi (R302). -/
def blockCount (i : Size) (d : Disp) : Nat := d.value.toNat / i.bytes + 1

/-- `k` elements of `n` bytes moved, at ascending addresses (R302). -/
def moveElements (n : Nat) (a1 a2 : Word) : Nat → M Unit
  | 0 => pure ()
  | k + 1 => do
    let v ← memRead a1 n
    memWrite a2 n v
    moveElements n (a1 + BitVec.ofNat 32 n) (a2 + BitVec.ofNat 32 n) k

/-- MOVMi (R302). -/
def execMovm (i : Size) (g1 g2 : Gen) (d : Disp) : State → Out :=
  run { basic := 3, size := i, ops := [ad g1, ad g2], disp := some d, reserved := refuseIf (!blockOk i d) .blockLength } do
    let a1 ← addrOp g1
    let a2 ← addrOp g2
    moveElements i.bytes a1 a2 (blockCount i d)
    return {}

/-- MOVZBW (R303). -/
def execMovzbw (i : Size) (g1 g2 : Gen) : State → Out :=
  run { basic := 3, size := i, ops := [rd g1 1, wr g2 2], reserved := refuseIf (i != .b) .extendSize }
    (readWrite 1 2 8 16 g1 g2 fun a => pure { value := a.setWidth 16 })

/-- MOVZiD (R304). -/
def execMovzd (i : Size) (g1 g2 : Gen) : State → Out :=
  run { basic := 3, size := i, ops := [rd g1 i.bytes, wr g2 4], reserved := refuseIf (i == .d) .extendSize }
    (readWrite i.bytes 4 i.bits 32 g1 g2 fun a => pure { value := a.setWidth 32 })

/-- MOVXBW (R305). -/
def execMovxbw (i : Size) (g1 g2 : Gen) : State → Out :=
  run { basic := 3, size := i, ops := [rd g1 1, wr g2 2], reserved := refuseIf (i != .b) .extendSize }
    (readWrite 1 2 8 16 g1 g2 fun a => pure { value := a.signExtend 16 })

/-- MOVXiD (R306). -/
def execMovxd (i : Size) (g1 g2 : Gen) : State → Out :=
  run { basic := 3, size := i, ops := [rd g1 i.bytes, wr g2 4], reserved := refuseIf (i == .d) .extendSize }
    (readWrite i.bytes 4 i.bits 32 g1 g2 fun a => pure { value := a.signExtend 32 })

/-- ADDR (R307): the effective address of gen1. -/
def execAddr (i : Size) (g1 g2 : Gen) : State → Out :=
  run { basic := 2, size := i, ops := [ad g1, wr g2 4], reserved := refuseIf (i != .d) .unconventionalSize } do
    let a ← addrOp g1
    let l ← locGen g2
    writeLoc 4 (a.setWidth 64) l
    return {}

end Sys2Proof.Machine
end

