-- ==== Sys2Proof/Machine/Arith.lean ====
section
/-! DEFINITION. Integer arithmetic, packed decimal and comparison (42_arithmetic R321 to R339). -/

namespace Sys2Proof.Machine

/-- ADDi (R321). -/
def execAdd (i : Size) (g1 g2 : Gen) : State → Out :=
  binary 2 i g1 g2 fun _ b a => pure (addResult b a false)

/-- ADDQi (R322). -/
def execAddq (i : Size) (q : BitVec 4) (g : Gen) : State → Out :=
  run { basic := 2, size := i, ops := [rw g i.bytes] } do
    let l ← locGen g
    let b ← readRmw i.bytes l
    let r := addResult (b.setWidth i.bits) (quick i q) false
    writeRmw i.bytes (r.value.setWidth 64) l
    updPsr r.psr
    return { overflow := r.overflow }

/-- ADDCi (R323). -/
def execAddc (i : Size) (g1 g2 : Gen) : State → Out :=
  binary 2 i g1 g2 fun s b a => pure (addResult b a s.flagC)

/-- SUBi (R324). -/
def execSub (i : Size) (g1 g2 : Gen) : State → Out :=
  binary 2 i g1 g2 fun _ b a => pure (subResult b a false)

/-- SUBCi (R325). -/
def execSubc (i : Size) (g1 g2 : Gen) : State → Out :=
  binary 2 i g1 g2 fun s b a => pure (subResult b a s.flagC)

/-- NEGi (R326). -/
def execNeg (i : Size) (g1 g2 : Gen) : State → Out :=
  unary i g1 g2 fun a =>
    pure { value := -a, psr := setCF (a != 0#i.bits) (isMin a), overflow := isMin a }

/-- ABSi (R327). -/
def execAbs (i : Size) (g1 g2 : Gen) : State → Out :=
  unary i g1 g2 fun a => pure { value := if a.msb then -a else a, psr := setF (isMin a), overflow := isMin a }

/-- MULi (R328). -/
def execMul (i : Size) (g1 g2 : Gen) : State → Out :=
  binary 3 i g1 g2 fun _ b a => pure (mulResult b a)

/-- QUOi (R329). -/
def execQuo (i : Size) (g1 g2 : Gen) : State → Out :=
  binary 3 i g1 g2 fun _ => dividing quoResult

/-- REMi (R330). -/
def execRem (i : Size) (g1 g2 : Gen) : State → Out :=
  binary 3 i g1 g2 fun _ => dividing remResult

/-- DIVi (R331). -/
def execDiv (i : Size) (g1 g2 : Gen) : State → Out :=
  binary 3 i g1 g2 fun _ => dividing divResult

/-- MODi (R332). -/
def execMod (i : Size) (g1 g2 : Gen) : State → Out :=
  binary 3 i g1 g2 fun _ => dividing modResult

/-! ### Double-length destinations (R266 case b) -/

/-- Whether a general operand is an odd register, which starts no pair (U15, log 15). -/
def oddRegister : Gen → Bool
  | .mode (.reg k) => k.getLsbD 0
  | .mode _ => false
  | .reserved => false
  | .idx _ _ _ => false
  | .idxBad _ _ _ => false

/-- The halves (low, high) of a double-length operand: a register pair, or `2n` bytes of memory. -/
def readDouble (n : Nat) : Loc → M (Quad × Quad)
  | .reg k => do
    let s ← getS
    return (lowBytes n ((s.reg k).setWidth 64), lowBytes n ((s.reg (k + 1#3)).setWidth 64))
  | .imm v => pure (v, 0#64)
  | .mem a => do
    let v ← memReadRmw a (2 * n)
    return (lowBytes n v, v >>> (8 * n))
  | .tos => do
    let v ← memReadRmw (← getS).sp (2 * n)
    return (lowBytes n v, v >>> (8 * n))

/-- The halves of a double-length operand written. -/
def writeDouble (n : Nat) (lo hi : Quad) : Loc → M Unit
  | .reg k => do
    writeReg n k lo
    writeReg n (k + 1#3) hi
  | .imm _ => stop (.trap .und)
  | .mem a => memWrite a (2 * n) (lo ||| (hi <<< (8 * n)))
  | .tos => do memWrite (← getS).sp (2 * n) (lo ||| (hi <<< (8 * n)))

/-- MEIi (R333): the unsigned product. -/
def execMei (i : Size) (g1 g2 : Gen) : State → Out :=
  run { basic := 3, size := i, ops := [rd g1 i.bytes, rw g2 (2 * i.bytes)], reserved := refuseIf (oddRegister g2) .oddPair } do
    let a ← readInt i g1
    let l ← locGen g2
    let (lo, _) ← readDouble i.bytes l
    let p : Quad := (a.setWidth 64) * ((lo.setWidth i.bits).setWidth 64)
    writeDouble i.bytes (lowBytes i.bytes p) (p >>> i.bits) l
    return {}

/-- DEIi (R334): the remainder in the low half, the quotient in the high half; a quotient that does not fit leaves both
halves free and is an integer overflow, so that with PSR.V set it takes Trap (OVF) (R334, R340; U17 says no trap: DESIGN
CHOICE, log 16). -/
def execDei (i : Size) (g1 g2 : Gen) : State → Out :=
  run { basic := 3, size := i, ops := [rd g1 i.bytes, rw g2 (2 * i.bytes)], reserved := refuseIf (oddRegister g2) .oddPair } do
    let a ← readInt i g1
    let l ← locGen g2
    let (lo, hi) ← readDouble i.bytes l
    let b := (lo.setWidth i.bits).toNat + 2 ^ i.bits * (hi.setWidth i.bits).toNat
    if a = 0#i.bits then stop (.trap .dvz)
    else if 2 ^ i.bits ≤ b / a.toNat then
      let x ← drawWord
      let y ← drawWord
      writeDouble i.bytes (lowBytes i.bytes (x.setWidth 64)) (lowBytes i.bytes (y.setWidth 64)) l
      return { overflow := true }
    else
      writeDouble i.bytes (BitVec.ofNat 64 (b % a.toNat)) (BitVec.ofNat 64 (b / a.toNat)) l
      return {}

/-! ### Packed decimal -/

/-- ADDPi (R335). -/
def execAddp (i : Size) (g1 g2 : Gen) : State → Out :=
  binary 3 i g1 g2 fun s b a => addPacked b a s.flagC

/-- SUBPi (R336). -/
def execSubp (i : Size) (g1 g2 : Gen) : State → Out :=
  binary 3 i g1 g2 fun s b a => subPacked b a s.flagC

/-! ### Comparison -/

/-- CMPi (R337). -/
def execCmp (i : Size) (g1 g2 : Gen) : State → Out :=
  run { basic := 2, size := i, ops := [rd g1 i.bytes, rd g2 i.bytes] } do
    let a ← readInt i g1
    let b ← readInt i g2
    updPsr (compareFlags a b)
    return {}

/-- CMPQi (R338). -/
def execCmpq (i : Size) (q : BitVec 4) (g : Gen) : State → Out :=
  run { basic := 2, size := i, ops := [rd g i.bytes] } do
    let b ← readInt i g
    updPsr (compareFlags (quick i q) b)
    return {}

/-- `k` pairs of elements compared up to the first unequal one (R339). -/
def compareElements (i : Size) (a1 a2 : Word) : Nat → M Unit
  | 0 => pure ()
  | k + 1 => do
    let a ← memRead a1 i.bytes
    let b ← memRead a2 i.bytes
    if a = b then compareElements i (a1 + BitVec.ofNat 32 i.bytes) (a2 + BitVec.ofNat 32 i.bytes) k
    else updPsr (compareFlags (a.setWidth i.bits) (b.setWidth i.bits))

/-- CMPMi (R339). -/
def execCmpm (i : Size) (g1 g2 : Gen) (d : Disp) : State → Out :=
  run { basic := 3, size := i, ops := [ad g1, ad g2], disp := some d, reserved := refuseIf (!blockOk i d) .blockLength } do
    let a1 ← addrOp g1
    let a2 ← addrOp g2
    updPsr (setZNL true false false)
    compareElements i a1 a2 (blockCount i d)
    return {}

end Sys2Proof.Machine
end

