-- ==== Sys2Proof/Machine/Control.lean ====
section
/-! DEFINITION. Jumps, linkage, trap instructions, returns and register lists (45_control R440 to R462). -/

namespace Sys2Proof.Machine

/-- An instruction whose actions need `next`, the address after it (45_control, header). -/
def runNext (sh : Shape) (body : Word → M Done) (s : State) : Out :=
  run sh (body (s.pc + BitVec.ofNat 32 sh.length)) s

/-- A conditional branch (R442): relative to the branch's own address (R441). -/
def branch (c : Cond) (d : Disp) : State → Out :=
  run { basic := 1, disp := some d } do
    let s ← getS
    return { target := if condHolds s c then some (s.pc + d.value) else none }

/-- BEQ (R442). -/
def execBeq (d : Disp) : State → Out := branch .eq d
/-- BNE (R442). -/
def execBne (d : Disp) : State → Out := branch .ne d
/-- BCS (R442). -/
def execBcs (d : Disp) : State → Out := branch .cs d
/-- BCC (R442). -/
def execBcc (d : Disp) : State → Out := branch .cc d
/-- BHI (R442). -/
def execBhi (d : Disp) : State → Out := branch .hi d
/-- BLS (R442). -/
def execBls (d : Disp) : State → Out := branch .ls d
/-- BGT (R442). -/
def execBgt (d : Disp) : State → Out := branch .gt d
/-- BLE (R442). -/
def execBle (d : Disp) : State → Out := branch .le d
/-- BFS (R442). -/
def execBfs (d : Disp) : State → Out := branch .fs d
/-- BFC (R442). -/
def execBfc (d : Disp) : State → Out := branch .fc d
/-- BLO (R442). -/
def execBlo (d : Disp) : State → Out := branch .lo d
/-- BHS (R442). -/
def execBhs (d : Disp) : State → Out := branch .hs d
/-- BLT (R442). -/
def execBlt (d : Disp) : State → Out := branch .lt d
/-- BGE (R442). -/
def execBge (d : Disp) : State → Out := branch .ge d
/-- BR (R441). -/
def execBr (d : Disp) : State → Out := branch .always d
/-- Bcond with condition 1111 (R442): never branches. -/
def execBnever (d : Disp) : State → Out := branch .never d

/-- The refusal of an `i` field that selects nothing and is not 11 (U12, log 12). -/
def conventional (i : Size) : Option Refusal := refuseIf (i != .d) .unconventionalSize

/-- JUMP (R440). -/
def execJump (i : Size) (g : Gen) : State → Out :=
  run { basic := 2, size := i, ops := [ad g], reserved := conventional i } do
    return { target := some (← addrOp g) }

/-- CASEi (R443). -/
def execCasei (i : Size) (g : Gen) : State → Out :=
  run { basic := 2, size := i, ops := [rd g i.bytes] } do
    let v ← readInt i g
    return { target := some ((← getS).pc + v.signExtend 32) }

/-- ACBi (R444). -/
def execAcb (i : Size) (q : BitVec 4) (g : Gen) (d : Disp) : State → Out :=
  run { basic := 2, size := i, ops := [rw g i.bytes], disp := some d } do
    let l ← locGen g
    let a ← readRmw i.bytes l
    let r := a.setWidth i.bits + quick i q
    writeRmw i.bytes (r.setWidth 64) l
    let s ← getS
    return { target := if r = 0#i.bits then none else some (s.pc + d.value)
             overflow := addOvf (a.setWidth i.bits) (quick i q) false }

/-- JSR (R445). -/
def execJsr (i : Size) (g : Gen) : State → Out :=
  runNext { basic := 2, size := i, ops := [ad g], reserved := conventional i } fun next => do
    let t ← addrOp g
    push 4 (next.setWidth 64)
    return { target := some t }

/-- BSR (R446). -/
def execBsr (d : Disp) : State → Out :=
  runNext { basic := 1, disp := some d } fun next => do
    push 4 (next.setWidth 64)
    return { target := some ((← getS).pc + d.value) }

/-- RET (R447). -/
def execRet (d : Disp) : State → Out :=
  run { basic := 1, disp := some d } do
    let t ← pop 4
    upd fun s => s.setSp (s.sp + d.value)
    return { target := some (t.setWidth 32) }

/-! ### External procedures (R450) -/

/-- A call through a procedure descriptor (R451, R452): MOD, in a double-word slot with a zero high word (D20), and the
return address are pushed; the module is entered; its program base and the descriptor's offset give the target. -/
def callModule (desc next : Word) : M Done := do
  let s ← getS
  push 4 (s.mod.setWidth 64)
  push 4 (next.setWidth 64)
  enterModule (desc.setWidth 16)
  let base ← memRead32 ((desc &&& 0xFFFF#32) + 8#32)
  return { target := some (base + (desc >>> 16)) }

/-- CXP (R451). -/
def execCxp (d : Disp) : State → Out :=
  runNext { basic := 1, disp := some d } fun next => do
    let s ← getS
    let lt ← memRead32 (s.modAddr + 4#32)
    let desc ← memRead32 (lt + 4#32 * d.value)
    callModule desc next

/-- CXPD (R452). -/
def execCxpd (i : Size) (g : Gen) : State → Out :=
  runNext { basic := 2, size := i, ops := [ad g], reserved := conventional i } fun next => do
    let a ← addrOp g
    let desc ← memRead32 a
    callModule desc next

/-- RXP (R453). -/
def execRxp (d : Disp) : State → Out :=
  run { basic := 1, disp := some d } do
    let t ← pop 4
    let m ← pop 4
    enterModule (m.setWidth 16)
    upd fun s => s.setSp (s.sp + d.value)
    return { target := some (t.setWidth 32) }

/-! ### Trap instructions -/

/-- SVC (R454). -/
def execSvc : State → Out := run { basic := 1 } (stop (.trap .svc))

/-- FLAG (R455). -/
def execFlag : State → Out :=
  run { basic := 1 } do
    if (← getS).flagF then stop (.trap .flg) else return {}

/-- BPT (R456). -/
def execBpt : State → Out := run { basic := 1 } (stop (.trap .bpt))

/-! ### Returns from exceptions -/

/-- RETI (R457). -/
def execReti : State → Out :=
  run { basic := 1, privileged := true } do
    endOfInterrupt
    returnFrom 0#32

/-- RETT (R458). -/
def execRett (d : Disp) : State → Out :=
  run { basic := 1, disp := some d, privileged := true } (returnFrom d.value)

/-! ### Frames and register lists -/

/-- The registers of a list byte pushed (R459, R461): bit n names Rn. -/
def saveRegs (m : Byte) : List RegNum → M Unit
  | [] => pure ()
  | n :: rest => do
    if m.getLsbD n.toNat then push 4 (((← getS).reg n).setWidth 64) else pure ()
    saveRegs m rest

/-- The registers of a list byte popped (R460, R462): bit n names R(7 - n). -/
def restoreRegs (m : Byte) : List RegNum → M Unit
  | [] => pure ()
  | n :: rest => do
    if m.getLsbD n.toNat then
      let v ← pop 4
      upd fun s => s.setReg (7#3 - n) (v.setWidth 32)
    else pure ()
    restoreRegs m rest

/-- The bits of a list byte in the order they are looked at. -/
def listBits : List RegNum := [0#3, 1#3, 2#3, 3#3, 4#3, 5#3, 6#3, 7#3]

/-- SAVE (R461). -/
def execSave (m : Byte) : State → Out :=
  run { basic := 1, implied := 1 } do
    saveRegs m listBits
    return {}

/-- RESTORE (R462). -/
def execRestore (m : Byte) : State → Out :=
  run { basic := 1, implied := 1 } do
    restoreRegs m listBits
    return {}

/-- ENTER (R459). -/
def execEnter (m : Byte) (d : Disp) : State → Out :=
  run { basic := 1, implied := 1, disp := some d } do
    push 4 ((← getS).fp.setWidth 64)
    upd fun s => { s with fp := s.sp }
    upd fun s => s.setSp (s.sp - d.value)
    saveRegs m listBits
    return {}

/-- EXIT (R460). -/
def execExit (m : Byte) : State → Out :=
  run { basic := 1, implied := 1 } do
    restoreRegs m listBits
    upd fun s => s.setSp s.fp
    let v ← pop 4
    upd fun s => { s with fp := v.setWidth 32 }
    return {}

end Sys2Proof.Machine
end

