-- ==== Sys2Proof/Machine/Fields.lean ====
section
/-! DEFINITION. Bit-field and array instructions (44_field_array_string R400 to R411). -/

namespace Sys2Proof.Machine

/-- A mask of `len` low bits. -/
def lowMask (len : Nat) : Quad := BitVec.ofNat 64 (2 ^ len - 1)

/-- Whether a field lies inside a register (R400). -/
def insideRegister (o : Int) (len : Nat) : Bool := decide (0 ≤ o) && decide (o + len ≤ 32)

/-- The bytes a field in memory occupies (R400, D19). -/
def fieldBytes (o : Int) (len : Nat) : Nat := ((o.fmod 8).toNat + len + 7) / 8

/-- `field(base, o, len)` read (R400); in a register it must lie inside, else it is free (U20, log 19). -/
def fieldRead (base : Base) (o : Int) (len : Nat) : M Quad :=
  match base with
  | .reg k => do
    let s ← getS
    if insideRegister o len then pure (((s.reg k).setWidth 64 >>> o.toNat) &&& lowMask len)
    else return (← drawWord).setWidth 64 &&& lowMask len
  | .mem a => do
    let v ← memRead (a + BitVec.ofInt 32 (o.fdiv 8)) (fieldBytes o len)
    return (v >>> (o.fmod 8).toNat) &&& lowMask len

/-- A value with `len` bits from bit `k` on replaced. -/
def insertBits (old : Quad) (k len : Nat) (v : Quad) : Quad :=
  (old &&& ~~~(lowMask len <<< k)) ||| ((v &&& lowMask len) <<< k)

/-- `field(base, o, len) <- v` (R400); in a register it must lie inside, else the register is free (U20, log 19).
The status of the read from memory is log 46's. -/
def fieldWrite (base : Base) (o : Int) (len : Nat) (v : Quad) : M Unit :=
  match base with
  | .reg k => do
    let s ← getS
    if insideRegister o len then
      upd fun s' => s'.setReg k ((insertBits ((s.reg k).setWidth 64) o.toNat len v).setWidth 32)
    else
      let w ← drawWord
      upd fun s' => s'.setReg k w
  | .mem a => do
    let x := a + BitVec.ofInt 32 (o.fdiv 8)
    let old ← memReadRmw x (fieldBytes o len)
    memWrite x (fieldBytes o len) (insertBits old (o.fmod 8).toNat len v)

/-- The value INSi inserts (R402): the field bits above the source's width are free (U21, log 19). -/
def insertSource (i : Size) (v : BitVec i.bits) (len : Nat) : M Quad :=
  if len ≤ i.bits then pure (v.setWidth 64)
  else do return v.setWidth 64 ||| ((← drawWord).setWidth 64 <<< i.bits)

/-- Whether a length displacement is 1 to 32 (R401, U21). -/
def lengthOk (d : Disp) : Bool := decide (1 ≤ d.value.toInt) && decide (d.value.toInt ≤ 32)

/-- EXTi (R401). -/
def execExtf (i : Size) (r : RegNum) (g1 g2 : Gen) (d : Disp) : State → Out :=
  run { basic := 3, size := i, ops := [ra g1, wr g2 i.bytes], disp := some d,
        reserved := refuseIf (!lengthOk d) .fieldLength } do
    let base ← baseOp g1
    let l ← locGen g2
    let s ← getS
    let f ← fieldRead base (s.reg r).toInt d.value.toNat
    writeLoc i.bytes f l
    return {}

/-- INSi (R402). -/
def execIns (i : Size) (r : RegNum) (g1 g2 : Gen) (d : Disp) : State → Out :=
  run { basic := 3, size := i, ops := [rd g1 i.bytes, ra g2], disp := some d,
        reserved := refuseIf (!lengthOk d) .fieldLength } do
    let v ← readInt i g1
    let base ← baseOp g2
    let s ← getS
    let v' ← insertSource i v d.value.toNat
    fieldWrite base (s.reg r).toInt d.value.toNat v'
    return {}

/-- The offset of the byte of EXTSi and INSSi (R403). -/
def shortOffset (c : Byte) : Int := (c.extractLsb' 5 3).toNat
/-- The length of the byte of EXTSi and INSSi (R403). -/
def shortLength (c : Byte) : Nat := (c.extractLsb' 0 5).toNat + 1

/-- EXTSi (R403). -/
def execExts (i : Size) (g1 g2 : Gen) (c : Byte) : State → Out :=
  run { basic := 3, size := i, ops := [ra g1, wr g2 i.bytes], implied := 1 } do
    let base ← baseOp g1
    let l ← locGen g2
    let f ← fieldRead base (shortOffset c) (shortLength c)
    writeLoc i.bytes f l
    return {}

/-- INSSi (R404): a source shorter than the field is zero-extended. -/
def execInss (i : Size) (g1 g2 : Gen) (c : Byte) : State → Out :=
  run { basic := 3, size := i, ops := [rd g1 i.bytes, ra g2], implied := 1 } do
    let v ← readInt i g1
    let base ← baseOp g2
    fieldWrite base (shortOffset c) (shortLength c) (v.setWidth 64)
    return {}

/-- CVTP (R405). -/
def execCvtp (i : Size) (r : RegNum) (g1 g2 : Gen) : State → Out :=
  run { basic := 3, size := i, ops := [ad g1, wr g2 4], reserved := refuseIf (i != .d) .unconventionalSize } do
    let a ← addrOp g1
    let l ← locGen g2
    let s ← getS
    writeLoc 4 ((8#32 * a + s.reg r).setWidth 64) l
    return {}

/-- CHECKi (R410). -/
def execCheck (i : Size) (r : RegNum) (g1 g2 : Gen) : State → Out :=
  run { basic := 3, size := i, ops := [ad g1, rd g2 i.bytes] } do
    let b ← addrOp g1
    let upper ← memRead b i.bytes
    let lower ← memRead (b + BitVec.ofNat 32 i.bytes) i.bytes
    let v ← readInt i g2
    let lo := (lower.setWidth i.bits).toInt
    let inside := decide (lo ≤ v.toInt) && decide (v.toInt ≤ (upper.setWidth i.bits).toInt)
    upd fun s => s.setReg r (BitVec.ofInt 32 (v.toInt - lo))
    updPsr (setF (!inside))
    return { overflow := !inside }

/-- INDEXi (R411). -/
def execIndex (i : Size) (r : RegNum) (g1 g2 : Gen) : State → Out :=
  run { basic := 3, size := i, ops := [rd g1 i.bytes, rd g2 i.bytes] } do
    let n ← readInt i g1
    let x ← readInt i g2
    upd fun s => s.setReg r (s.reg r * (n.setWidth 32 + 1#32) + x.setWidth 32)
    return {}

end Sys2Proof.Machine
end

