-- ==== Sys2Proof/Machine/Logic.lean ====
section
/-! DEFINITION. Logical, Boolean, shift and bit instructions (43_logic_shift_bit R360 to R377). -/

namespace Sys2Proof.Machine

/-- ANDi (R360). -/
def execAnd (i : Size) (g1 g2 : Gen) : State → Out := binary 2 i g1 g2 fun _ b a => pure { value := b &&& a }
/-- ORi (R361). -/
def execOr (i : Size) (g1 g2 : Gen) : State → Out := binary 2 i g1 g2 fun _ b a => pure { value := b ||| a }
/-- BICi (R362). -/
def execBic (i : Size) (g1 g2 : Gen) : State → Out := binary 2 i g1 g2 fun _ b a => pure { value := b &&& ~~~a }
/-- XORi (R363). -/
def execXor (i : Size) (g1 g2 : Gen) : State → Out := binary 2 i g1 g2 fun _ b a => pure { value := b ^^^ a }
/-- COMi (R364). -/
def execCom (i : Size) (g1 g2 : Gen) : State → Out := unary i g1 g2 fun a => pure { value := ~~~a }
/-- NOTi (R365): bit 0 only. -/
def execNot (i : Size) (g1 g2 : Gen) : State → Out := unary i g1 g2 fun a => pure { value := a ^^^ 1#i.bits }

/-- Scondi (R366). -/
def execScond (i : Size) (c : Cond) (g : Gen) : State → Out :=
  run { basic := 2, size := i, ops := [wr g i.bytes] } do
    let l ← locGen g
    let s ← getS
    writeLoc i.bytes (if condHolds s c then 1#64 else 0#64) l
    return {}

/-- A shift: the count is always one byte (R367). -/
def shift (i : Size) (g1 g2 : Gen) (f : BitVec i.bits → Byte → M (Result i.bits)) : State → Out :=
  run { basic := 3, size := i, ops := [rd g1 1, rw g2 i.bytes] }
    (readModify 1 i.bytes 8 i.bits g1 g2 fun _ b c => f b c)

/-- LSHi (R367). -/
def execLsh (i : Size) (g1 g2 : Gen) : State → Out := shift i g1 g2 logicalShift
/-- ASHi (R368). -/
def execAsh (i : Size) (g1 g2 : Gen) : State → Out := shift i g1 g2 arithmeticShift
/-- ROTi (R369). -/
def execRot (i : Size) (g1 g2 : Gen) : State → Out := shift i g1 g2 rotate

/-! ### Bit instructions (R370) -/

/-- The byte that holds a bit at a signed offset from an address (R370). -/
def bitByte (a : Word) (o : Int) : Word := a + BitVec.ofInt 32 (o.fdiv 8)

/-- The bit's place in its byte (R370). -/
def bitPlace (o : Int) : Nat := (o.fmod 8).toNat

/-- A register's bit tested: free when the offset is not 0 to 31 (U20, log 19). -/
def registerBit (w : Word) (o : Int) : M Bool :=
  if decide (0 ≤ o) && decide (o < 32) then pure (w.getLsbD o.toNat) else drawBool

/-- A register with one bit changed: free when the offset is not 0 to 31 (U20, log 19). -/
def registerWithBit (w : Word) (o : Int) (f : Bool → Bool) : M Word :=
  if decide (0 ≤ o) && decide (o < 32) then pure (setBit32 w o.toNat (f (w.getLsbD o.toNat))) else drawWord

/-- A byte with one bit changed. -/
def byteWithBit (v : Quad) (k : Nat) (f : Bool → Bool) : Quad :=
  if f (v.getLsbD k) then v ||| (1#64 <<< k) else v &&& ~~~(1#64 <<< k)

/-- TBITi (R371). -/
def execTbit (i : Size) (g1 g2 : Gen) : State → Out :=
  run { basic := 2, size := i, ops := [rd g1 i.bytes, ra g2] } do
    let o ← readInt i g1
    match ← baseOp g2 with
    | .reg k =>
      let s ← getS
      let b ← registerBit (s.reg k) o.toInt
      updPsr (setF b)
    | .mem a =>
      let v ← memRead (bitByte a o.toInt) 1
      updPsr (setF (v.getLsbD (bitPlace o.toInt)))
    return {}

/-- Test and change a bit: `f` gives the new bit; `locked` selects the interlocked access (R372 to R376).
The status of the read from memory is log 46's. -/
def testBit (locked : Bool) (f : Bool → Bool) (i : Size) (g1 g2 : Gen) : State → Out :=
  run { basic := 3, size := i, ops := [rd g1 i.bytes, ra g2] } do
    let o ← readInt i g1
    match ← baseOp g2 with
    | .reg k =>
      let s ← getS
      let b ← registerBit (s.reg k) o.toInt
      let w ← registerWithBit (s.reg k) o.toInt f
      upd fun s => s.setReg k w
      updPsr (setF b)
    | .mem a =>
      let x := bitByte a o.toInt
      let v ← if locked then memReadLocked x else memReadRmw x 1
      let v' := byteWithBit v (bitPlace o.toInt) f
      if locked then memWriteLocked x v' else memWrite x 1 v'
      updPsr (setF (v.getLsbD (bitPlace o.toInt)))
    return {}

/-- SBITi (R372). -/
def execSbit (i : Size) (g1 g2 : Gen) : State → Out := testBit false (fun _ => true) i g1 g2
/-- SBITIi (R373): interlocked. -/
def execSbiti (i : Size) (g1 g2 : Gen) : State → Out := testBit true (fun _ => true) i g1 g2
/-- CBITi (R374). -/
def execCbit (i : Size) (g1 g2 : Gen) : State → Out := testBit false (fun _ => false) i g1 g2
/-- CBITIi (R375): interlocked. -/
def execCbiti (i : Size) (g1 g2 : Gen) : State → Out := testBit true (fun _ => false) i g1 g2
/-- IBITi (R376, C14): invert. -/
def execIbit (i : Size) (g1 g2 : Gen) : State → Out := testBit false (fun b => !b) i g1 g2

/-- FFSi (R377). -/
def execFfs (i : Size) (pad : BitVec 3) (g1 g2 : Gen) : State → Out :=
  run { basic := 3, size := i, ops := [rd g1 i.bytes, rw g2 1], reserved := refuseIf (pad != 0#3) .dontCareBits }
    (readModify i.bytes 1 i.bits 8 g1 g2 fun _ o b =>
      match findSet b o.toNat (i.bits - o.toNat) with
      | some k => pure { value := BitVec.ofNat 8 k, psr := setF false }
      | none => pure { value := 0#8, psr := setF true })

end Sys2Proof.Machine
end

