-- ==== Sys2Proof/Machine/Strings.lean ====
section
/-! DEFINITION. String instructions (44_field_array_string R420 to R427): one element a step (D7, R421, log 33). -/

namespace Sys2Proof.Machine

/-- The step of a string pointer (R420): the element's size, negated with B. -/
def stride (n : Nat) (back : Bool) : Word := if back then -BitVec.ofNat 32 n else BitVec.ofNat 32 n

/-- The pointers advanced and the count lowered (R420). -/
def advance (n : Nat) (back two : Bool) : M Unit := do
  upd fun s => s.setReg 1#3 (s.reg 1#3 + stride n back)
  if two then upd fun s => s.setReg 2#3 (s.reg 2#3 + stride n back) else pure ()
  upd fun s => s.setReg 0#3 (s.reg 0#3 - 1#32)

/-- Whether an entry ends the instruction under the U/W option (R420). -/
def ends (uw : Match) (same : Bool) : Bool :=
  match uw with
  | .untilMatch => same
  | .whileMatch => !same
  | .none => false
  | .unassigned => false

/-- One iteration of the common scheme (R420) on elements of `n` bytes: `before` sets the flags, `step` is the
instruction's own step and says whether it stops the instruction. -/
def iteration (n : Nat) (translate two : Bool) (o : StrOpts) (before : M Unit) (step : Quad → M Bool) : M Done := do
  updPsr (setF false)
  before
  let s ← getS
  if s.reg 0#3 = 0#32 then return { element := true }
  else
    let e0 ← memRead (s.reg 1#3) n
    let e ← if translate then memRead (s.reg 3#3 + e0.setWidth 32) 1 else pure e0
    if ends o.uw (e == lowBytes n ((s.reg 4#3).setWidth 64)) then
      updPsr (setF true)
      return { element := true }
    else
      let stopped ← step e
      if stopped then return { element := true }
      else
        advance n o.back two
        return { element := true, unfinished := decide (s.reg 0#3 ≠ 1#32) }

/-- A string instruction: U/W = 10 and nonzero pad bits are reserved (U12, logs 11 and 12). -/
def string (i : Size) (translate two : Bool) (o : StrOpts) (before : M Unit) (step : Quad → M Bool) : State → Out :=
  run { basic := 3, size := i,
        reserved := if o.uw = .unassigned then some .stringOption else refuseIf (o.pad != 0#6) .dontCareBits }
    (iteration i.bytes translate two o before step)

/-- The step of MOVSi and MOVST (R422). -/
def moveStep (n : Nat) (e : Quad) : M Bool := do
  memWrite ((← getS).reg 2#3) n e
  return false

/-- The step of CMPSi and CMPST (R424): the flags of CMPi on the two entries, and a stop, where they differ. -/
def compareStep (i : Size) (e : Quad) : M Bool := do
  let e2 ← memRead ((← getS).reg 2#3) i.bytes
  if e = e2 then return false
  else
    updPsr (compareFlags (e.setWidth i.bits) (e2.setWidth i.bits))
    return true

/-- The flags that CMPSi and CMPST set before their loop (R424). -/
def equalFlags : M Unit := updPsr (setZNL true false false)

/-- MOVSi (R422). -/
def execMovs (i : Size) (o : StrOpts) : State → Out := string i false true o (pure ()) (moveStep i.bytes)
/-- MOVST (R423). -/
def execMovst (o : StrOpts) : State → Out := string .b true true o (pure ()) (moveStep 1)
/-- CMPSi (R424). -/
def execCmps (i : Size) (o : StrOpts) : State → Out := string i false true o equalFlags (compareStep i)
/-- CMPST (R425). -/
def execCmpst (o : StrOpts) : State → Out := string .b true true o equalFlags (compareStep .b)
/-- SKPSi (R426). -/
def execSkps (i : Size) (o : StrOpts) : State → Out := string i false false o (pure ()) fun _ => pure false
/-- SKPST (R427). -/
def execSkpst (o : StrOpts) : State → Out := string .b true false o (pure ()) fun _ => pure false

end Sys2Proof.Machine
end

