-- ==== Sys2Proof/Machine/Slave.lean ====
section
/-! DEFINITION. Slave processor instructions, the CPU side (47_slave R520 to R581). What a slave computes is its
answer (R527): the next entry of `slaveReplies`, or a free one. -/

namespace Sys2Proof.Machine

/-! ### Slave bus cycles (R146, R522 to R526) -/

/-- A slave write cycle. -/
def slaveSend (status : BitVec 5) (w : Word) : M Unit := upd fun s => { s with refs := s.refs ++ [.slaveWrite status w] }

/-- A slave read cycle. -/
def slaveRead (status : BitVec 5) (w : Word) : M Unit := upd fun s => { s with refs := s.refs ++ [.slaveRead status w] }

/-- The ID byte of an instruction (R522): its first byte. -/
def idByte (i : Instr) : Byte := (encode i).headD 0#8

/-- The operation word of an instruction (R522): its bits 23:8. -/
def operationWord (i : Instr) : BitVec 16 := (encode i).getD 2 0#8 ++ (encode i).getD 1 0#8

/-- The broadcast double-word (R522): byte 0, byte 1, byte 2 and an unused byte, sent as zero (U26, log 23). -/
def broadcastWord (i : Instr) : Word :=
  idByte i ++ (encode i).getD 1 0#8 ++ (encode i).getD 2 0#8 ++ 0#8

/-- The double-words of an operand of `n` bytes, the least significant first, unused lanes zero (R523, D14). -/
def operandWords (n : Nat) (v : Quad) : List Word :=
  if n = 8 then [v.extractLsb' 0 32, v.extractLsb' 32 32] else [(lowBytes n v).setWidth 32]

/-- Operand double-words sent, in order (R523). -/
def sendAll : List Word → M Unit
  | [] => pure ()
  | w :: rest => do
    slaveSend 0b11101#5 w
    sendAll rest

/-- The slave's answer (R527). -/
def slaveAnswer (i : Instr) (sent : List Word) : M SlaveReply := fun s =>
  let r := match s.slaveReplies with
    | [] => Config.slaveAnswer s.freeCount (idByte i) (operationWord i) sent
    | r :: _ => r
  .ok r { s with slaveReplies := s.slaveReplies.tail, freeCount := s.freeCount + 1 }

/-- Completion by FSSR (R526, R528): Q = 0 loads N, Z and L, Q = 1 traps. -/
def statusWord (sw : Word) : M Unit := do
  slaveRead 0b11110#5 sw
  if sw.getLsbD 0 then stop (.trap (if sw.getLsbD 1 then .und else .slave))
  else updPsr (setZNL (sw.getLsbD 6) (sw.getLsbD 7) (sw.getLsbD 2))

/-- The protocol (R520 steps 4 to 7): broadcast, operands, the wait, and the result of `n` bytes, if the slave is done
and has one for the CPU (R525). -/
def transact (i : Instr) (sent : List Word) (n : Nat) : M (Option Quad) := do
  slaveSend 0b11111#5 (broadcastWord i)
  sendAll sent
  match ← slaveAnswer i sent with
  | .done lo hi =>
    if n = 0 then return none
    else
      slaveRead 0b11101#5 lo
      if n = 8 then
        slaveRead 0b11101#5 hi
        return some (hi ++ lo)
      else return some (lo.setWidth 64)
  | .status sw =>
    statusWord sw
    return none
  | .silent => stop (.fault .slaveSilent)

/-! ### Operands (R523, R530) -/

/-- The type of a slave operand: its bytes, and whether Register mode names a slave register (R530). -/
structure SlaveType where
  bytes : Nat
  inSlave : Bool
  deriving DecidableEq, Repr

/-- An integer operand of `n` bytes. -/
def cpuType (n : Nat) : SlaveType := ⟨n, false⟩
/-- A floating or custom operand of `n` bytes. -/
def slaveType (n : Nat) : SlaveType := ⟨n, true⟩

/-- Whether a general operand is a slave register (R530). -/
def inSlaveRegister (t : SlaveType) : Gen → Bool
  | .mode (.reg _) => t.inSlave
  | .mode _ => false
  | .reserved => false
  | .idx _ _ _ => false
  | .idxBad _ _ _ => false

/-- A source operand read and made into the double-words sent (R523); none for a slave register. -/
def sourceWords (t : SlaveType) (g : Gen) : M (List Word) :=
  if inSlaveRegister t g then pure []
  else do return operandWords t.bytes (← readOp g t.bytes)

/-- The old value of a read-modify-write operand, as the double-words sent (R523); none for a slave register. -/
def rmwWords (t : SlaveType) (g : Gen) (l : Loc) : M (List Word) :=
  if inSlaveRegister t g then pure []
  else do return operandWords t.bytes (← readRmw t.bytes l)

/-- The bytes of result the CPU reads (R525): none for a slave register. -/
def resultBytes (t : SlaveType) (g : Gen) : Nat := if inSlaveRegister t g then 0 else t.bytes

/-- Operand 1 sent, operand 2 sent and rewritten with the result (the ADDf and CCALc rows of Tables 3-1 and 3-2). -/
def likeAdd (set : SlaveSet) (i : Instr) (reserved : Option Refusal) (t1 : SlaveType) (g1 : Gen) (t2 : SlaveType)
    (g2 : Gen) : State → Out :=
  run { basic := 3, ops := [rd g1 t1.bytes, rw g2 t2.bytes], slave := some set, reserved := reserved } do
    let w1 ← sourceWords t1 g1
    let l ← locGen g2
    let w2 ← rmwWords t2 g2 l
    match ← transact i (w1 ++ w2) (resultBytes t2 g2) with
    | some v =>
      writeRmw t2.bytes v l
      return {}
    | none => return {}

/-- Operand 1 sent, operand 2 written with the result (the MOVf, conversion and CMOVc rows). -/
def likeMov (size : Size) (set : SlaveSet) (i : Instr) (reserved : Option Refusal) (t1 : SlaveType) (g1 : Gen)
    (t2 : SlaveType) (g2 : Gen) : State → Out :=
  run { basic := 3, size := size, ops := [rd g1 t1.bytes, wr g2 t2.bytes], slave := some set, reserved := reserved } do
    let w1 ← sourceWords t1 g1
    let l ← locGen g2
    match ← transact i w1 (resultBytes t2 g2) with
    | some v =>
      writeLoc t2.bytes v l
      return {}
    | none => return {}

/-- Both operands sent, no result for the CPU (the CMPf, POLYf, DOTf and CCMPc rows). -/
def likeCmp (set : SlaveSet) (i : Instr) (reserved : Option Refusal) (t1 : SlaveType) (g1 : Gen) (t2 : SlaveType)
    (g2 : Gen) : State → Out :=
  run { basic := 3, ops := [rd g1 t1.bytes, rd g2 t2.bytes], slave := some set, reserved := reserved } do
    let w1 ← sourceWords t1 g1
    let w2 ← sourceWords t2 g2
    let _ ← transact i (w1 ++ w2) 0
    return {}

/-- The size that instr[9:8] is in an instruction that has no length of its own: 10 makes the opcode undefined (R240,
D10, log 9), any other value is forwarded (log 12). -/
def forwardedSize (i : BitVec 2) : Size := if i = 0b10#2 then .u else .d

/-- A double-word sent, nothing returned (LFSR, LCSR, LCR). -/
def slaveLoad (set : SlaveSet) (privileged : Bool) (b : BitVec 2) (i : Instr) (reserved : Option Refusal) (g : Gen) :
    State → Out :=
  run { basic := 3, size := forwardedSize b, ops := [rd g 4], slave := some set, privileged := privileged, reserved := reserved } do
    let w ← sourceWords (cpuType 4) g
    let _ ← transact i w 0
    return {}

/-- Nothing sent, a double-word returned (SFSR, SCSR, SCR). -/
def slaveStore (set : SlaveSet) (privileged : Bool) (b : BitVec 2) (i : Instr) (reserved : Option Refusal) (g : Gen) :
    State → Out :=
  run { basic := 3, size := forwardedSize b, ops := [wr g 4], slave := some set, privileged := privileged, reserved := reserved } do
    let l ← locGen g
    match ← transact i [] 4 with
    | some v =>
      writeLoc 4 v l
      return {}
    | none => return {}

/-- The refusal of a nonzero bit that the encoding writes as 0 (R244, log 11). -/
def padZero {n : Nat} (pad : BitVec n) : Option Refusal := refuseIf (pad != 0#n) .dontCareBits

/-- An unassigned slave opcode: the classes of its note (R230, R551, R581). -/
def slot (note : SlotNote) (set : SlaveSet) (i : Instr) (reserved : Option Refusal) (t : SlaveType) (g1 g2 : Gen) :
    State → Out :=
  match note with
  | .likeMov => likeMov .d set i reserved t g1 t g2
  | .likeAdd => likeAdd set i reserved t g1 t g2
  | .likeCmp => likeCmp set i reserved t g1 t g2

/-! ### Floating-point instructions (Table 3-1) -/

/-- MOVif (R544). -/
def execMovif (f : FSize) (i : Size) (g1 g2 : Gen) : State → Out :=
  likeMov i .float (.movif f i g1 g2) none (cpuType i.bytes) g1 (slaveType f.bytes) g2

/-- LFSR (R545). -/
def execLfsr (fi : BitVec 3) (g1 : Gen) (pad : BitVec 5) : State → Out :=
  slaveLoad .float false (fi.setWidth 2) (.lfsr fi g1 pad) (padZero pad) g1

/-- MOVLF (R543); its i = 10 is forwarded (log 12). -/
def execMovlf (fi : BitVec 3) (g1 g2 : Gen) : State → Out :=
  likeMov .d .float (.movlf fi g1 g2) none (slaveType 8) g1 (slaveType 4) g2

/-- MOVFL (R542). -/
def execMovfl (fi : BitVec 3) (g1 g2 : Gen) : State → Out :=
  likeMov (forwardedSize (fi.setWidth 2)) .float (.movfl fi g1 g2) none (slaveType 4) g1 (slaveType 8) g2

/-- ROUNDfi (R541). -/
def execRoundfi (f : FSize) (i : Size) (g1 g2 : Gen) : State → Out :=
  likeMov i .float (.roundfi f i g1 g2) none (slaveType f.bytes) g1 (cpuType i.bytes) g2

/-- TRUNCfi (R540). -/
def execTruncfi (f : FSize) (i : Size) (g1 g2 : Gen) : State → Out :=
  likeMov i .float (.truncfi f i g1 g2) none (slaveType f.bytes) g1 (cpuType i.bytes) g2

/-- SFSR (R546). -/
def execSfsr (fi : BitVec 3) (pad : BitVec 5) (g2 : Gen) : State → Out :=
  slaveStore .float false (fi.setWidth 2) (.sfsr fi pad g2) (padZero pad) g2

/-- FLOORfi (R539). -/
def execFloorfi (f : FSize) (i : Size) (g1 g2 : Gen) : State → Out :=
  likeMov i .float (.floorfi f i g1 g2) none (slaveType f.bytes) g1 (cpuType i.bytes) g2

/-- ADDf (R531). -/
def execAddf (f : FSize) (pad : BitVec 1) (g1 g2 : Gen) : State → Out :=
  likeAdd .float (.addf f pad g1 g2) (padZero pad) (slaveType f.bytes) g1 (slaveType f.bytes) g2

/-- MOVf (R535). -/
def execMovf (f : FSize) (pad : BitVec 1) (g1 g2 : Gen) : State → Out :=
  likeMov .d .float (.movf f pad g1 g2) (padZero pad) (slaveType f.bytes) g1 (slaveType f.bytes) g2

/-- CMPf (R538). -/
def execCmpf (f : FSize) (pad : BitVec 1) (g1 g2 : Gen) : State → Out :=
  likeCmp .float (.cmpf f pad g1 g2) (padZero pad) (slaveType f.bytes) g1 (slaveType f.bytes) g2

/-- Format 11, op 0011, Note 3 (R224, R551). -/
def execSlot11at3 (f : FSize) (pad : BitVec 1) (g1 g2 : Gen) : State → Out :=
  likeCmp .float (.slot11at3 f pad g1 g2) (padZero pad) (slaveType f.bytes) g1 (slaveType f.bytes) g2

/-- SUBf (R532). -/
def execSubf (f : FSize) (pad : BitVec 1) (g1 g2 : Gen) : State → Out :=
  likeAdd .float (.subf f pad g1 g2) (padZero pad) (slaveType f.bytes) g1 (slaveType f.bytes) g2

/-- NEGf (R537). -/
def execNegf (f : FSize) (pad : BitVec 1) (g1 g2 : Gen) : State → Out :=
  likeMov .d .float (.negf f pad g1 g2) (padZero pad) (slaveType f.bytes) g1 (slaveType f.bytes) g2

/-- Format 11, op 0110, Note 2 (R224, R551). -/
def execSlot11at6 (f : FSize) (pad : BitVec 1) (g1 g2 : Gen) : State → Out :=
  likeAdd .float (.slot11at6 f pad g1 g2) (padZero pad) (slaveType f.bytes) g1 (slaveType f.bytes) g2

/-- Format 11, op 0111, Note 1 (R224, R551). -/
def execSlot11at7 (f : FSize) (pad : BitVec 1) (g1 g2 : Gen) : State → Out :=
  likeMov .d .float (.slot11at7 f pad g1 g2) (padZero pad) (slaveType f.bytes) g1 (slaveType f.bytes) g2

/-- DIVf (R534). -/
def execDivf (f : FSize) (pad : BitVec 1) (g1 g2 : Gen) : State → Out :=
  likeAdd .float (.divf f pad g1 g2) (padZero pad) (slaveType f.bytes) g1 (slaveType f.bytes) g2

/-- Format 11, op 1001, Note 1 (R224, R551). -/
def execSlot11at9 (f : FSize) (pad : BitVec 1) (g1 g2 : Gen) : State → Out :=
  likeMov .d .float (.slot11at9 f pad g1 g2) (padZero pad) (slaveType f.bytes) g1 (slaveType f.bytes) g2

/-- Format 11, op 1010, Note 3 (R224, R551). -/
def execSlot11at10 (f : FSize) (pad : BitVec 1) (g1 g2 : Gen) : State → Out :=
  likeCmp .float (.slot11at10 f pad g1 g2) (padZero pad) (slaveType f.bytes) g1 (slaveType f.bytes) g2

/-- Format 11, op 1011, Note 1 (R224, R551). -/
def execSlot11at11 (f : FSize) (pad : BitVec 1) (g1 g2 : Gen) : State → Out :=
  likeMov .d .float (.slot11at11 f pad g1 g2) (padZero pad) (slaveType f.bytes) g1 (slaveType f.bytes) g2

/-- MULf (R533). -/
def execMulf (f : FSize) (pad : BitVec 1) (g1 g2 : Gen) : State → Out :=
  likeAdd .float (.mulf f pad g1 g2) (padZero pad) (slaveType f.bytes) g1 (slaveType f.bytes) g2

/-- ABSf (R536). -/
def execAbsf (f : FSize) (pad : BitVec 1) (g1 g2 : Gen) : State → Out :=
  likeMov .d .float (.absf f pad g1 g2) (padZero pad) (slaveType f.bytes) g1 (slaveType f.bytes) g2

/-- Format 11, op 1110, Note 2 (R224, R551). -/
def execSlot11at14 (f : FSize) (pad : BitVec 1) (g1 g2 : Gen) : State → Out :=
  likeAdd .float (.slot11at14 f pad g1 g2) (padZero pad) (slaveType f.bytes) g1 (slaveType f.bytes) g2

/-- Format 11, op 1111, Note 1 (R224, R551). -/
def execSlot11at15 (f : FSize) (pad : BitVec 1) (g1 g2 : Gen) : State → Out :=
  likeMov .d .float (.slot11at15 f pad g1 g2) (padZero pad) (slaveType f.bytes) g1 (slaveType f.bytes) g2

/-- POLYf (R547). -/
def execPolyf (f : FSize) (pad : BitVec 1) (g1 g2 : Gen) : State → Out :=
  likeCmp .float (.polyf f pad g1 g2) (padZero pad) (slaveType f.bytes) g1 (slaveType f.bytes) g2

/-- DOTf (R548). -/
def execDotf (f : FSize) (pad : BitVec 1) (g1 g2 : Gen) : State → Out :=
  likeCmp .float (.dotf f pad g1 g2) (padZero pad) (slaveType f.bytes) g1 (slaveType f.bytes) g2

/-- SCALBf (R549). -/
def execScalbf (f : FSize) (pad : BitVec 1) (g1 g2 : Gen) : State → Out :=
  likeAdd .float (.scalbf f pad g1 g2) (padZero pad) (slaveType f.bytes) g1 (slaveType f.bytes) g2

/-- LOGBf (R550). -/
def execLogbf (f : FSize) (pad : BitVec 1) (g1 g2 : Gen) : State → Out :=
  likeMov .d .float (.logbf f pad g1 g2) (padZero pad) (slaveType f.bytes) g1 (slaveType f.bytes) g2

/-- The unassigned opcodes of Format 12 (R225, R551): the note of each is open (U13, log 25). -/
def execSlot12 (op : BitVec 4) (f : FSize) (pad : BitVec 1) (g1 g2 : Gen) : State → Out :=
  slot (Config.note12 op) .float (.slot12 op f pad g1 g2) (padZero pad) (slaveType f.bytes) g1 g2

/-! ### Custom instructions (Table 3-2) -/

/-- LCR (R578). -/
def execLcr (creg : BitVec 4) (i : BitVec 2) (pad : BitVec 1) (g1 : Gen) : State → Out :=
  slaveLoad .custom true i (.lcr creg i pad g1) (padZero pad) g1

/-- SCR (R579). -/
def execScr (creg : BitVec 4) (i : BitVec 2) (pad : BitVec 1) (g1 : Gen) : State → Out :=
  slaveStore .custom true i (.scr creg i pad g1) (padZero pad) g1

/-- CCV3ic (R573). -/
def execCcv3ic (c : CSize) (i : Size) (g1 g2 : Gen) : State → Out :=
  likeMov i .custom (.ccv3ic c i g1 g2) none (cpuType i.bytes) g1 (slaveType c.bytes) g2

/-- LCSR (R576). -/
def execLcsr (ci : BitVec 3) (g1 : Gen) (pad : BitVec 5) : State → Out :=
  slaveLoad .custom false (ci.setWidth 2) (.lcsr ci g1 pad) (padZero pad) g1

/-- CCV5QD (R575); its i = 10 is forwarded (log 12). -/
def execCcv5qd (ci : BitVec 3) (g1 g2 : Gen) : State → Out :=
  likeMov .d .custom (.ccv5qd ci g1 g2) none (slaveType 8) g1 (cpuType 4) g2

/-- CCV4DQ (R574); with i = 10 it is undefined (R240, log 9), other values are forwarded (log 12). -/
def execCcv4dq (ci : BitVec 3) (g1 g2 : Gen) : State → Out :=
  likeMov (forwardedSize (ci.setWidth 2)) .custom (.ccv4dq ci g1 g2) none (cpuType 4) g1 (slaveType 8) g2

/-- CCV2ci (R572). -/
def execCcv2ci (c : CSize) (i : Size) (g1 g2 : Gen) : State → Out :=
  likeMov i .custom (.ccv2ci c i g1 g2) none (slaveType c.bytes) g1 (cpuType i.bytes) g2

/-- CCV1ci (R571). -/
def execCcv1ci (c : CSize) (i : Size) (g1 g2 : Gen) : State → Out :=
  likeMov i .custom (.ccv1ci c i g1 g2) none (slaveType c.bytes) g1 (cpuType i.bytes) g2

/-- SCSR (R577). -/
def execScsr (ci : BitVec 3) (pad : BitVec 5) (g2 : Gen) : State → Out :=
  slaveStore .custom false (ci.setWidth 2) (.scsr ci pad g2) (padZero pad) g2

/-- CCV0ci (R570). -/
def execCcv0ci (c : CSize) (i : Size) (g1 g2 : Gen) : State → Out :=
  likeMov i .custom (.ccv0ci c i g1 g2) none (slaveType c.bytes) g1 (cpuType i.bytes) g2

/-- CCAL0c (R560). -/
def execCcal0 (c : CSize) (pad : BitVec 1) (g1 g2 : Gen) : State → Out :=
  likeAdd .custom (.ccal0 c pad g1 g2) (padZero pad) (slaveType c.bytes) g1 (slaveType c.bytes) g2

/-- CMOV0c (R564). -/
def execCmov0 (c : CSize) (pad : BitVec 1) (g1 g2 : Gen) : State → Out :=
  likeMov .d .custom (.cmov0 c pad g1 g2) (padZero pad) (slaveType c.bytes) g1 (slaveType c.bytes) g2

/-- CCMP0c (R568). -/
def execCcmp0 (c : CSize) (pad : BitVec 1) (g1 g2 : Gen) : State → Out :=
  likeCmp .custom (.ccmp0 c pad g1 g2) (padZero pad) (slaveType c.bytes) g1 (slaveType c.bytes) g2

/-- CCMP1c (R569). -/
def execCcmp1 (c : CSize) (pad : BitVec 1) (g1 g2 : Gen) : State → Out :=
  likeCmp .custom (.ccmp1 c pad g1 g2) (padZero pad) (slaveType c.bytes) g1 (slaveType c.bytes) g2

/-- CCAL1c (R561). -/
def execCcal1 (c : CSize) (pad : BitVec 1) (g1 g2 : Gen) : State → Out :=
  likeAdd .custom (.ccal1 c pad g1 g2) (padZero pad) (slaveType c.bytes) g1 (slaveType c.bytes) g2

/-- CMOV2c (R566). -/
def execCmov2 (c : CSize) (pad : BitVec 1) (g1 g2 : Gen) : State → Out :=
  likeMov .d .custom (.cmov2 c pad g1 g2) (padZero pad) (slaveType c.bytes) g1 (slaveType c.bytes) g2

/-- CCAL3c (R563). -/
def execCcal3 (c : CSize) (pad : BitVec 1) (g1 g2 : Gen) : State → Out :=
  likeAdd .custom (.ccal3 c pad g1 g2) (padZero pad) (slaveType c.bytes) g1 (slaveType c.bytes) g2

/-- CMOV3c (R567). -/
def execCmov3 (c : CSize) (pad : BitVec 1) (g1 g2 : Gen) : State → Out :=
  likeMov .d .custom (.cmov3 c pad g1 g2) (padZero pad) (slaveType c.bytes) g1 (slaveType c.bytes) g2

/-- CCAL2c (R562). -/
def execCcal2 (c : CSize) (pad : BitVec 1) (g1 g2 : Gen) : State → Out :=
  likeAdd .custom (.ccal2 c pad g1 g2) (padZero pad) (slaveType c.bytes) g1 (slaveType c.bytes) g2

/-- CMOV1c (R565). -/
def execCmov1 (c : CSize) (pad : BitVec 1) (g1 g2 : Gen) : State → Out :=
  likeMov .d .custom (.cmov1 c pad g1 g2) (padZero pad) (slaveType c.bytes) g1 (slaveType c.bytes) g2

/-- The unassigned opcodes of Format 15.5 (R228, R581): the note of each is open (U13, log 25). -/
def execSlot155 (op : BitVec 4) (c : CSize) (pad : BitVec 1) (g1 g2 : Gen) : State → Out :=
  slot (Config.note155 op) .custom (.slot155 op c pad g1 g2) (padZero pad) (slaveType c.bytes) g1 g2

end Sys2Proof.Machine
end

