-- ==== Sys2Proof/Machine/System.lean ====
section
/-! DEFINITION. Processor registers, configuration, cache invalidation and the rest (46_cpu_misc R480 to R497). -/

namespace Sys2Proof.Machine

/-- Whether LPRi and SPRi of a register are privileged (R480). -/
def aregPrivileged : AReg → Bool
  | .psr => true | .intbase => true | .usp => true | .cfg => true
  | .dcr => true | .bpc => true | .dsr => true | .car => true
  | .upsr => false | .fp => false | .sp => false | .sb => false | .mod => false
  | .res5 => false | .res6 => false | .res7 => false

/-- The operand length of a register (R482): B for UPSR, W for PSR and MOD, D for the others. -/
def aregSize : AReg → Size
  | .upsr => .b | .psr => .w | .mod => .w
  | .dcr => .d | .bpc => .d | .dsr => .d | .car => .d | .fp => .d | .sp => .d | .sb => .d | .usp => .d
  | .cfg => .d | .intbase => .d | .res5 => .d | .res6 => .d | .res7 => .d

/-- The reserved codes (R243). -/
def aregReserved : AReg → Bool
  | .res5 => true | .res6 => true | .res7 => true
  | .psr => false | .intbase => false | .usp => false | .cfg => false
  | .dcr => false | .bpc => false | .dsr => false | .car => false
  | .upsr => false | .fp => false | .sp => false | .sb => false | .mod => false

/-- What LPRi and SPRi refuse (U12, U24, logs 12 and 13). -/
def procRegRefusal (i : Size) (r : AReg) : Option Refusal :=
  if aregReserved r then some .reservedAreg else refuseIf (i != aregSize r) .procRegSize

/-- The bits of CFG that must be written as 0 (R40, R46). -/
def cfgReserved : Word := 0xFFFFE004#32

/-- CFG loaded (R42, R46): bits 7:4 read 1; a cache whose enable is cleared is invalidated (R44, R45). -/
def loadCfg (v : Word) (s : State) : State :=
  let c := (v &&& cfgMask) ||| 0x000000F0#32
  let s' := if c.getLsbD 11 then s else forgetCached (fun _ => true) s
  { s' with
    cfg := c
    icache := if c.getLsbD 11 then s.icache else icInvalidate s.icache
    dcache := if c.getLsbD 9 then s.dcache else dcInvalidate s.dcache }

/-- A dedicated register loaded (R482), and the serializing of R110. A 1 in a reserved bit of CFG is refused (U3, log
6). -/
def loadAReg (r : AReg) (v : Quad) : M Unit :=
  let w : Word := v.setWidth 32
  match r with
  | .upsr => do
    updPsr fun p => ((p &&& 0xFF00#16) ||| (v.setWidth 16 &&& 0x00FF#16)) &&& psrMask
    serialize
  | .fp => upd fun s => { s with fp := w }
  | .sp => upd fun s => s.setSp w
  | .sb => upd fun s => { s with sb := w }
  | .usp => upd fun s => { s with sp1 := w }
  | .mod => upd fun s => { s with mod := v.setWidth 16 }
  | .cfg => do
    stopIf (w &&& cfgReserved != 0#32) (.refuse .reservedCfgBit)
    drain
    upd (loadCfg w)
    serialize
  | .psr => do
    updPsr fun _ => v.setWidth 16 &&& psrMask
    serialize
  | .intbase => do
    upd fun s => { s with intbase := w }
    serialize
  | .dcr => do
    upd fun s => { s with dcr := w &&& dcrMask }
    serialize
  | .dsr => do
    upd fun s => { s with dsr := w &&& dsrMask }
    serialize
  | .car => do
    upd fun s => { s with car := w }
    serialize
  | .bpc => do
    upd fun s => { s with bpc := w }
    serialize
  | .res5 => pure ()
  | .res6 => pure ()
  | .res7 => pure ()

/-- Whether loading a register changes what controls the debug conditions (R682 Note 3, U25). -/
def aregControlsDebug : AReg → Bool
  | .bpc => true | .car => true | .dcr => true
  | .psr => false | .intbase => false | .usp => false | .cfg => false | .dsr => false
  | .upsr => false | .fp => false | .sp => false | .sb => false | .mod => false
  | .res5 => false | .res6 => false | .res7 => false

/-- LPRi (R482). -/
def execLpr (i : Size) (r : AReg) (g : Gen) : State → Out :=
  run { basic := 2, size := i, ops := [rd g i.bytes], privileged := aregPrivileged r, reserved := procRegRefusal i r } do
    let v ← readOp g i.bytes
    loadAReg r v
    return { debugLoaded := aregControlsDebug r }

/-- A register with bits that the manual reserves: they read as anything (U4, log 7). -/
def withReserved (v mask : Word) : M Word := do return (v &&& mask) ||| ((← drawWord) &&& ~~~mask)

/-- The value SPRi stores (R483). -/
def readAReg (r : AReg) : M Word := do
  let s ← getS
  match r with
  | .upsr => return (s.psr &&& 0x00FF#16).setWidth 32
  | .fp => return s.fp
  | .sp => return s.sp
  | .sb => return s.sb
  | .usp => return s.sp1
  | .mod => return s.mod.setWidth 32
  | .cfg => return s.cfg
  | .psr => return s.psr.setWidth 32
  | .intbase => return s.intbase
  | .dcr => withReserved s.dcr dcrMask
  | .dsr => withReserved s.dsr dsrMask
  | .car => return s.car
  | .bpc => return s.bpc
  | .res5 => return 0#32
  | .res6 => return 0#32
  | .res7 => return 0#32

/-- SPRi (R483): the register is read before the destination is written. -/
def execSpr (i : Size) (r : AReg) (g : Gen) : State → Out :=
  run { basic := 2, size := i, ops := [wr g i.bytes], privileged := aregPrivileged r, reserved := procRegRefusal i r } do
    let v ← readAReg r
    let l ← locGen g
    writeLoc i.bytes (v.setWidth 64) l
    return {}

/-- BISPSRi (R484); the word form serializes (R110). That BISPSRB does not, which R484 leaves open, is the model's choice
(log 52). -/
def execBispsr (i : Size) (g : Gen) : State → Out :=
  run { basic := 2, size := i, ops := [rd g i.bytes], privileged := i != .b, reserved := refuseIf (i == .d) .psrDouble } do
    let v ← readOp g i.bytes
    if i = .b then updPsr fun p => (p ||| (v.setWidth 16 &&& 0x00FF#16)) &&& psrMask
    else
      updPsr fun p => (p ||| v.setWidth 16) &&& psrMask
      serialize
    return {}

/-- BICPSRi (R485); the word form serializes (R110). That BICPSRB does not is the model's choice (log 52). -/
def execBicpsr (i : Size) (g : Gen) : State → Out :=
  run { basic := 2, size := i, ops := [rd g i.bytes], privileged := i != .b, reserved := refuseIf (i == .d) .psrDouble } do
    let v ← readOp g i.bytes
    if i = .b then updPsr fun p => (p &&& ~~~(v.setWidth 16 &&& 0x00FF#16)) &&& psrMask
    else
      updPsr fun p => (p &&& ~~~(v.setWidth 16)) &&& psrMask
      serialize
    return {}

/-- ADJSPi (R486). -/
def execAdjsp (i : Size) (g : Gen) : State → Out :=
  run { basic := 2, size := i, ops := [rd g i.bytes] } do
    let v ← readInt i g
    upd fun s => s.setSp (s.sp - v.signExtend 32)
    return {}

/-- SETCFG (R487): bits 12:8 become 0, so both caches are invalidated; not serializing. -/
def execSetcfg (i : Size) (short : BitVec 4) (pad : BitVec 6) : State → Out :=
  run { basic := 3, size := i, privileged := true,
        reserved := if short.getLsbD 2 then some .reservedCfgBit
                    else if i != .d then some .unconventionalSize else padZero pad } do
    upd (loadCfg (short.setWidth 32))
    return {}

/-- NOP (R490). -/
def execNop : State → Out := run { basic := 1 } (pure {})

/-- WAIT (R491). -/
def execWait : State → Out :=
  run { basic := 1 } do
    drain
    upd fun s => { s with op := .waiting }
    return {}

/-- DIA (R492): a branch to itself. -/
def execDia : State → Out :=
  run { basic := 1 } do
    serialize
    return { target := some (← getS).pc }

/-- The instruction cache invalidated, whole or one block, with what it may have been filled with (R125, R495). -/
def invalidateCode (all : Bool) (v : Word) (s : State) : State :=
  let s' := forgetCached (fun a => all || a.extractLsb' 4 28 == v.extractLsb' 4 28) s
  { s' with icache := if all then icInvalidate s.icache else icInvalidateBlock s.icache v }

/-- The data cache invalidated, whole or one block (R136, R495). -/
def invalidateData (all : Bool) (v : Word) (s : State) : State :=
  if all then { s with dcache := dcInvalidate s.dcache } else { s with dcache := dcInvalidateBlock s.dcache v }

/-- CINV (R495); its code and operand appear as two slave write cycles that no slave answers (R138, R529 (a)). That they
come after the operand is read and before the write buffer is drained is the model's choice (log 51). -/
def execCinv (a i d : Bool) (pad : BitVec 1) (g1 : Gen) : State → Out :=
  run { basic := 3, ops := [rd g1 4], privileged := true, reserved := padZero pad } do
    let v ← readOp g1 4
    slaveSend 0b11111#5 (broadcastWord (.cinv a i d pad g1))
    slaveSend 0b11101#5 (v.setWidth 32)
    drain
    if i then upd (invalidateCode a (v.setWidth 32)) else pure ()
    if d then upd (invalidateData a (v.setWidth 32)) else pure ()
    serialize
    return {}

/-- MOVSUi (R496): the write is a user-mode reference. -/
def execMovsu (i : Size) (g1 g2 : Gen) : State → Out :=
  run { basic := 3, size := i, ops := [ad g1, ad g2], privileged := true } do
    let a1 ← addrOp g1
    let a2 ← addrOp g2
    let v ← memRead a1 i.bytes
    writeRef ⟨stData, true, false, false⟩ a2 i.bytes v
    return {}

/-- MOVUSi (R497): the read is a user-mode reference. -/
def execMovus (i : Size) (g1 g2 : Gen) : State → Out :=
  run { basic := 3, size := i, ops := [ad g1, ad g2], privileged := true } do
    let a1 ← addrOp g1
    let a2 ← addrOp g2
    let v ← readRef ⟨stData, true, false, true⟩ a1 i.bytes
    memWrite a2 i.bytes v
    return {}

end Sys2Proof.Machine
end

