-- ==== Sys2Proof/Machine/Undefined.lean ====
section
/-! DEFINITION. The undefined parts of the opcode space: Trap (UND), condition 1 of R241. -/

namespace Sys2Proof.Machine

/-- An undefined instruction: Trap (UND), no data reference (R241, R242). That it has the `basic` bytes of its format
only, whatever its gen fields hold, is the model's choice for the formats that have gen fields (R186 does not say):
DESIGN CHOICE (log 53). -/
def undefined (basic : Nat) : State → Out := run { basic := basic } (stop (.trap .und))

/-- Format 5, no instruction (R217, R252). -/
def execUndef5 (_w : BitVec 16) : State → Out := undefined 3

/-- Format 6, ops 0100 and 1010 (R219). -/
def execUndef6 (_w : BitVec 16) : State → Out := undefined 3

/-- Format 7, op 1010 (R220). -/
def execUndef7 (_w : BitVec 16) : State → Out := undefined 3

/-- Format 8, first byte AE, bit 10 set, no instruction (R221). -/
def execUndef8sel (_w : BitVec 16) : State → Out := undefined 3

/-- Format 8, first byte EE, bit 10 set (R221). -/
def execUndef8op (_w : BitVec 16) : State → Out := undefined 3

/-- Format 10 (R223). -/
def execUndef10 (_w : BitVec 16) : State → Out := undefined 3

/-- Format 13 (R223). -/
def execUndef13 (_w : BitVec 16) : State → Out := undefined 3

/-- Format 14 but CINV (R237, D18). -/
def execUndef14 (_w : BitVec 16) : State → Out := undefined 3

/-- CATST0 (R580). -/
def execCatst0 (_w : BitVec 16) : State → Out := undefined 3

/-- CATST1 (R580). -/
def execCatst1 (_w : BitVec 16) : State → Out := undefined 3

/-- Format 15.0, ops 0100 to 1111 (R228). -/
def execUndef150 (_w : BitVec 16) : State → Out := undefined 3

/-- First byte 56 (R228). -/
def execUndef56 (_w : BitVec 16) : State → Out := undefined 3

/-- First byte 76 (R228). -/
def execUndef76 (_w : BitVec 16) : State → Out := undefined 3

/-- First byte 96 (R228). -/
def execUndef96 (_w : BitVec 16) : State → Out := undefined 3

/-- First byte D6 (R228). -/
def execUndefD6 (_w : BitVec 16) : State → Out := undefined 3

/-- First byte F6 (R228). -/
def execUndefF6 (_w : BitVec 16) : State → Out := undefined 3

/-- Format 16 (R223). -/
def execUndef16 (_w : BitVec 16) : State → Out := undefined 3

/-- Format 17 (R223). -/
def execUndef17 (_w : BitVec 16) : State → Out := undefined 3

/-- Format 18 (R223). -/
def execUndef18 (_w : BitVec 16) : State → Out := undefined 3

/-- Format 19 (R223). -/
def execUndef19 (_nnn : BitVec 3) : State → Out := undefined 1

/-- Format 3, ops 1000 and xxx1 (R215). -/
def execUndef3 (_gen : BitVec 5) (_op : BitVec 4) (_i : Size) : State → Out := undefined 2

end Sys2Proof.Machine
end

