-- ==== Sys2Proof/Machine/Dispatch.lean ====
section
/-! DEFINITION. The meaning of every instruction, one arm per constructor. -/

namespace Sys2Proof.Machine

def exec (i : Instr) (s : State) : Host.Outcome State Fault Refusal :=
  match i with
  | .beq d => Sys2Proof.Machine.execBeq d s
  | .bne d => Sys2Proof.Machine.execBne d s
  | .bcs d => Sys2Proof.Machine.execBcs d s
  | .bcc d => Sys2Proof.Machine.execBcc d s
  | .bhi d => Sys2Proof.Machine.execBhi d s
  | .bls d => Sys2Proof.Machine.execBls d s
  | .bgt d => Sys2Proof.Machine.execBgt d s
  | .ble d => Sys2Proof.Machine.execBle d s
  | .bfs d => Sys2Proof.Machine.execBfs d s
  | .bfc d => Sys2Proof.Machine.execBfc d s
  | .blo d => Sys2Proof.Machine.execBlo d s
  | .bhs d => Sys2Proof.Machine.execBhs d s
  | .blt d => Sys2Proof.Machine.execBlt d s
  | .bge d => Sys2Proof.Machine.execBge d s
  | .br d => Sys2Proof.Machine.execBr d s
  | .bnever d => Sys2Proof.Machine.execBnever d s
  | .bsr d => Sys2Proof.Machine.execBsr d s
  | .ret d => Sys2Proof.Machine.execRet d s
  | .cxp d => Sys2Proof.Machine.execCxp d s
  | .rxp d => Sys2Proof.Machine.execRxp d s
  | .rett d => Sys2Proof.Machine.execRett d s
  | .reti => Sys2Proof.Machine.execReti s
  | .save m => Sys2Proof.Machine.execSave m s
  | .restore m => Sys2Proof.Machine.execRestore m s
  | .enter m d => Sys2Proof.Machine.execEnter m d s
  | .exit m => Sys2Proof.Machine.execExit m s
  | .nop => Sys2Proof.Machine.execNop s
  | .wait => Sys2Proof.Machine.execWait s
  | .dia => Sys2Proof.Machine.execDia s
  | .flag => Sys2Proof.Machine.execFlag s
  | .svc => Sys2Proof.Machine.execSvc s
  | .bpt => Sys2Proof.Machine.execBpt s
  | .movst o => Sys2Proof.Machine.execMovst o s
  | .movs sz o => Sys2Proof.Machine.execMovs sz o s
  | .cmpst o => Sys2Proof.Machine.execCmpst o s
  | .cmps sz o => Sys2Proof.Machine.execCmps sz o s
  | .skpst o => Sys2Proof.Machine.execSkpst o s
  | .skps sz o => Sys2Proof.Machine.execSkps sz o s
  | .setcfg sz short pad => Sys2Proof.Machine.execSetcfg sz short pad s
  | .undef5 w => Sys2Proof.Machine.execUndef5 w s
  | .rot sz g1 g2 => Sys2Proof.Machine.execRot sz g1 g2 s
  | .ash sz g1 g2 => Sys2Proof.Machine.execAsh sz g1 g2 s
  | .cbit sz g1 g2 => Sys2Proof.Machine.execCbit sz g1 g2 s
  | .cbiti sz g1 g2 => Sys2Proof.Machine.execCbiti sz g1 g2 s
  | .lsh sz g1 g2 => Sys2Proof.Machine.execLsh sz g1 g2 s
  | .sbit sz g1 g2 => Sys2Proof.Machine.execSbit sz g1 g2 s
  | .sbiti sz g1 g2 => Sys2Proof.Machine.execSbiti sz g1 g2 s
  | .neg sz g1 g2 => Sys2Proof.Machine.execNeg sz g1 g2 s
  | .not sz g1 g2 => Sys2Proof.Machine.execNot sz g1 g2 s
  | .subp sz g1 g2 => Sys2Proof.Machine.execSubp sz g1 g2 s
  | .abs sz g1 g2 => Sys2Proof.Machine.execAbs sz g1 g2 s
  | .com sz g1 g2 => Sys2Proof.Machine.execCom sz g1 g2 s
  | .ibit sz g1 g2 => Sys2Proof.Machine.execIbit sz g1 g2 s
  | .addp sz g1 g2 => Sys2Proof.Machine.execAddp sz g1 g2 s
  | .undef6 w => Sys2Proof.Machine.execUndef6 w s
  | .movm sz g1 g2 d => Sys2Proof.Machine.execMovm sz g1 g2 d s
  | .cmpm sz g1 g2 d => Sys2Proof.Machine.execCmpm sz g1 g2 d s
  | .inss sz g1 g2 c => Sys2Proof.Machine.execInss sz g1 g2 c s
  | .exts sz g1 g2 c => Sys2Proof.Machine.execExts sz g1 g2 c s
  | .movxbw sz g1 g2 => Sys2Proof.Machine.execMovxbw sz g1 g2 s
  | .movzbw sz g1 g2 => Sys2Proof.Machine.execMovzbw sz g1 g2 s
  | .movzd sz g1 g2 => Sys2Proof.Machine.execMovzd sz g1 g2 s
  | .movxd sz g1 g2 => Sys2Proof.Machine.execMovxd sz g1 g2 s
  | .mul sz g1 g2 => Sys2Proof.Machine.execMul sz g1 g2 s
  | .mei sz g1 g2 => Sys2Proof.Machine.execMei sz g1 g2 s
  | .dei sz g1 g2 => Sys2Proof.Machine.execDei sz g1 g2 s
  | .quo sz g1 g2 => Sys2Proof.Machine.execQuo sz g1 g2 s
  | .rem sz g1 g2 => Sys2Proof.Machine.execRem sz g1 g2 s
  | .mod sz g1 g2 => Sys2Proof.Machine.execMod sz g1 g2 s
  | .div sz g1 g2 => Sys2Proof.Machine.execDiv sz g1 g2 s
  | .undef7 w => Sys2Proof.Machine.execUndef7 w s
  | .extf sz r g1 g2 d => Sys2Proof.Machine.execExtf sz r g1 g2 d s
  | .cvtp sz r g1 g2 => Sys2Proof.Machine.execCvtp sz r g1 g2 s
  | .ins sz r g1 g2 d => Sys2Proof.Machine.execIns sz r g1 g2 d s
  | .check sz r g1 g2 => Sys2Proof.Machine.execCheck sz r g1 g2 s
  | .index sz r g1 g2 => Sys2Proof.Machine.execIndex sz r g1 g2 s
  | .ffs sz pad g1 g2 => Sys2Proof.Machine.execFfs sz pad g1 g2 s
  | .movsu sz g1 g2 => Sys2Proof.Machine.execMovsu sz g1 g2 s
  | .movus sz g1 g2 => Sys2Proof.Machine.execMovus sz g1 g2 s
  | .undef8sel w => Sys2Proof.Machine.execUndef8sel w s
  | .undef8op w => Sys2Proof.Machine.execUndef8op w s
  | .movif f sz g1 g2 => Sys2Proof.Machine.execMovif f sz g1 g2 s
  | .lfsr fi g1 pad => Sys2Proof.Machine.execLfsr fi g1 pad s
  | .movlf fi g1 g2 => Sys2Proof.Machine.execMovlf fi g1 g2 s
  | .movfl fi g1 g2 => Sys2Proof.Machine.execMovfl fi g1 g2 s
  | .roundfi f sz g1 g2 => Sys2Proof.Machine.execRoundfi f sz g1 g2 s
  | .truncfi f sz g1 g2 => Sys2Proof.Machine.execTruncfi f sz g1 g2 s
  | .sfsr fi pad g2 => Sys2Proof.Machine.execSfsr fi pad g2 s
  | .floorfi f sz g1 g2 => Sys2Proof.Machine.execFloorfi f sz g1 g2 s
  | .undef10 w => Sys2Proof.Machine.execUndef10 w s
  | .addf f pad g1 g2 => Sys2Proof.Machine.execAddf f pad g1 g2 s
  | .movf f pad g1 g2 => Sys2Proof.Machine.execMovf f pad g1 g2 s
  | .cmpf f pad g1 g2 => Sys2Proof.Machine.execCmpf f pad g1 g2 s
  | .slot11at3 f pad g1 g2 => Sys2Proof.Machine.execSlot11at3 f pad g1 g2 s
  | .subf f pad g1 g2 => Sys2Proof.Machine.execSubf f pad g1 g2 s
  | .negf f pad g1 g2 => Sys2Proof.Machine.execNegf f pad g1 g2 s
  | .slot11at6 f pad g1 g2 => Sys2Proof.Machine.execSlot11at6 f pad g1 g2 s
  | .slot11at7 f pad g1 g2 => Sys2Proof.Machine.execSlot11at7 f pad g1 g2 s
  | .divf f pad g1 g2 => Sys2Proof.Machine.execDivf f pad g1 g2 s
  | .slot11at9 f pad g1 g2 => Sys2Proof.Machine.execSlot11at9 f pad g1 g2 s
  | .slot11at10 f pad g1 g2 => Sys2Proof.Machine.execSlot11at10 f pad g1 g2 s
  | .slot11at11 f pad g1 g2 => Sys2Proof.Machine.execSlot11at11 f pad g1 g2 s
  | .mulf f pad g1 g2 => Sys2Proof.Machine.execMulf f pad g1 g2 s
  | .absf f pad g1 g2 => Sys2Proof.Machine.execAbsf f pad g1 g2 s
  | .slot11at14 f pad g1 g2 => Sys2Proof.Machine.execSlot11at14 f pad g1 g2 s
  | .slot11at15 f pad g1 g2 => Sys2Proof.Machine.execSlot11at15 f pad g1 g2 s
  | .polyf f pad g1 g2 => Sys2Proof.Machine.execPolyf f pad g1 g2 s
  | .dotf f pad g1 g2 => Sys2Proof.Machine.execDotf f pad g1 g2 s
  | .scalbf f pad g1 g2 => Sys2Proof.Machine.execScalbf f pad g1 g2 s
  | .logbf f pad g1 g2 => Sys2Proof.Machine.execLogbf f pad g1 g2 s
  | .slot12 op f pad g1 g2 => Sys2Proof.Machine.execSlot12 op f pad g1 g2 s
  | .undef13 w => Sys2Proof.Machine.execUndef13 w s
  | .cinv a ic d pad g1 => Sys2Proof.Machine.execCinv a ic d pad g1 s
  | .undef14 w => Sys2Proof.Machine.execUndef14 w s
  | .catst0 w => Sys2Proof.Machine.execCatst0 w s
  | .catst1 w => Sys2Proof.Machine.execCatst1 w s
  | .lcr creg sz pad g1 => Sys2Proof.Machine.execLcr creg sz pad g1 s
  | .scr creg sz pad g1 => Sys2Proof.Machine.execScr creg sz pad g1 s
  | .undef150 w => Sys2Proof.Machine.execUndef150 w s
  | .ccv3ic c sz g1 g2 => Sys2Proof.Machine.execCcv3ic c sz g1 g2 s
  | .lcsr ci g1 pad => Sys2Proof.Machine.execLcsr ci g1 pad s
  | .ccv5qd ci g1 g2 => Sys2Proof.Machine.execCcv5qd ci g1 g2 s
  | .ccv4dq ci g1 g2 => Sys2Proof.Machine.execCcv4dq ci g1 g2 s
  | .ccv2ci c sz g1 g2 => Sys2Proof.Machine.execCcv2ci c sz g1 g2 s
  | .ccv1ci c sz g1 g2 => Sys2Proof.Machine.execCcv1ci c sz g1 g2 s
  | .scsr ci pad g2 => Sys2Proof.Machine.execScsr ci pad g2 s
  | .ccv0ci c sz g1 g2 => Sys2Proof.Machine.execCcv0ci c sz g1 g2 s
  | .ccal0 c pad g1 g2 => Sys2Proof.Machine.execCcal0 c pad g1 g2 s
  | .cmov0 c pad g1 g2 => Sys2Proof.Machine.execCmov0 c pad g1 g2 s
  | .ccmp0 c pad g1 g2 => Sys2Proof.Machine.execCcmp0 c pad g1 g2 s
  | .ccmp1 c pad g1 g2 => Sys2Proof.Machine.execCcmp1 c pad g1 g2 s
  | .ccal1 c pad g1 g2 => Sys2Proof.Machine.execCcal1 c pad g1 g2 s
  | .cmov2 c pad g1 g2 => Sys2Proof.Machine.execCmov2 c pad g1 g2 s
  | .ccal3 c pad g1 g2 => Sys2Proof.Machine.execCcal3 c pad g1 g2 s
  | .cmov3 c pad g1 g2 => Sys2Proof.Machine.execCmov3 c pad g1 g2 s
  | .ccal2 c pad g1 g2 => Sys2Proof.Machine.execCcal2 c pad g1 g2 s
  | .cmov1 c pad g1 g2 => Sys2Proof.Machine.execCmov1 c pad g1 g2 s
  | .slot155 op c pad g1 g2 => Sys2Proof.Machine.execSlot155 op c pad g1 g2 s
  | .undef56 w => Sys2Proof.Machine.execUndef56 w s
  | .undef76 w => Sys2Proof.Machine.execUndef76 w s
  | .undef96 w => Sys2Proof.Machine.execUndef96 w s
  | .undefD6 w => Sys2Proof.Machine.execUndefD6 w s
  | .undefF6 w => Sys2Proof.Machine.execUndefF6 w s
  | .undef16 w => Sys2Proof.Machine.execUndef16 w s
  | .undef17 w => Sys2Proof.Machine.execUndef17 w s
  | .undef18 w => Sys2Proof.Machine.execUndef18 w s
  | .undef19 nnn => Sys2Proof.Machine.execUndef19 nnn s
  | .addq sz q g => Sys2Proof.Machine.execAddq sz q g s
  | .cmpq sz q g => Sys2Proof.Machine.execCmpq sz q g s
  | .spr sz r g => Sys2Proof.Machine.execSpr sz r g s
  | .scond sz c g => Sys2Proof.Machine.execScond sz c g s
  | .acb sz q g d => Sys2Proof.Machine.execAcb sz q g d s
  | .movq sz q g => Sys2Proof.Machine.execMovq sz q g s
  | .lpr sz r g => Sys2Proof.Machine.execLpr sz r g s
  | .cxpd sz g => Sys2Proof.Machine.execCxpd sz g s
  | .bicpsr sz g => Sys2Proof.Machine.execBicpsr sz g s
  | .jump sz g => Sys2Proof.Machine.execJump sz g s
  | .bispsr sz g => Sys2Proof.Machine.execBispsr sz g s
  | .adjsp sz g => Sys2Proof.Machine.execAdjsp sz g s
  | .jsr sz g => Sys2Proof.Machine.execJsr sz g s
  | .casei sz g => Sys2Proof.Machine.execCasei sz g s
  | .undef3 gen op sz => Sys2Proof.Machine.execUndef3 gen op sz s
  | .add sz g1 g2 => Sys2Proof.Machine.execAdd sz g1 g2 s
  | .cmp sz g1 g2 => Sys2Proof.Machine.execCmp sz g1 g2 s
  | .bic sz g1 g2 => Sys2Proof.Machine.execBic sz g1 g2 s
  | .addc sz g1 g2 => Sys2Proof.Machine.execAddc sz g1 g2 s
  | .mov sz g1 g2 => Sys2Proof.Machine.execMov sz g1 g2 s
  | .or sz g1 g2 => Sys2Proof.Machine.execOr sz g1 g2 s
  | .sub sz g1 g2 => Sys2Proof.Machine.execSub sz g1 g2 s
  | .addr sz g1 g2 => Sys2Proof.Machine.execAddr sz g1 g2 s
  | .and sz g1 g2 => Sys2Proof.Machine.execAnd sz g1 g2 s
  | .subc sz g1 g2 => Sys2Proof.Machine.execSubc sz g1 g2 s
  | .tbit sz g1 g2 => Sys2Proof.Machine.execTbit sz g1 g2 s
  | .xor sz g1 g2 => Sys2Proof.Machine.execXor sz g1 g2 s

end Sys2Proof.Machine
end

