-- ==== Sys2Proof/Machine/Cycle.lean ====
section
/-! DEFINITION. What happens around an instruction: inputs, reset, the exceptions taken between instructions, and the
fetch (R690, R700, R645, R105). -/

namespace Sys2Proof.Machine

/-! ### Reset and inputs -/

/-- Reset recognized (R700, R70): stores that wait may be lost, pending exceptions, bus errors and latches go, R0 and
R1[15:0] keep PC and PSR unless a string instruction was terminated, whose results are free (R603); every register the
manual leaves undefined is free, both caches become invalid. That the bytes of a store whose bus cycle was to end in an
error are free is the model's choice (log 32). -/
def applyReset (s : State) : State :=
  let c := s.freeCount
  let w (k : Nat) : Word := Config.freeWord (c + k)
  let s1 : State := { s with
    regs := #v[if s.midString then w 0 else s.pc,
      if s.midString then w 1 else (w 1).extractLsb' 0 16 ++ s.psr, w 2, w 3, w 4, w 5, w 6, w 7]
    pc := 0#32
    sp0 := w 8
    sp1 := w 9
    fp := w 10
    sb := w 11
    intbase := w 12
    mod := (w 13).setWidth 16
    psr := 0#16
    cfg := 0x000000F0#32
    dcr := w 14 &&& dcrMask &&& ~~~0x00800000#32
    dsr := w 15 &&& dsrMask
    car := w 16
    bpc := w 17
    op := .reset
    nmiLatch := false
    dbgLatch := false
    dbgPending := false
    midString := false
    elementRefs := []
    afterException := false
    mem := undoStores s.platform s.mem (Config.freeNat c % 3) s.writeBuffer
    writeBuffer := []
    fetchUnit := .empty
    icache := icInvalidate s.icache
    dcache := dcInvalidate s.dcache
    freeCount := c + 32 }
  (lostSpans s s).foldl freeSpan s1

/-- A set of a cache without valid contents, or all of it. -/
def invalidateSets {α : Type} (f : α → α) (x : Vector α 32) : Option (BitVec 5) → Vector α 32
  | none => x.map f
  | some k =>
    let i : Fin 32 := k.toFin
    x.set i.val (f x[i]) i.isLt

/-- One request on the cache invalidation inputs, ignored unless CINVE is active (R9, R756; log 43). Bytes fetched
earlier may still lie in the instruction queue. -/
def applyInvalidation (s : State) (v : Invalidation) : State :=
  if v.cinve then
    let chosen (a : Word) : Bool := match v.set with | none => true | some k => setOf a == k.toFin
    let s' := if v.ic then forgetCached chosen s else s
    { s' with
      icache := if v.ic then invalidateSets Line.invalidate s.icache v.set else s.icache
      dcache := if v.dc then invalidateSets DataSet.invalidate s.dcache v.set else s.dcache }
  else s

/-- RST sampled (R58, R70, R700): reset is recognized when it goes low; while it stays low the CPU remains in the Reset
state, which it leaves when RST is high. -/
def sampleRst (low : Bool) (s : State) : State :=
  if low then (if s.op = .reset then s else applyReset s)
  else { s with op := if s.op = .reset then .executing else s.op }

/-- The next input applied (R9, R630, R632, R684, R703); without one the levels of RST and INT stay and no edge comes.
Within one entry the order is the model's choice: another master's writes, then the invalidation requests, then RST, then
the edges (log 41). Edges of NMI and DBG while RST is low are not remembered (R703). -/
def applyInput (s : State) : State :=
  match s.inputs with
  | [] => s
  | i :: rest =>
    let s1 := i.invalidate.foldl applyInvalidation (externalWrites { s with inputs := rest, intLow := i.int } i.writes)
    let s2 := sampleRst i.rst s1
    if i.rst then s2 else { s2 with nmiLatch := s2.nmiLatch || i.nmi, dbgLatch := s2.dbgLatch || i.dbg }

/-! ### Between instructions (R645, R690) -/

/-- Between the elements of a string instruction: the conditions noted so far committed (R421, R690). -/
def settle (s : State) : State :=
  if s.midString then commitRefs s.debugRegs s.elementRefs false { s with elementRefs := [] } else s

/-- The exceptions recognized both while executing and while waiting: Trap (DBG), NMI, INT, in that order. -/
def pendingEvent (s : State) : Option Out :=
  let s' := settle s
  if s'.dbgPending || s'.dbgLatch then some (takeDebug s s')
  else if s'.nmiLatch then some (takeInterrupt s true s')
  else if s'.intLow && s'.flagI then some (takeInterrupt s false s')
  else none

/-- Trap (DBG) for a PC match taken before the instruction, which the manual allows after an exception during the
previous instruction (R683 Note 4): a free choice (U31, log 29). -/
def earlyMatch (s : State) : Bool :=
  s.afterException && !s.midString && s.debugRegs.pcMatch s.flagU s.pc && s.debugRegs.trap && Config.freeBool s.freeCount

/-- Trap (TRC) before an instruction, or the early Trap (DBG); not inside a string instruction (R421). That the early
trap is checked last, after `pendingEvent` and Trap (TRC), is the model's choice: DESIGN CHOICE (R683, U31, log 29). -/
def pendingTrace (s : State) : Option Out :=
  if s.flagP && !s.midString then some (takeTrace s)
  else if earlyMatch s then
    some (takeDebug s s fun u => { u with dsr := setBit32 u.dsr 30 true, freeCount := u.freeCount + 1 })
  else none

/-! ### Fetching (R105, R121 to R124, R186) -/

/-- Whether an address is in the reserved top 8 Mbytes (R88, D11). -/
def reservedAddress (a : Word) : Bool := decide (0xFF800000 ≤ a.toNat)

/-- The slave set a first byte belongs to (R520). -/
def setOfByte (b : Byte) : Option SlaveSet :=
  if b == 0x3E#8 || b == 0xBE#8 || b == 0xFE#8 then some .float
  else if b == 0x16#8 || b == 0x36#8 || b == 0xB6#8 then some .custom
  else none

/-- How many bytes of an instruction of `len` bytes the CPU needs (R624): of a slave instruction that is disabled only
the three of its basic part (R521); of every other one all, also if it traps (DESIGN CHOICE, log 48). -/
def neededBytes (s : State) (first : Byte) (len : Nat) : Nat :=
  if s.slaveDisabled (setOfByte first) then 3 else len

/-- Whether fetching a byte makes a bus cycle that ends in a bus error (R624). -/
def fetchErrorAt (s : State) (a : Word) : Bool := (regionOf s a).readError && (icByte s a).isNone

/-- Whether one of `n` bytes fetched from an address does. -/
def fetchError (s : State) (a : Word) (n : Nat) : Bool := (views icLookup s a n).any fun e => fetchErrorAt e.2 e.1

/-- The state in which an instruction begins: P is a copy of T (R660), nothing has been referenced yet. -/
def begin (s : State) : State := { s with psr := setP s.flagT s.psr, refs := [] }

/-- The address on the bus in a fetch: that of the instruction's first byte when a sequence begins, else that of the
aligned double-word (R150). -/
def fetchAddress (status : BitVec 5) (a : Word) : Word := if status = stSequential then a &&& 0xFFFFFFFC#32 else a

/-- The fetches of double-words that no cache holds, the first with the status given, the others in sequence (R140). -/
def fetchCycles (status : BitVec 5) (s : State) : List Word → List Ref
  | [] => []
  | a :: rest =>
    let others := fetchCycles stSequential (icLookup s a) rest
    if (icByte s a).isSome then others else .fetch status (fetchAddress status a) s.flagU :: others

/-- The status of the first double-word fetched at the PC (R140). -/
def fetchStatus (s : State) : BitVec 5 :=
  if s.fetchUnit.sequence = .running then stSequential else stNonSequential

/-- The state after the fetch of `n` bytes: the instruction cache filled (R123), the board's answers used up. That a
fetch waits for no store, in the range of R108 either, is the model's choice (R105; log 32). -/
def fetched (n : Nat) (s : State) : State :=
  let s' := afterViews icLookup s s.pc n
  { s' with
    refs := s.refs ++ fetchCycles (fetchStatus s) s (dwordsOf s.pc n)
    fetchUnit := { s'.fetchUnit with sequence := .running }
    freeCount := s'.freeCount + maxLength }

/-- One instruction, or one element of a string instruction: fetch, decode, execute. A string instruction is fetched
and decoded again for every element (DESIGN CHOICE, log 33). -/
def runInstruction (s : State) : Out :=
  let s1 := begin s
  let bytes := fetchFrom s1 s1.pc maxLength
  match decode bytes with
  | .error .truncated => .refused .truncatedInstruction
  | .ok (i, rest) =>
    let n := neededBytes s1 (bytes.headD 0#8) (maxLength - rest.length)
    let s2 := fetched n s1
    if anyFrom reservedAddress s1.pc n then .refused .reservedFetch
    else if fetchError s1 s1.pc n then takeReadError s2 s2
    else exec i s2

/-- A step in the Executing-Instructions state (R690). -/
def executingStep (s : State) : Out :=
  reporting s (fun s' =>
    match pendingEvent s' with
    | some o => o
    | none =>
      match pendingTrace s' with
      | some o => o
      | none => runInstruction s') s

/-- A step in the Waiting-For-An-Interrupt state (R491, R690). -/
def waitingStep (s : State) : Out :=
  reporting s (fun s' =>
    match pendingEvent s' with
    | some o => o
    | none => .next s') s

/-- One step of the machine (R58): the input, then what the operating state does. In Reset and Halted nothing runs. -/
def cycle (s : State) : Out :=
  let s1 := applyInput s
  match s1.op with
  | .reset => .next s1
  | .executing => executingStep s1
  | .waiting => waitingStep s1
  | .halted => .next s1

/-! ### A word placed where the next step fetches -/

/-- Memory with bytes placed at consecutive addresses from outside. -/
def placeBytes (m : List Host.Cell) (a : Word) : List Byte → List Host.Cell
  | [] => m
  | b :: rest => placeBytes (memSet m a.toNat b) (a + 1#32) rest

/-- The state whose next step fetches and runs the instruction of a word (log 41): its bytes lie at PC in RAM, no
cache or prefetched byte hides them, nothing is pending. -/
def placeWord (s : State) (nbits w : Nat) : State :=
  { s with
    mem := placeBytes s.mem s.pc (tableBytes nbits w)
    platform := []
    fetchUnit := .empty
    writeBuffer := []
    busReplies := []
    icache := icInvalidate s.icache
    op := .executing
    psr := setP false s.psr
    nmiLatch := false
    dbgLatch := false
    dbgPending := false
    intLow := false
    midString := false
    elementRefs := []
    afterException := false
    inputs := [] }

end Sys2Proof.Machine
end

