-- ==== Sys2Proof/Machine/Step.lean ====
section
/-! DEFINITION. The step of the machine, and a word placed where it fetches. -/

namespace Sys2Proof.Machine

/-- One step (R690): `cycle`. -/
def step (s : State) : Host.Outcome State Fault Refusal := cycle s

/-- `s` with an instruction stored where the next step fetches: `placeWord`. -/
def State.withFetchWord (s : State) (nbits w : Nat) : State := placeWord s nbits w

end Sys2Proof.Machine
end

