-- ==== Sys2Proof/Safety.lean ====
section
/-! DEFINITION. What claims say about a step: that it goes on, the invariant every step keeps, and, for a state
whose memory is plain RAM, operands and results as pure functions of the state (40_operands R261 to R279). -/

namespace Sys2Proof.Machine

/-- An outcome that is a next state with a property. -/
def Goes (o : Out) (p : State → Prop) : Prop := ∃ t, o = .next t ∧ p t

/-- The invariant of the machine: memory is in canonical form; the unimplemented bits of PSR, CFG, DCR and DSR are 0
and CFG[7:4] are 1 (R33, R42, R48, R49); the write buffer holds at most two operands (R101). -/
def State.inv (s : State) : Bool :=
  Memory.wf s.mem && s.psr &&& ~~~psrMask == 0#16
    && s.cfg &&& ~~~cfgMask == 0x000000F0#32
    && s.dcr &&& ~~~dcrMask == 0#32 && s.dsr &&& ~~~dsrMask == 0#32
    && decide (s.writeBuffer.length ≤ 2)

/-- The board is RAM everywhere and answers every reference without an error (R89, D5), and the data cache is off
(R131). -/
def State.ram (s : State) : Bool :=
  s.platform.all (fun r => r.kind == .ram && !r.readError && !r.writeError) && !s.cfgDC && s.busReplies.isEmpty

/-- The same, and no earlier write has ended in a bus error that is still to be recognized (R625). -/
def State.plain (s : State) : Bool := s.ram && !s.pendingError

/-- What an instruction leaves as `u` says: every register, memory, the caches, the latches and inputs of `t` are
those of `u`. Left out are the bookkeeping of the model (`freeCount`, `refs`, `elementRefs`), the write buffer and
what fetching carries on (bytes it may still see old, whether it goes on in sequence); DSR and the pending Trap (DBG), which debug conditions may set (R682, R683), are those of `u` unless `s`, the
state before, has debugging enabled (DCR.DEN), and even then only DSR[31], DSR[30] and DSR[28] may differ. -/
def Agrees (s u t : State) : Prop :=
  { t with
    writeBuffer := u.writeBuffer, fetchUnit := u.fetchUnit, freeCount := u.freeCount, refs := u.refs,
    elementRefs := u.elementRefs,
    dsr := u.dsr, dbgPending := u.dbgPending } = u
  ∧ t.dsr &&& 0x2FFFFFFF#32 = u.dsr &&& 0x2FFFFFFF#32
  ∧ (s.dcr.getLsbD 23 = false → t.dsr = u.dsr ∧ t.dbgPending = u.dbgPending)

/-- A state whose instruction has completed, with the PC at `pc` (R23). -/
def State.retired (u : State) (pc : Word) : State := { u with pc := pc, midString := false, afterException := false }

/-- The address after an instruction: past all its encoded bytes (R186). -/
def nextPc (i : Instr) (s : State) : Word := s.pc + BitVec.ofNat 32 (encode i).length

/-- The instruction completes and leaves what `u` says, the PC after it. -/
def Completes (i : Instr) (s u : State) : Prop := Goes (exec i s) (Agrees s (u.retired (nextPc i s)))

/-- The instruction completes, leaves what `u` says and transfers control to `pc`. -/
def CompletesAt (i : Instr) (s u : State) (pc : Word) : Prop := Goes (exec i s) (Agrees s (u.retired pc))

/-! ### Memory -/

/-- The `n` bytes of memory at an address as a number (R82). -/
def State.load (s : State) (a : Word) (n : Nat) : Quad := ofBytes (bytesFrom (fun x => memGet s.mem x.toNat) a n)

/-- The double-word of memory at an address. -/
def State.load32 (s : State) (a : Word) : Word := (s.load a 4).setWidth 32

/-- Memory with the low `n` bytes of a value at an address (R83). -/
def State.put (s : State) (a : Word) (n : Nat) (v : Quad) : State :=
  { s with mem := storeBytes [] s.mem a (toBytes n v) }

/-- The selected stack pushed (R26). -/
def State.pushed (s : State) (n : Nat) (v : Quad) : State :=
  let s' := s.setSp (s.sp - BitVec.ofNat 32 n)
  s'.put s'.sp n v

/-- The selected stack popped (R26). -/
def State.popped (s : State) (n : Nat) : State := s.setSp (s.sp + BitVec.ofNat 32 n)

/-! ### Operands -/

/-- The operand of a mode (R270 to R278). -/
def modeLoc (s : State) : Mode → Loc
  | .reg n => .reg n
  | .regRel n d => .mem (s.reg n + d.value)
  | .memRel r d1 d2 => .mem (s.load32 (s.ptrReg r + d1.value) + d2.value)
  | .imm v => .imm v
  | .abs d => .mem d.value
  | .ext d1 d2 => .mem (s.load32 (s.load32 (s.modAddr + 4#32) + 4#32 * d1.value) + d2.value)
  | .tos => .tos
  | .space r d => .mem (s.spaceReg r + d.value)

/-- The operand of a general addressing mode (R261, R279); the illegal forms have none. -/
def genLoc (s : State) : Gen → Loc
  | .mode m => modeLoc s m
  | .idx sc n m => .mem (indexBase s (modeLoc s m) + sc.factor * s.reg n)
  | .reserved => .imm 0#64
  | .idxBad _ _ _ => .imm 0#64

/-- The `n` bytes of an operand (R262). -/
def locValue (s : State) (n : Nat) : Loc → Quad
  | .reg k => lowBytes n ((s.reg k).setWidth 64)
  | .imm v => lowBytes n v
  | .mem a => s.load a n
  | .tos => s.load s.sp n

/-- The state after an operand of class read was read: TOS is popped (R277). -/
def afterRead (s : State) (n : Nat) : Loc → State
  | .tos => s.popped n
  | .reg _ => s
  | .imm _ => s
  | .mem _ => s

/-- The low `n` bytes of a register written (R21, R263). -/
def State.regPut (s : State) (n : Nat) (k : RegNum) (v : Quad) : State := s.setReg k (mergeLow n (s.reg k) v)

/-- The state after an operand of class write is written: TOS is pushed (R263, R277). -/
def written (s : State) (n : Nat) (v : Quad) : Loc → State
  | .reg k => s.regPut n k v
  | .imm _ => s
  | .mem a => s.put a n v
  | .tos => s.pushed n v

/-- The state after an operand of class rmw is written: TOS is written in place (R277). -/
def rewritten (s : State) (n : Nat) (v : Quad) : Loc → State
  | .reg k => s.regPut n k v
  | .imm _ => s
  | .mem a => s.put a n v
  | .tos => s.put s.sp n v

/-- A general operand that its class allows (R241) and whose displacements are not the reserved E0 form (R201). -/
def legal (a : Access) (g : Gen) : Bool := !(Operand.illegal ⟨g, a, 0⟩) && !genReservedDisp g

/-- The value of gen1 as an operand of class read. -/
def src (s : State) (n : Nat) (g : Gen) : Quad := locValue s n (genLoc s g)

/-- The state in which gen2 is located: gen1 has been read (R264). -/
def afterSrc (s : State) (n : Nat) (g : Gen) : State := afterRead s n (genLoc s g)

/-- The address of an operand of class addr: of memory, or the stack pointer (R265). -/
def addrOf (s : State) (g : Gen) : Option Word :=
  match genLoc s g with
  | .mem a => some a
  | .tos => some s.sp
  | .reg _ => none
  | .imm _ => none

/-- gen1 of `n1` bytes read, gen2 of `n2` bytes written with `f` of it. -/
def moved (s : State) (n1 : Nat) (g1 : Gen) (n2 : Nat) (g2 : Gen) (f : Quad → Quad) : State :=
  let s1 := afterSrc s n1 g1
  written s1 n2 (f (src s n1 g1)) (genLoc s1 g2)

/-- The old value of gen2 when gen1 of `n1` bytes is read first. -/
def dest (s : State) (n1 : Nat) (g1 : Gen) (n2 : Nat) (g2 : Gen) : Quad :=
  let s1 := afterSrc s n1 g1
  locValue s1 n2 (genLoc s1 g2)

/-- gen1 of `n1` bytes read, gen2 of `n2` bytes replaced by `v`. -/
def replaced (s : State) (n1 : Nat) (g1 : Gen) (n2 : Nat) (g2 : Gen) (v : Quad) : State :=
  let s1 := afterSrc s n1 g1
  rewritten s1 n2 v (genLoc s1 g2)

/-- A state with another PSR. -/
def State.withPsr (s : State) (f : Half → Half) : State := { s with psr := f s.psr }

/-! ### Bits, bit fields and double-length operands -/

/-- The base of a bit or bit field (R268). -/
def baseOf (s : State) (g : Gen) : Base :=
  match genLoc s g with
  | .mem a => .mem a
  | .tos => .mem s.sp
  | .reg n => .reg n
  | .imm _ => .mem 0#32

/-- Whether bits `o` to `o + len - 1` lie inside their base: memory has no end (R268, R400). -/
def insideBase (b : Base) (o : Int) (len : Nat) : Bool :=
  match b with
  | .reg _ => insideRegister o len
  | .mem _ => true

/-- The bit at a signed offset from a base (R370). -/
def bitAt (s : State) (o : Int) : Base → Bool
  | .reg k => (s.reg k).getLsbD o.toNat
  | .mem a => (memGet s.mem (bitByte a o).toNat).getLsbD (bitPlace o)

/-- That bit changed by `f` (R372 to R376). -/
def bitPut (s : State) (o : Int) (f : Bool → Bool) : Base → State
  | .reg k => s.setReg k (setBit32 (s.reg k) o.toNat (f ((s.reg k).getLsbD o.toNat)))
  | .mem a => s.put (bitByte a o) 1 (byteWithBit (s.load (bitByte a o) 1) (bitPlace o) f)

/-- A bit field (R400). -/
def fieldAt (s : State) (o : Int) (len : Nat) : Base → Quad
  | .reg k => ((s.reg k).setWidth 64 >>> o.toNat) &&& lowMask len
  | .mem a => (s.load (a + BitVec.ofInt 32 (o.fdiv 8)) (fieldBytes o len) >>> (o.fmod 8).toNat) &&& lowMask len

/-- A bit field replaced (R400). -/
def fieldPut (s : State) (o : Int) (len : Nat) (v : Quad) : Base → State
  | .reg k => s.setReg k ((insertBits ((s.reg k).setWidth 64) o.toNat len v).setWidth 32)
  | .mem a =>
    let x := a + BitVec.ofInt 32 (o.fdiv 8)
    s.put x (fieldBytes o len) (insertBits (s.load x (fieldBytes o len)) (o.fmod 8).toNat len v)

/-- The halves of a double-length operand (R266). -/
def doubleValue (s : State) (n : Nat) : Loc → Quad × Quad
  | .reg k => (lowBytes n ((s.reg k).setWidth 64), lowBytes n ((s.reg (k + 1#3)).setWidth 64))
  | .imm v => (v, 0#64)
  | .mem a => (s.load a n, s.load (a + BitVec.ofNat 32 n) n)
  | .tos => (s.load s.sp n, s.load (s.sp + BitVec.ofNat 32 n) n)

/-- The halves of a double-length operand replaced (R266). -/
def doublePut (s : State) (n : Nat) (lo hi : Quad) : Loc → State
  | .reg k => (s.regPut n k lo).regPut n (k + 1#3) hi
  | .imm _ => s
  | .mem a => (s.put a n lo).put (a + BitVec.ofNat 32 n) n hi
  | .tos => (s.put s.sp n lo).put (s.sp + BitVec.ofNat 32 n) n hi

/-! ### Blocks, strings and register lists -/

/-- `k` elements of `n` bytes copied one after the other (R302). -/
def blockMoved (n : Nat) (a1 a2 : Word) : Nat → State → State
  | 0, s => s
  | k + 1, s =>
    blockMoved n (a1 + BitVec.ofNat 32 n) (a2 + BitVec.ofNat 32 n) k (s.put a2 n (s.load a1 n))

/-- The first unequal pair among `k` elements of `n` bytes (R339). -/
def firstUnequal (s : State) (n : Nat) (a1 a2 : Word) : Nat → Option (Quad × Quad)
  | 0 => none
  | k + 1 =>
    if s.load a1 n = s.load a2 n then firstUnequal s n (a1 + BitVec.ofNat 32 n) (a2 + BitVec.ofNat 32 n) k
    else some (s.load a1 n, s.load a2 n)

/-- What a string instruction does with an element. -/
inductive StringKind where
  | move | compare | skip
  deriving DecidableEq, Repr

/-- The pointers advanced and the count lowered (R420). -/
def advanced (s : State) (n : Nat) (back two : Bool) : State :=
  let s1 := s.setReg 1#3 (s.reg 1#3 + stride n back)
  let s2 := if two then s1.setReg 2#3 (s1.reg 2#3 + stride n back) else s1
  s2.setReg 0#3 (s.reg 0#3 - 1#32)

/-- One step of a string instruction (R420 to R427): it ends with the PC at `next`, or stays with elements left. -/
def stringState (k : StringKind) (i : Size) (translate : Bool) (o : StrOpts) (next : Word) (s : State) : State :=
  let n := i.bytes
  let s0 := (s.withPsr (setF false)).withPsr (if k = .compare then setZNL true false false else id)
  let e0 := s.load (s.reg 1#3) n
  let e := if translate then s.load (s.reg 3#3 + e0.setWidth 32) 1 else e0
  let e2 := s.load (s.reg 2#3) n
  if s.reg 0#3 = 0#32 then s0.retired next
  else if ends o.uw (e == lowBytes n ((s.reg 4#3).setWidth 64)) then (s0.withPsr (setF true)).retired next
  else if k = .compare ∧ e ≠ e2 then
    (s0.withPsr (compareFlags (e.setWidth i.bits) (e2.setWidth i.bits))).retired next
  else
    let s1 := advanced (if k = .move then s0.put (s.reg 2#3) n e else s0) n o.back (k != .skip)
    if s.reg 0#3 = 1#32 then s1.retired next else { s1 with midString := true }

/-- The registers of a list pushed (R461). -/
def listPushed (m : Byte) : List RegNum → State → State
  | [], s => s
  | n :: rest, s => listPushed m rest (if m.getLsbD n.toNat then s.pushed 4 ((s.reg n).setWidth 64) else s)

/-- The registers of a list popped (R462). -/
def listPopped (m : Byte) : List RegNum → State → State
  | [], s => s
  | n :: rest, s =>
    listPopped m rest (if m.getLsbD n.toNat then (s.popped 4).setReg (7#3 - n) (s.load32 s.sp) else s)

/-! ### Calls, exceptions and returns -/

/-- A module entered: MOD and SB (R450). -/
def moduleEntered (s : State) (m : Half) : State := { s with mod := m, sb := s.load32 (m.setWidth 32) }

/-- A call through a procedure descriptor (R451, R452). -/
def called (s : State) (desc next : Word) : State :=
  moduleEntered ((s.pushed 4 (s.mod.setWidth 64)).pushed 4 (next.setWidth 64)) (desc.setWidth 16)

/-- Where a call through a procedure descriptor goes, when `s` is the state after its pushes (R451). -/
def calledPc (s : State) (desc : Word) : Word := s.load32 ((desc &&& 0xFFFF#32) + 8#32) + (desc >>> 16)

/-- The first half of an exception's frame pushed on SP0 (R641, R642): the PSR copy, and MOD unless Direct-Exception
mode is on. -/
def entryPushed (clearI : Bool) (copy : Half) (s : State) : State :=
  let s1 := ({ s with psr := entryPsr clearI copy } : State).pushed 2 (copy.setWidth 64)
  if s.cfgDE then s1.setSp (s1.sp - 2#32) else s1.pushed 2 (s.mod.setWidth 64)

/-- An exception entered (R641, R642, R644): the frame pushed on SP0, the handler found through the dispatch table. -/
def entryState (clearI : Bool) (vector : Byte) (copy : Half) (ret : Word) (s : State) : State :=
  let s2 := entryPushed clearI copy s
  let entry := s2.load32 (s.intbase + 4#32 * vector.setWidth 32)
  let s3 : State :=
    if s.cfgDE then { s2 with pc := entry }
    else
      { s2 with
        mod := entry.setWidth 16
        pc := s2.load32 ((entry &&& 0xFFFF#32) + 8#32) + (entry >>> 16)
        sb := s2.load32 (entry &&& 0xFFFF#32) }
  { s3.pushed 4 (ret.setWidth 64) with op := .executing, midString := false, afterException := true }

/-- The instruction takes a trap: nothing of it remains but the entry (R602, R620). -/
def Traps (i : Instr) (s : State) (k : TrapKind) : Prop :=
  Goes (exec i s) (Agrees s (entryState false k.vector (if k.clearsP then setP false s.psr else s.psr) s.pc s))

/-- The instruction completes, leaves what `u` says, the PC after it, and takes Trap (OVF) (R622). -/
def Overflows (i : Instr) (s u : State) : Prop :=
  Goes (exec i s) (Agrees s (entryState false 13#8 u.psr (nextPc i s) (u.retired (nextPc i s))))

/-- With `ov` an overflow, an instruction completes, or, if PSR.V was set, takes Trap (OVF) (R340). -/
def CompletesUnless (ov : Bool) (i : Instr) (s u : State) : Prop :=
  if ov && s.flagV then Overflows i s u else Completes i s u

/-- What a return from an exception leaves (R458, R650), but for the PC. -/
def returned (s : State) (d : Word) : State :=
  let s1 := (s.popped 8).withPsr fun _ => (s.load (s.sp + 6#32) 2).setWidth 16 &&& psrMask
  let s2 := if s.cfgDE then s1 else moduleEntered s1 ((s.load (s.sp + 4#32) 2).setWidth 16)
  s2.setSp (s2.sp + d)

/-! ### Processor registers and slaves -/

/-- A dedicated register loaded (R482). Of CFG bits 7:4 stay 1 and the implemented bits come from the source (R42, R46); a
cache whose enable becomes 0 loses its contents (R44, R45). -/
def aregPut (r : AReg) (v : Quad) (s : State) : State :=
  let w : Word := v.setWidth 32
  match r with
  | .upsr => s.withPsr fun p => ((p &&& 0xFF00#16) ||| (v.setWidth 16 &&& 0x00FF#16)) &&& psrMask
  | .psr => s.withPsr fun _ => v.setWidth 16 &&& psrMask
  | .fp => { s with fp := w }
  | .sp => s.setSp w
  | .sb => { s with sb := w }
  | .usp => { s with sp1 := w }
  | .mod => { s with mod := v.setWidth 16 }
  | .cfg =>
    { s with
      cfg := (w &&& 0x1F0B#32) ||| 0xF0#32
      icache := if w.getLsbD 11 then s.icache else icInvalidate s.icache
      dcache := if w.getLsbD 9 then s.dcache else dcInvalidate s.dcache }
  | .intbase => { s with intbase := w }
  | .dcr => { s with dcr := w &&& dcrMask }
  | .dsr => { s with dsr := w &&& dsrMask }
  | .car => { s with car := w }
  | .bpc => { s with bpc := w }
  | .res5 => s
  | .res6 => s
  | .res7 => s

/-- The bits of a dedicated register that the manual gives (R483): all that SPRi stores but the reserved bits of DCR
and DSR. -/
def aregValue (s : State) : AReg → Word
  | .upsr => (s.psr &&& 0x00FF#16).setWidth 32
  | .psr => s.psr.setWidth 32
  | .fp => s.fp
  | .sp => s.sp
  | .sb => s.sb
  | .usp => s.sp1
  | .mod => s.mod.setWidth 32
  | .cfg => s.cfg
  | .intbase => s.intbase
  | .dcr => s.dcr &&& dcrMask
  | .dsr => s.dsr &&& dsrMask
  | .car => s.car
  | .bpc => s.bpc
  | .res5 => 0#32
  | .res6 => 0#32
  | .res7 => 0#32

/-- The reserved bits of a dedicated register, whose value read is free (U4, log 7). -/
def aregFree : AReg → Word
  | .dcr => ~~~dcrMask
  | .dsr => ~~~dsrMask
  | .upsr => 0#32 | .psr => 0#32 | .fp => 0#32 | .sp => 0#32 | .sb => 0#32 | .usp => 0#32 | .mod => 0#32
  | .cfg => 0#32 | .intbase => 0#32 | .car => 0#32 | .bpc => 0#32 | .res5 => 0#32 | .res6 => 0#32 | .res7 => 0#32

/-- A register that exists, with the size code of its own length (R482). -/
def aregOk (i : Size) (r : AReg) : Bool := !aregReserved r && i == aregSize r

/-- The result of `n` bytes that a slave's two double-words are (R525). -/
def slaveResult (n : Nat) (lo hi : Word) : Quad := if n = 8 then hi ++ lo else lo.setWidth 64

/-- The slave cycles among references (R146). -/
def slaveCycles (rs : List Ref) : List Ref :=
  rs.filter fun r => match r with
    | .mem _ _ _ _ _ _ _ => false
    | .fetch _ _ _ => false
    | .slaveWrite _ _ => true
    | .slaveRead _ _ => true

/-- The instruction completes, leaves what `u` says, and has had exactly these slave cycles, in this order. -/
def CompletesSending (i : Instr) (s u : State) (cycles : List Ref) : Prop :=
  Goes (exec i s) fun t =>
    Agrees s (u.retired (nextPc i s)) t ∧ slaveCycles (t.refs.drop s.refs.length) = cycles

/-- The double-words of an operand that are sent (R523): none for a slave register. -/
def sentWords (t : SlaveType) (g : Gen) (v : Quad) : List Word :=
  if inSlaveRegister t g then [] else operandWords t.bytes v

/-- The cycles that start a slave instruction (R522, R523): the broadcast, then the operands' double-words. -/
def sendCycles (i : Instr) (ws : List Word) : List Ref :=
  .slaveWrite 0b11111#5 (broadcastWord i) :: ws.map (.slaveWrite 0b11101#5)

/-- The cycles that read a result (R525): none for a slave register. -/
def resultCycles (t : SlaveType) (g : Gen) (lo hi : Word) : List Ref :=
  if inSlaveRegister t g then []
  else .slaveRead 0b11101#5 lo :: (if t.bytes = 8 then [.slaveRead 0b11101#5 hi] else [])

/-- The trap is taken without any reference for the instruction itself (R521, R627, R628): no slave cycle, and the
first reference is the push of the PSR copy. -/
def TrapsAtOnce (i : Instr) (s : State) (k : TrapKind) : Prop :=
  let copy := if k.clearsP then setP false s.psr else s.psr
  Goes (exec i s) fun t =>
    Agrees s (entryState false k.vector copy s.pc s) t
    ∧ slaveCycles (t.refs.drop s.refs.length) = []
    ∧ (t.refs.drop s.refs.length).head? = some (.mem stData (s.sp0 - 2#32) 2 true false false (copy.setWidth 64))

/-- What a slave instruction leaves whose gen2 is written with the slave's result, unless it is a slave register. -/
def slaveMoved (s : State) (t1 : SlaveType) (g1 : Gen) (t2 : SlaveType) (g2 : Gen) (lo hi : Word)
    (rest : List SlaveReply) : State :=
  let s1 : State := { afterSrc s t1.bytes g1 with slaveReplies := rest }
  if inSlaveRegister t2 g2 then s1 else written s1 t2.bytes (slaveResult t2.bytes lo hi) (genLoc s1 g2)

/-- The same with gen2 read and written at one place. -/
def slaveReplaced (s : State) (t1 : SlaveType) (g1 : Gen) (t2 : SlaveType) (g2 : Gen) (lo hi : Word)
    (rest : List SlaveReply) : State :=
  let s1 : State := { afterSrc s t1.bytes g1 with slaveReplies := rest }
  if inSlaveRegister t2 g2 then s1 else rewritten s1 t2.bytes (slaveResult t2.bytes lo hi) (genLoc s1 g2)

/-- The same with gen2 read only and no result for the CPU. -/
def slaveCompared (s : State) (t1 : SlaveType) (g1 : Gen) (t2 : SlaveType) (g2 : Gen) (rest : List SlaveReply) : State :=
  let s1 := afterSrc s t1.bytes g1
  { afterSrc s1 t2.bytes g2 with slaveReplies := rest }

end Sys2Proof.Machine
end

