-- ==== Sys2Proof/Certificates/Slice0/Obligations.lean ====
section
/-! DEFINITION. The statements for the provers. `Goes`, `Agrees`, `Completes` and the pure functions that results are
written in stand in Sys2Proof/Safety.lean; every statement about an instruction holds for every addressing mode its
operands may have. The model's choices that stand inside the shared functions: operand forms of Scaled Index and TOS
(log 4) and the order in which operands are located, read and written (log 34) in every statement about an instruction
with operands; the unwritten word of the frame in Direct-Exception mode (log 28) in every statement that enters an
exception (`entryState`, `Traps`, `Overflows`); operand classes and flag lists from general knowledge (log 24). -/

open Sys2Proof Sys2Proof.Machine

/-! ### Encoding -/

/-- Decoding an encoded well-formed instruction gives it back, whatever bytes follow (R180 to R228). The opcode values
are those the spec marks as general knowledge (log 26); the bytes of an undefined opcode: log 53. -/
def Obligations.DecodeOfEncode : Prop :=
  ∀ (i : Instr) (rest : List Byte),
    i.wf = true → decode (encode i ++ rest) = .ok (i, rest)

/-- Every byte the decoder takes is in the instruction it answers: encoding gives the bytes back (R180 to R228). Opcode
values: log 26; bytes of an undefined opcode: log 53. -/
def Obligations.EncodeOfDecode : Prop :=
  ∀ (bs rest : List Byte) (i : Instr),
    decode bs = .ok (i, rest) → encode i ++ rest = bs

/-- The decode tree covers every byte string: 25 bytes always hold an instruction, of 1 to 25 bytes (R182, R186). Opcode
values: log 26; bytes of an undefined opcode: log 53. -/
def Obligations.DecodeTotal : Prop :=
  ∀ (bs : List Byte),
    25 ≤ bs.length → ∃ i rest, decode bs = .ok (i, rest) ∧ 1 ≤ (encode i).length ∧ (encode i).length ≤ 25

/-- Words written out from the encoding tables: `ADDD R1, R0` (R216), `MOVW $1234, 4(R1)` (R206), `BR +63` (R200),
`MOVB 1(R1)[R2:W], 2(R3)[R4:D]` (R202), `CINV [A,D,I], R3` (R227). Opcode values: log 26. -/
def Obligations.DecodeWords : Prop :=
  decode [0x03#8, 0x08#8] = .ok (.add .d (.mode (.reg 1#3)) (.mode (.reg 0#3)), [])
  ∧ decode [0x55#8, 0xA2#8, 0x12#8, 0x34#8, 0x04#8]
      = .ok (.mov .w (.mode (.imm 0x1234#64)) (.mode (.regRel 1#3 (.d7 4#7))), [])
  ∧ decode [0xEA#8, 0x3F#8] = .ok (.br (.d7 63#7), [])
  ∧ decode [0x94#8, 0xEF#8, 0x4A#8, 0x5C#8, 0x01#8, 0x02#8]
      = .ok (.mov .b (.idx .w 2#3 (.regRel 1#3 (.d7 1#7))) (.idx .d 4#3 (.regRel 3#3 (.d7 2#7))), [])
  ∧ decode [0x1E#8, 0xA7#8, 0x1B#8] = .ok (.cinv true true true 0#1 (.mode (.reg 3#3)), [])

/-! ### The step -/

/-- When the bytes fetched at the PC decode to an instruction, nothing is pending before it, and none of the bytes
it needs lies in the reserved region or ends in a bus error, the step is `exec` of that instruction, with P a copy of
T (R660), no reference but the fetch, which is accounted for (R690). That each instruction is fetched for itself: log
47; which bytes of it are needed: log 48. -/
def Obligations.StepRunsDecoded : Prop :=
  ∀ (s : State) (i : Instr) (rest : List Byte),
    s.inputs = [] → s.op = .executing → s.pendingError = false → pendingEvent s = none → pendingTrace s = none →
    let bytes := fetchFrom (begin s) s.pc maxLength
    let n := neededBytes (begin s) (bytes.headD 0#8) (maxLength - rest.length)
    decode bytes = .ok (i, rest) → anyFrom reservedAddress s.pc n = false → fetchError (begin s) s.pc n = false →
    step s = exec i (fetched n (begin s))

/-- When memory holds the encoding of a well-formed instruction at the PC, in a plain state with the instruction cache
off and no overwritten byte prefetched, and nothing is pending, the step is `exec` of that instruction (R690), with its
double-words fetched by the status codes of R140, at the addresses of R150. That each instruction is fetched for itself: log 47; which bytes of
it: log 48. -/
def Obligations.StepRunsMemory : Prop :=
  ∀ (s : State) (i : Instr),
    s.plain = true → s.cfgIC = false → s.fetchUnit.prefetched = [] → s.inputs = [] → s.op = .executing →
    pendingEvent s = none → pendingTrace s = none → i.wf = true →
    bytesFrom (fun x => memGet s.mem x.toNat) s.pc (encode i).length = encode i →
    anyFrom reservedAddress s.pc (encode i).length = false →
    let n := neededBytes s ((encode i).headD 0#8) (encode i).length
    step s = exec i { s with
      psr := setP s.flagT s.psr
      refs := (dwordsOf s.pc n).mapIdx fun k x =>
        if k = 0 ∧ s.fetchUnit.sequence ≠ .running then .fetch 0b01001#5 x s.flagU
        else .fetch 0b01000#5 (x &&& 0xFFFFFFFC#32) s.flagU
      fetchUnit := { s.fetchUnit with sequence := .running }
      freeCount := s.freeCount + 25 }

/-- Every step keeps the invariant: the unimplemented bits of PSR (R33; which are implemented: log 5), of CFG (R42; log
6), of DCR and DSR (R48, R49; log 7), at most two stores in the write buffer (R101; its form: log 32), and the
canonical form of memory, which with its default is the model's choice (log 1). -/
def Obligations.StepKeepsInvariant : Prop :=
  ∀ (s t : State),
    s.inv = true → step s = .next t → t.inv = true

/-- The invariant holds at reset. The registers without a reset value hold 0, the model's choice (log 2). -/
def Obligations.ResetHasInvariant : Prop := State.reset.inv = true

/-- The reset values the manual gives (R70): PC, the implemented bits of PSR, CFG, DCR.DEN; both caches hold nothing
valid; the CPU executes. Bits 7:4 of CFG (R42): loading ignores them, by LPRi and by SETCFG, and leaves them 1 (where no
reserved bit is loaded as 1, U3: log 6); SPRi always stores them as 1, and after reset stores 000000F0. -/
def Obligations.ResetValues : Prop :=
  ∀ (s : State) (k j : RegNum) (m : Mode) (short : BitVec 4),
  State.reset.pc = 0#32 ∧ State.reset.psr = 0#16 ∧ State.reset.cfg = 0x000000F0#32
  ∧ State.reset.dcr.getLsbD 23 = false ∧ State.reset.op = .executing
  ∧ State.reset.nmiLatch = false ∧ State.reset.dbgLatch = false ∧ State.reset.dbgPending = false
  ∧ (∀ a : Word, icByte { State.reset with cfg := 0xFFFFFFFF#32 } a = none ∧ dcByte State.reset a = none)
  ∧ (s.plain = true → s.flagU = false →
      (s.reg k &&& 0xFFFFE004#32 = 0#32 →
        Goes (exec (.lpr .d .cfg (.mode (.reg k))) s) fun t => t.cfg &&& 0xF0#32 = 0xF0#32)
      ∧ (short.getLsbD 2 = false → Goes (exec (.setcfg .d short 0#6) s) fun t => t.cfg &&& 0xF0#32 = 0xF0#32)
      ∧ (s.reg k &&& 0xFFFFFF0F#32 = s.reg j &&& 0xFFFFFF0F#32 →
          exec (.lpr .d .cfg (.mode (.reg k))) s = exec (.lpr .d .cfg (.mode (.reg j))) s)
      ∧ (s.inv = true → legal .write (.mode m) = true → s.cfg &&& 0xF0#32 = 0xF0#32
          ∧ Completes (.spr .d .cfg (.mode m)) s (written s 4 (s.cfg.setWidth 64) (genLoc s (.mode m)))))
  ∧ (legal .write (.mode m) = true →
      Completes (.spr .d .cfg (.mode m)) State.reset (written State.reset 4 0x000000F0#64 (genLoc State.reset (.mode m))))

/-- RST (R58, R70, R700). When it is recognized, whatever the state, PC and PSR become 0, CFG becomes 000000F0, DCR.DEN
is cleared, pending exceptions and bus errors are gone, nothing is valid in either cache; R0 gets the PC and R1[15:0]
the PSR of that moment, unless a string instruction was terminated. While RST stays low, or no more input comes (log
41), the CPU remains in Reset and no register changes, nor does memory but by another master's writes; when RST is high
it executes. Until the first fetch after a reset nothing has been prefetched, so that what another master writes before
it is what is fetched (R702). -/
def Obligations.ResetInput : Prop :=
  ∀ (s : State),
    (∀ x rest, s.inputs = x :: rest → x.rst = true → s.op ≠ .reset →
      Goes (step s) fun t =>
        (s.midString = false → t.reg 0#3 = s.pc ∧ (t.reg 1#3).setWidth 16 = s.psr)
        ∧ t.pc = 0#32 ∧ t.psr = 0#16 ∧ t.cfg = 0x000000F0#32
        ∧ t.dcr.getLsbD 23 = false ∧ t.op = .reset ∧ t.nmiLatch = false ∧ t.dbgLatch = false ∧ t.dbgPending = false
        ∧ t.midString = false ∧ t.writeBuffer = [] ∧ t.inputs = rest ∧ t.fetchUnit = .empty
        ∧ ∀ a : Word, icByte { t with cfg := 0xFFFFFFFF#32 } a = none ∧ dcByte t a = none)
    ∧ (s.op = .reset → s.inputs = [] → step s = .next s)
    ∧ (∀ x rest, s.inputs = x :: rest → s.op = .reset →
      (x.rst = true → Goes (step s) fun t => t.op = .reset ∧ t.inputs = rest ∧ t.regs = s.regs ∧ t.pc = s.pc
        ∧ t.psr = s.psr ∧ t.cfg = s.cfg ∧ t.sp0 = s.sp0 ∧ t.sp1 = s.sp1 ∧ t.intbase = s.intbase ∧ t.fp = s.fp
        ∧ t.sb = s.sb ∧ t.mod = s.mod ∧ t.dcr = s.dcr ∧ t.dsr = s.dsr ∧ t.car = s.car ∧ t.bpc = s.bpc
        ∧ t.mem = (externalWrites s x.writes).mem)
      ∧ (x.rst = false → (applyInput s).op = .executing ∧ step s = executingStep (applyInput s)))
    ∧ State.reset.fetchUnit = .empty
    ∧ (s.fetchUnit = .empty → ∀ (ws : List (Word × Byte)) (a : Word) (k : Nat),
        (externalWrites s ws).fetchUnit = .empty
        ∧ (icByte s a = none → fetchByte (externalWrites s ws) k a = busByte (externalWrites s ws) a))

/-- What comes before an instruction (R690): a write that ended in a bus error, where it is recognized now; then Trap
(DBG), NMI, INT and Trap (TRC), in this order (R645); an INT needs PSR.I (R630). Between the elements of a string
instruction the debug conditions it has met are committed first (`settle`), and no Trap (TRC) is taken (R421). A waiting
CPU with none of the first pending waits on (R491); a halted one stays halted (R626). That the moment at which a failed
write is recognized is free is log 27's. That the early Trap (DBG) of R683 Note 4 comes after all of these is log 29's.
-/
def Obligations.EventPriority : Prop :=
  ∀ (s : State),
    s.inputs = [] →
    (s.op = .halted → step s = .next s)
    ∧ (s.op = .executing ∨ s.op = .waiting → s.pendingError = true → Config.freeBool s.freeCount = true →
        step s = takeWriteError s { s with freeCount := s.freeCount + 1 })
    ∧ (s.pendingError = false →
      (s.op = .waiting → pendingEvent s = none → step s = .next s)
      ∧ (s.op = .executing ∨ s.op = .waiting →
        ((settle s).dbgPending = true ∨ s.dbgLatch = true → step s = takeDebug s (settle s))
        ∧ ((settle s).dbgPending = false → s.dbgLatch = false →
          (s.nmiLatch = true → step s = takeInterrupt s true (settle s))
          ∧ (s.nmiLatch = false →
            (s.intLow = true → s.flagI = true → step s = takeInterrupt s false (settle s))
            ∧ (s.intLow = false ∨ s.flagI = false →
                s.op = .executing → s.flagP = true → s.midString = false → step s = takeTrace s)))))

/-! ### Exceptions -/

/-- Taking an exception (R641, R644): the frame, the dispatch-table entry and, in the modular mode, MOD, SB and the
program base. That the reserved word of the frame is left unwritten in Direct-Exception mode is the model's choice (U30,
log 28). -/
def Obligations.ExceptionEntry : Prop :=
  ∀ (clearP clearI : Bool) (vector : Byte) (ret : Word) (s : State),
    s.plain = true →
    Goes (takeException clearP clearI (pure vector) ret s)
      (Agrees s (entryState clearI vector (if clearP then setP false s.psr else s.psr) ret s))

/-- The frame (R642): SP0 drops by 8; the return address lies at SP0, the saved PSR at SP0 + 6 and, unless
Direct-Exception mode is on, MOD at SP0 + 4; memory outside the 8 bytes is as before. Bits 3 and 15:12 of the copy: log
5; the reserved word: log 28. -/
def Obligations.ExceptionFrame : Prop :=
  ∀ (clearP clearI : Bool) (vector : Byte) (ret : Word) (s : State),
    s.plain = true → Memory.wf s.mem = true →
    Goes (takeException clearP clearI (pure vector) ret s) fun t =>
      t.sp0 = s.sp0 - 8#32 ∧ t.sp1 = s.sp1 ∧ t.regs = s.regs
      ∧ t.load32 t.sp0 = ret
      ∧ (t.load (t.sp0 + 6#32) 2).setWidth 16 = (if clearP then setP false s.psr else s.psr)
      ∧ (s.cfgDE = false → (t.load (t.sp0 + 4#32) 2).setWidth 16 = s.mod)
      ∧ ∀ a : Word, 8 ≤ (a - t.sp0).toNat → memGet t.mem a.toNat = memGet s.mem a.toNat

/-- A bus error at any reference of an exception entry halts the CPU (R626): the pushes of PSR, MOD and the return
address, the dispatch-table entry, the module descriptor; the acknowledge cycles of NMI and INT, the cascade-table entry
and the cascaded unit's cycle; and the End of Interrupt cycles of RETI, master and cascaded. A halted CPU runs nothing
and takes nothing until RST. On a board of RAM whose regions end some cycles in an error, with the data cache off. The
answers of the interrupt control units are data of the state, and the cascade-table read of RETI is taken with its ICU
cycles (log 35). What the registers hold in Halted is the model's choice (log 54). -/
def Obligations.FatalBusError : Prop :=
  ∀ (clearP clearI : Bool) (vector b : Byte) (ret : Word) (rest : List Byte) (s : State),
    let badWrite := anyFrom fun x => (regionAt s.platform x).writeError
    let badRead := anyFrom fun x => (regionAt s.platform x).readError
    let halts (o : Out) : Prop := Goes o fun t => t.op = .halted
    (s.platform.all (·.kind == .ram) = true → s.cfgDC = false → s.busReplies = [] → s.pendingError = false →
      (let u := entryPushed clearI (if clearP then setP false s.psr else s.psr) s
        let slot := s.intbase + 4#32 * vector.setWidth 32
        let m := u.load32 slot &&& 0xFFFF#32
        badWrite (s.sp0 - 2#32) 2 = true ∨ badWrite (s.sp0 - 8#32) 4 = true ∨ badRead slot 4 = true
          ∨ (s.cfgDE = false ∧ (badWrite (s.sp0 - 4#32) 2 = true ∨ badRead (m + 8#32) 4 = true ∨ badRead m 4 = true)) →
        halts (takeException clearP clearI (pure vector) ret s))
      ∧ (badRead 0xFFFFFF00#32 1 = true → halts (takeInterrupt s true s))
      ∧ (badRead 0xFFFFFE00#32 1 = true → halts (takeInterrupt s false s) ∧ (s.flagU = false → halts (exec .reti s)))
      ∧ (let slot := s.intbase + 4#32 * b.signExtend 32
        s.cfgI = true → s.icuReplies = b :: rest → b.extractLsb' 4 4 = 0xF#4 →
        badRead slot 4 = true ∨ badRead (s.load32 slot) 1 = true →
        halts (takeInterrupt s false s) ∧ (s.flagU = false → halts (exec .reti s))))
    ∧ (s.op = .halted → (s.inputs = [] → step s = .next s)
      ∧ ∀ x xs, s.inputs = x :: xs → x.rst = false → Goes (step s) fun t =>
          t.op = .halted ∧ t.inputs = xs ∧ t.regs = s.regs ∧ t.pc = s.pc ∧ t.psr = s.psr ∧ t.sp0 = s.sp0)

/-- SVC, BPT, FLAG with F set, and the undefined instructions end in their trap with the return address that of the
instruction itself (R454, R455, R456, R241, R620). Which opcode values are undefined is log 26's, for Format 14 log
37's; the bytes they take: log 53. -/
def Obligations.TrapInstructions : Prop :=
  ∀ (s : State) (w : BitVec 16) (nnn : BitVec 3) (gen : BitVec 5) (op : BitVec 4) (i : Size),
    s.plain = true →
    Traps .svc s .svc ∧ Traps .bpt s .bpt ∧ (s.flagF = true → Traps .flag s .flg)
    ∧ ∀ u ∈ [Instr.undef5 w, .undef6 w, .undef7 w, .undef8sel w, .undef8op w, .undef10 w, .undef13 w, .undef14 w,
        .catst0 w, .catst1 w, .undef150 w, .undef56 w, .undef76 w, .undef96 w, .undefD6 w, .undefF6 w, .undef16 w,
        .undef17 w, .undef18 w, .undef19 nnn, .undef3 gen op i], Traps u s .und

/-- The privileged instructions end in Trap (ILL) in user mode (R480), whatever their operands, as long as each is one that
its class allows (R242): an Immediate may be a source, and the two operands of MOVSUi and MOVUSi are independent. -/
def Obligations.PrivilegedInUserMode : Prop :=
  ∀ (s : State) (i : Size) (r : AReg) (d : Disp) (g1 g2 : Gen) (short : BitVec 4) (pad : BitVec 6) (a b c : Bool)
    (p : BitVec 1) (creg : BitVec 4) (ci : BitVec 2),
    s.plain = true → s.flagU = true → i ≠ .u →
    let allowed (x : Access) (g : Gen) : Prop := Operand.illegal ⟨g, x, 0⟩ = false
    (∀ u ∈ [Instr.reti, .rett d, .setcfg i short pad], Traps u s .ill)
    ∧ (allowed .read g1 →
      Traps (.cinv a b c p g1) s .ill
      ∧ (aregPrivileged r = true → Traps (.lpr i r g1) s .ill)
      ∧ (i ≠ .b → Traps (.bispsr i g1) s .ill ∧ Traps (.bicpsr i g1) s .ill)
      ∧ (s.cfgC = true → ci ≠ 2#2 → Traps (.lcr creg ci p g1) s .ill))
    ∧ (allowed .write g1 →
      (aregPrivileged r = true → Traps (.spr i r g1) s .ill)
      ∧ (s.cfgC = true → ci ≠ 2#2 → Traps (.scr creg ci p g1) s .ill))
    ∧ (allowed .addr g1 → allowed .addr g2 → Traps (.movsu i g1 g2) s .ill ∧ Traps (.movus i g1 g2) s .ill)

/-- An operand that its class does not allow ends in Trap (UND) (R241), in either mode, so before Trap (ILL) (R242 Note
3), and whether or not a slave set is enabled: the reserved mode, Scaled Index over a base it may not have, and Immediate
anywhere but as a source. So does, in the three-byte formats, the integer length 10, which the spec lets a model refuse
or trap (R240, D10): log 9, and log 12 for the slave forms without a length. The class of Format 11 and 12 opcodes
without a name: log 25. -/
def Obligations.IllegalOperandTraps : Prop :=
  ∀ (s : State) (i : Size) (g1 g2 : Gen) (q : BitVec 4) (d : Disp) (r : RegNum) (f : FSize) (c : CSize) (o : StrOpts)
    (short : BitVec 4) (pad : BitVec 6) (p : BitVec 1) (p5 : BitVec 5) (x : BitVec 3) (k : Byte) (n3 : BitVec 3)
    (a : AReg) (cond : Cond) (ca ci cd : Bool) (ii : BitVec 2),
    s.plain = true →
    let bad (g : Gen) : Prop := Operand.illegal ⟨g, .read, 0⟩ = true
    let badDest (g : Gen) : Prop := Operand.illegal ⟨g, .write, 0⟩ = true
    (bad g1 ∨ badDest g2 →
      ∀ u ∈ [Instr.add i g1 g2, .mov i g1 g2, .and i g1 g2, .or i g1 g2, .bic i g1 g2, .xor i g1 g2, .sub i g1 g2,
        .addc i g1 g2, .subc i g1 g2, .neg i g1 g2, .abs i g1 g2, .com i g1 g2, .not i g1 g2, .mul i g1 g2,
        .quo i g1 g2, .rem i g1 g2, .div i g1 g2, .mod i g1 g2, .mei i g1 g2, .dei i g1 g2, .addp i g1 g2,
        .subp i g1 g2, .lsh i g1 g2, .ash i g1 g2, .rot i g1 g2, .tbit i g1 g2, .sbit i g1 g2, .cbit i g1 g2,
        .ibit i g1 g2, .sbiti i g1 g2, .cbiti i g1 g2, .movxd i g1 g2, .movzd i g1 g2, .movxbw i g1 g2, .movzbw i g1 g2,
        .ins i r g1 g2 d, .inss i g1 g2 k, .ffs i n3 g1 g2, .movif f i g1 g2, .movlf x g1 g2, .movfl x g1 g2,
        .roundfi f i g1 g2, .truncfi f i g1 g2, .floorfi f i g1 g2, .addf f p g1 g2, .movf f p g1 g2, .subf f p g1 g2,
        .negf f p g1 g2, .divf f p g1 g2, .mulf f p g1 g2, .absf f p g1 g2, .scalbf f p g1 g2, .logbf f p g1 g2,
        .slot11at6 f p g1 g2, .slot11at7 f p g1 g2, .slot11at9 f p g1 g2, .slot11at11 f p g1 g2, .slot11at14 f p g1 g2,
        .slot11at15 f p g1 g2, .ccv3ic c i g1 g2, .ccv2ci c i g1 g2, .ccv1ci c i g1 g2, .ccv0ci c i g1 g2,
        .ccv5qd x g1 g2, .ccv4dq x g1 g2, .ccal0 c p g1 g2, .ccal1 c p g1 g2, .ccal2 c p g1 g2, .ccal3 c p g1 g2,
        .cmov0 c p g1 g2, .cmov1 c p g1 g2, .cmov2 c p g1 g2, .cmov3 c p g1 g2], Traps u s .und)
    ∧ (bad g1 ∨ bad g2 →
      ∀ u ∈ [Instr.cmp i g1 g2, .index i r g1 g2, .cmpf f p g1 g2, .polyf f p g1 g2, .dotf f p g1 g2,
        .slot11at3 f p g1 g2, .slot11at10 f p g1 g2, .slot12 q f p g1 g2, .ccmp0 c p g1 g2, .ccmp1 c p g1 g2,
        .slot155 q c p g1 g2], Traps u s .und)
    ∧ (badDest g1 ∨ badDest g2 →
      ∀ u ∈ [Instr.addr i g1 g2, .movm i g1 g2 d, .cmpm i g1 g2 d, .extf i r g1 g2 d, .exts i g1 g2 k, .cvtp i r g1 g2,
        .movsu i g1 g2, .movus i g1 g2], Traps u s .und)
    ∧ (badDest g1 ∨ bad g2 → Traps (.check i r g1 g2) s .und)
    ∧ (bad g1 →
      ∀ u ∈ [Instr.cmpq i q g1, .casei i g1, .adjsp i g1, .lpr i a g1, .bispsr i g1, .bicpsr i g1, .cinv ca ci cd p g1,
        .lfsr x g1 p5, .lcsr x g1 p5, .lcr q ii p g1], Traps u s .und)
    ∧ (badDest g1 →
      ∀ u ∈ [Instr.jump i g1, .jsr i g1, .cxpd i g1, .movq i q g1, .addq i q g1, .acb i q g1 d, .scond i cond g1,
        .spr i a g1, .sfsr x p5 g1, .scsr x p5 g1, .scr q ii p g1], Traps u s .und)
    ∧ (x.setWidth 2 = 2#2 →
      ∀ u ∈ [Instr.neg .u g1 g2, .abs .u g1 g2, .com .u g1 g2, .not .u g1 g2, .mul .u g1 g2, .quo .u g1 g2,
        .rem .u g1 g2, .div .u g1 g2, .mod .u g1 g2, .mei .u g1 g2, .dei .u g1 g2, .addp .u g1 g2, .subp .u g1 g2,
        .lsh .u g1 g2, .ash .u g1 g2, .rot .u g1 g2, .sbit .u g1 g2, .cbit .u g1 g2, .ibit .u g1 g2, .sbiti .u g1 g2,
        .cbiti .u g1 g2, .movm .u g1 g2 d, .cmpm .u g1 g2 d, .movxd .u g1 g2, .movzd .u g1 g2, .movxbw .u g1 g2,
        .movzbw .u g1 g2, .ffs .u n3 g1 g2, .extf .u r g1 g2 d, .ins .u r g1 g2 d, .exts .u g1 g2 k, .inss .u g1 g2 k,
        .cvtp .u r g1 g2, .check .u r g1 g2, .index .u r g1 g2, .movs .u o, .cmps .u o, .skps .u o,
        .setcfg .u short pad, .movsu .u g1 g2, .movus .u g1 g2, .movif f .u g1 g2, .roundfi f .u g1 g2,
        .truncfi f .u g1 g2, .floorfi f .u g1 g2, .ccv0ci c .u g1 g2, .ccv1ci c .u g1 g2, .ccv2ci c .u g1 g2,
        .ccv3ic c .u g1 g2, .lfsr x g1 p5, .sfsr x p5 g1, .movfl x g1 g2, .lcsr x g1 p5, .scsr x p5 g1,
        .ccv4dq x g1 g2, .lcr q 2#2 p g1, .scr q 2#2 p g1], Traps u s .und)

/-- Where the spec gives an encoding no effect the model refuses it by name (U3, U12, U14, U15, U16, U24, D9, D11). The
refusals are the model's (logs 6, 10 to 15, 19, and 39 for a fetch from the reserved region), by the choices of
93_implementation_defined. -/
def Obligations.ReservedEncodingsRefused : Prop :=
  ∀ (s : State) (i : Size) (g1 g2 : Gen) (r : RegNum) (o : StrOpts) (d : Disp) (k : RegNum) (a : AReg),
    s.plain = true → s.flagU = false → i ≠ .u → legal .read g1 = true → legal .write g2 = true → legal .addr g2 = true →
    (o.uw = .unassigned → exec (.movs i o) s = .refused .stringOption)
    ∧ (i ≠ .d → exec (.jump i g2) s = .refused .unconventionalSize ∧ exec (.jsr i g2) s = .refused .unconventionalSize
        ∧ exec (.cxpd i g2) s = .refused .unconventionalSize ∧ exec (.addr i g2 g2) s = .refused .unconventionalSize
        ∧ exec (.cvtp i r g2 g2) s = .refused .unconventionalSize)
    ∧ exec (.jump .d (.mode (.reg k))) s = .refused .registerAddress
    ∧ exec (.jsr .d (.mode (.reg k))) s = .refused .registerAddress
    ∧ exec (.cxpd .d (.mode (.reg k))) s = .refused .registerAddress
    ∧ exec (.addr .d (.mode (.reg k)) g2) s = .refused .registerAddress
    ∧ exec (.cvtp .d r (.mode (.reg k)) g2) s = .refused .registerAddress
    ∧ exec (.check i r (.mode (.reg k)) g1) s = .refused .registerAddress
    ∧ exec (.movsu i (.mode (.reg k)) g2) s = .refused .registerAddress
    ∧ exec (.movus i (.mode (.reg k)) g2) s = .refused .registerAddress
    ∧ (blockOk i d = false → d.wf = true → exec (.movm i g2 g2 d) s = .refused .blockLength
        ∧ exec (.cmpm i g2 g2 d) s = .refused .blockLength)
    ∧ (k.getLsbD 0 = true → exec (.mei i g1 (.mode (.reg k))) s = .refused .oddPair
        ∧ exec (.dei i g1 (.mode (.reg k))) s = .refused .oddPair)
    ∧ (lengthOk d = false → d.wf = true → exec (.extf i r g2 g2 d) s = .refused .fieldLength
        ∧ exec (.ins i r g1 g2 d) s = .refused .fieldLength)
    ∧ (aregReserved a = true → exec (.lpr i a g1) s = .refused .reservedAreg ∧ exec (.spr i a g2) s = .refused .reservedAreg)
    ∧ (aregReserved a = false → i ≠ aregSize a → exec (.lpr i a g1) s = .refused .procRegSize
        ∧ exec (.spr i a g2) s = .refused .procRegSize)
    ∧ exec (.bispsr .d g1) s = .refused .psrDouble ∧ exec (.bicpsr .d g1) s = .refused .psrDouble
    ∧ (d.wf = false → exec (.br d) s = .refused .reservedDisplacement)
    ∧ (∀ short : BitVec 4, short.getLsbD 2 = true → exec (.setcfg .d short 0#6) s = .refused .reservedCfgBit)
    ∧ (s.reg k &&& 0xFFFFE004#32 ≠ 0#32 → exec (.lpr .d .cfg (.mode (.reg k))) s = .refused .reservedCfgBit)
    ∧ (i ≠ .b → exec (.movxbw i g1 g2) s = .refused .extendSize ∧ exec (.movzbw i g1 g2) s = .refused .extendSize)
    ∧ exec (.movxd .d g1 g2) s = .refused .extendSize ∧ exec (.movzd .d g1 g2) s = .refused .extendSize
    ∧ (∀ (f : FSize) (c : CSize) (short : BitVec 4) (p6 : BitVec 6) (p5 : BitVec 5) (p3 : BitVec 3) (x : BitVec 3)
        (m n b : Bool), short.getLsbD 2 = false → p6 ≠ 0#6 → p5 ≠ 0#5 → p3 ≠ 0#3 → x.setWidth 2 ≠ 2#2 →
      exec (.setcfg .d short p6) s = .refused .dontCareBits ∧ exec (.cinv m n b 1#1 g1) s = .refused .dontCareBits
      ∧ exec (.movst { o with uw := .none, pad := p6 }) s = .refused .dontCareBits
      ∧ (legal .rmw g2 = true → exec (.ffs i p3 g1 g2) s = .refused .dontCareBits)
      ∧ (s.cfgF = true → exec (.lfsr x g1 p5) s = .refused .dontCareBits
        ∧ exec (.movf f 1#1 g1 g2) s = .refused .dontCareBits)
      ∧ (s.cfgC = true → exec (.scsr x p5 g2) s = .refused .dontCareBits
        ∧ exec (.cmov0 c 1#1 g1 g2) s = .refused .dontCareBits))
    ∧ (s.inputs = [] → s.op = .executing → pendingEvent s = none → pendingTrace s = none →
        reservedAddress s.pc = true → step s = .refused .reservedFetch)

/-- A read that ends in a bus error suspends the instruction and takes the restartable bus error, vector 11, with the
instruction's own address and P clear (R624): loading a register leaves it as it was; a TOS operand popped before the
error, or itself in error, leaves the stack pointer as it was (R624 step 1); an instruction of which a needed byte
cannot be fetched has done nothing; a string element whose source or, in a comparison, second source cannot be read
leaves the registers with the progress of the elements before it, in the middle of the instruction too (R604). On a
board of RAM with the data cache off that makes no error in the reads of the entry, modular or direct (R641). Which bytes
are needed: log 48; one element a step: log 33. -/
def Obligations.RestartableBusError : Prop :=
  ∀ (s : State) (i : Size) (d : Disp) (k : RegNum) (o : StrOpts) (v : Instr) (rest : List Byte),
    s.platform.all (fun r => r.kind == .ram && !r.writeError) = true → s.cfgDC = false → s.busReplies = [] →
    s.pendingError = false → i ≠ .u → d.wf = true → o.uw ≠ .unassigned → o.pad = 0#6 →
    let err (a : Word) (n : Nat) : Prop := anyFrom (fun x => (regionAt s.platform x).readError) a n = true
    let u := entryPushed true (setP false s.psr) s
    let m := u.load32 (s.intbase + 44#32) &&& 0xFFFF#32
    ¬err (s.intbase + 44#32) 4 → (s.cfgDE = false → ¬err (m + 8#32) 4 ∧ ¬err m 4) →
    let taken (out : Out) : Prop := Goes out (Agrees s (entryState true 11#8 (setP false s.psr) s.pc s))
    let abs : Gen := .mode (.abs d)
    let tos : Gen := .mode .tos
    (err d.value i.bytes → taken (exec (.mov i abs (.mode (.reg k))) s) ∧ taken (exec (.cmp i tos abs) s)
      ∧ taken (exec (.add i tos abs) s) ∧ taken (exec (.cmpq i 1#4 abs) s))
    ∧ (err s.sp i.bytes → taken (exec (.mov i tos (.mode (.reg k))) s) ∧ taken (exec (.add i (.mode (.reg k)) tos) s)
      ∧ taken (exec (.cmp i tos abs) s))
    ∧ (s.reg 0#3 ≠ 0#32 →
      (err (s.reg 1#3) i.bytes → taken (exec (.movs i o) s) ∧ taken (exec (.cmps i o) s) ∧ taken (exec (.skps i o) s))
      ∧ (o.uw = .none → err (s.reg 2#3) i.bytes → taken (exec (.cmps i o) s)))
    ∧ (s.inputs = [] → s.op = .executing → pendingEvent s = none → pendingTrace s = none → s.cfgIC = false →
      let bytes := fetchFrom (begin s) s.pc maxLength
      let n := neededBytes (begin s) (bytes.headD 0#8) (maxLength - rest.length)
      decode bytes = .ok (v, rest) → anyFrom reservedAddress s.pc n = false → err s.pc n → taken (step s))

/-- A write that ends in a bus error (R288, R625): the instruction takes the non-restartable bus error, or goes on and
the error is recognized later, at the latest where the write buffer must be empty: at a serializing instruction or at
the entry of another exception, which is then not entered: an NMI or an external DBG stays latched (R632, R684). Vector
12, in supervisor mode with interrupts off, on SP0 eight bytes below where it
stood; the slave status word is read; the return address pushed is some value. That the dedicated registers stay, and
when a failed write is recognized, is the model's choice (log 27). Stated in Direct-Exception mode, with the frame apart
from the dispatch-table entry and from the erring address. -/
def Obligations.NonRestartableBusError : Prop :=
  ∀ (s : State) (i : Size) (d : Disp) (k : RegNum),
    Memory.wf s.mem = true → s.busReplies = [] → s.cfgDC = false → s.cfgDE = true → i ≠ .u → d.wf = true →
    (∀ a : Word, (regionAt s.platform a).writeError = decide (a = d.value) ∧ (regionAt s.platform a).readError = false
      ∧ (regionAt s.platform a).kind = .ram) →
    (∀ x : Nat, x < 8 → s.sp0 - 8#32 + BitVec.ofNat 32 x ≠ d.value) →
    (∀ x : Nat, x < 4 → 8 ≤ (s.intbase + 48#32 + BitVec.ofNat 32 x - (s.sp0 - 8#32)).toNat) →
    let entered (t : State) : Prop :=
      t.pc = t.load32 (s.intbase + 48#32) ∧ t.op = .executing ∧ t.sp0 = s.sp0 - 8#32
      ∧ t.sb = s.sb ∧ t.mod = s.mod ∧ t.intbase = s.intbase ∧ t.cfg = s.cfg
      ∧ t.flagU = false ∧ t.flagS = false ∧ t.flagI = false ∧ t.flagT = false ∧ t.flagP = false ∧ t.flagV = false
      ∧ t.pendingError = false ∧ t.nmiLatch = s.nmiLatch ∧ t.dbgLatch = s.dbgLatch ∧ (∃ w, Ref.slaveRead 0b11110#5 w ∈ t.refs.drop s.refs.length)
      ∧ ∃ x, t.refs.getLast? = some (.mem stData t.sp0 4 true false false x) ∧ t.load t.sp0 4 = x
    (Goes (exec (.mov i (.mode (.reg k)) (.mode (.abs d))) s) fun t =>
      entered t ∨ (t.pendingError = true ∧ t.op = s.op ∧ t.regs = s.regs
        ∧ t.pc = nextPc (.mov i (.mode (.reg k)) (.mode (.abs d))) s))
    ∧ (s.pendingError = true →
      (∀ u ∈ [Instr.dia, .lpr .b .upsr (.mode (.reg k)), .svc, .bpt, .catst0 0x36#16], Goes (exec u s) entered)
      ∧ Goes (takeDebug s s) entered ∧ ∀ n : Bool, Goes (takeInterrupt s n s) entered)

/-- What is taken between instructions. NMI uses vector 1 and clears its latch; a non-vectored INT vector 0; a vectored
INT the byte the interrupt control unit answers, or, for F0 to FF, the byte a cascaded unit answers (R632, R633). Trap
(TRC) clears P in the saved PSR (R660); Trap (DBG) uses vector 14, is no longer pending, and records an external
condition in DSR.BEX (R684, R685). That a reserved vector byte is refused is the model's choice (log 36); the replies
of the interrupt control units are data of the state (log 35). -/
def Obligations.InterruptsAndDebugTraps : Prop :=
  ∀ (s : State) (b c : Byte) (rest : List Byte),
    s.plain = true → s.icuReplies = b :: rest →
    let copy := if s.midString then setP false s.psr else s.psr
    let after (x : List Byte) : State := { s with icuReplies := x }
    Goes (takeInterrupt s true s)
      (Agrees s (entryState true 1#8 copy s.pc { s with icuReplies := rest, nmiLatch := false }))
    ∧ (s.cfgI = false → Goes (takeInterrupt s false s) (Agrees s (entryState true 0#8 copy s.pc (after rest))))
    ∧ (s.cfgI = true → b.getLsbD 7 = false →
        Goes (takeInterrupt s false s) (Agrees s (entryState true b copy s.pc (after rest))))
    ∧ (s.cfgI = true → b.extractLsb' 4 4 = 0xF#4 → ∀ rest', rest = c :: rest' →
        Goes (takeInterrupt s false s) (Agrees s (entryState true c copy s.pc (after rest'))))
    ∧ (s.cfgI = true → b.getLsbD 7 = true → b.extractLsb' 4 4 ≠ 0xF#4 →
        takeInterrupt s false s = .refused .vectorByte)
    ∧ Goes (takeTrace s) (Agrees s (entryState false 9#8 (setP false s.psr) s.pc s))
    ∧ Goes (takeDebug s s) (Agrees s (entryState true 14#8 copy s.pc
        { s with
          dsr := if s.dbgLatch then setBit32 s.dsr 29 true else s.dsr
          dbgLatch := false, dbgPending := false }))

/-- What is pushed comes back, in RAM. In Direct-Exception mode RETT 0 undoes the entry of a trap (R458, R620); RESTORE
of the mirrored list undoes SAVE (R461, R462; the order of the bits of the list byte: log 24); RXP 0 undoes CXP but for
SB, which is read again (R451, R453). The implemented bits of the PSR: log 5; the MOD slots: log 38. -/
def Obligations.PushedStateComesBack : Prop :=
  ∀ (s t : State),
    s.plain = true → Memory.wf s.mem = true →
    (∀ k : TrapKind, s.cfgDE = true → s.psr &&& ~~~psrMask = 0#16 → s.dcr.getLsbD 23 = false →
      takeTrap s k s = .next t →
      Goes (exec (.rett (.d7 0#7)) t) fun u =>
        u.pc = s.pc ∧ u.psr = (if k.clearsP then setP false s.psr else s.psr) ∧ u.sp0 = s.sp0 ∧ u.sp1 = s.sp1
        ∧ u.regs = s.regs ∧ u.fp = s.fp ∧ u.sb = s.sb ∧ u.mod = s.mod ∧ u.op = .executing
        ∧ ∀ a : Word, 8 ≤ (a - (s.sp0 - 8#32)).toNat → memGet u.mem a.toNat = memGet s.mem a.toNat)
    ∧ (∀ m : Byte, exec (.save m) s = .next t →
      Goes (exec (.restore m.reverse) t) fun u =>
        u.regs = s.regs ∧ u.sp = s.sp ∧ u.psr = s.psr ∧ u.fp = s.fp
        ∧ ∀ a : Word, 32 ≤ (a - (s.sp - 32#32)).toNat → memGet u.mem a.toNat = memGet s.mem a.toNat)
    ∧ (∀ d : Disp, exec (.cxp d) s = .next t →
      Goes (exec (.rxp (.d7 0#7)) t) fun u =>
        u.pc = nextPc (.cxp d) s ∧ u.mod = s.mod ∧ u.sb = u.load32 s.modAddr ∧ u.sp = s.sp ∧ u.regs = s.regs
        ∧ u.psr = s.psr
        ∧ ∀ a : Word, 8 ≤ (a - (s.sp - 8#32)).toNat → memGet u.mem a.toNat = memGet s.mem a.toNat)

/-! ### Moves and arithmetic -/

/-- The conditional branches and BR (R441, R442): relative to the branch's own address, by the conditions of R211;
nothing but the PC changes. Scondi (R366): 1 where the condition holds, else 0, in an operand of size i. The base of
the displacement is general knowledge (log 24). -/
def Obligations.Conditions : Prop :=
  ∀ (d : Disp) (i : Size) (g : Gen) (s : State),
    (d.wf = true → s.pendingError = false → ∀ p ∈ ([(Instr.beq d, s.flagZ), (.bne d, !s.flagZ), (.bcs d, s.flagC),
        (.bcc d, !s.flagC), (.bhi d, s.flagL), (.bls d, !s.flagL), (.bgt d, s.flagN), (.ble d, !s.flagN), (.bfs d, s.flagF), (.bfc d, !s.flagF),
        (.blo d, !s.flagL && !s.flagZ), (.bhs d, s.flagL || s.flagZ), (.blt d, !s.flagN && !s.flagZ),
        (.bge d, s.flagN || s.flagZ), (.br d, true), (.bnever d, false)] : List (Instr × Bool)),
      CompletesAt p.1 s s (if p.2 then s.pc + d.value else s.pc + 1#32 + BitVec.ofNat 32 d.length))
    ∧ (i ≠ .u → s.plain = true → legal .write g = true →
      ∀ p ∈ ([(.eq, s.flagZ), (.ne, !s.flagZ), (.cs, s.flagC), (.cc, !s.flagC), (.hi, s.flagL), (.ls, !s.flagL),
          (.gt, s.flagN), (.le, !s.flagN), (.fs, s.flagF), (.fc, !s.flagF), (.lo, !s.flagL && !s.flagZ),
          (.hs, s.flagL || s.flagZ), (.lt, !s.flagN && !s.flagZ), (.ge, s.flagN || s.flagZ), (.always, true),
          (.never, false)] : List (Cond × Bool)),
        Completes (.scond i p.1 g) s (written s i.bytes (if p.2 then 1#64 else 0#64) (genLoc s g)))

/-- MOVi, MOVQi, MOVMi, MOVZBW, MOVXBW, MOVZiD, MOVXiD and ADDR (R300 to R307): the destination gets the source, zero-
or sign-extended, or the effective address; MOVMi copies 1 to 16 bytes of whole elements in ascending order; no flag
changes. The scheme of MOVMi is general knowledge (log 24). -/
def Obligations.Moves : Prop :=
  ∀ (i : Size) (q : BitVec 4) (g1 g2 : Gen) (d : Disp) (s : State),
    i ≠ .u → s.plain = true → legal .write g2 = true →
    (legal .read g1 = true →
      Completes (.mov i g1 g2) s (moved s i.bytes g1 i.bytes g2 id)
      ∧ Completes (.movzbw .b g1 g2) s (moved s 1 g1 2 g2 id)
      ∧ Completes (.movxbw .b g1 g2) s (moved s 1 g1 2 g2 fun a => ((a.setWidth 8).signExtend 16).setWidth 64)
      ∧ (i ≠ .d → Completes (.movzd i g1 g2) s (moved s i.bytes g1 4 g2 id)
        ∧ Completes (.movxd i g1 g2) s
            (moved s i.bytes g1 4 g2 fun a => ((a.setWidth i.bits).signExtend 32).setWidth 64)))
    ∧ Completes (.movq i q g2) s (written s i.bytes ((q.signExtend 32).setWidth 64) (genLoc s g2))
    ∧ (legal .addr g1 = true → ∀ a, addrOf s g1 = some a →
        Completes (.addr .d g1 g2) s (written s 4 (a.setWidth 64) (genLoc s g2)))
    ∧ (legal .addr g1 = true → d.wf = true → blockOk i d = true →
        ∀ a1 a2, addrOf s g1 = some a1 → addrOf s g2 = some a2 →
        Completes (.movm i g1 g2 d) s (blockMoved i.bytes a1 a2 (d.value.toNat / i.bytes + 1) s))

/-- NEGi, ABSi, COMi and NOTi (R326, R327, R364, R365), with the flags of each and the overflow of the most negative
value (R340). -/
def Obligations.UnaryOperations : Prop :=
  ∀ (i : Size) (g1 g2 : Gen) (s : State),
    i ≠ .u → s.plain = true → legal .read g1 = true → legal .write g2 = true →
    let a : BitVec i.bits := (src s i.bytes g1).setWidth i.bits
    let least := decide (a.toInt = -(2 : Int) ^ (i.bits - 1))
    let out (v : BitVec i.bits) : State := moved s i.bytes g1 i.bytes g2 fun _ => v.setWidth 64
    CompletesUnless least (.neg i g1 g2) s ((out (-a)).withPsr (setCF (decide (a.toNat ≠ 0)) least))
    ∧ CompletesUnless least (.abs i g1 g2) s ((out (BitVec.ofInt i.bits a.toInt.natAbs)).withPsr (setF least))
    ∧ Completes (.com i g1 g2) s (out (~~~a))
    ∧ Completes (.not i g1 g2) s (out (a ^^^ 1#i.bits))

/-- ANDi, ORi, BICi and XORi (R360 to R363): no flag changes. -/
def Obligations.LogicalOperations : Prop :=
  ∀ (i : Size) (g1 g2 : Gen) (s : State),
    i ≠ .u → s.plain = true → legal .read g1 = true → legal .rmw g2 = true →
    let a := src s i.bytes g1
    let b := dest s i.bytes g1 i.bytes g2
    Completes (.and i g1 g2) s (replaced s i.bytes g1 i.bytes g2 (b &&& a))
    ∧ Completes (.or i g1 g2) s (replaced s i.bytes g1 i.bytes g2 (b ||| a))
    ∧ Completes (.bic i g1 g2) s (replaced s i.bytes g1 i.bytes g2 (b &&& ~~~a))
    ∧ Completes (.xor i g1 g2) s (replaced s i.bytes g1 i.bytes g2 (b ^^^ a))

/-- ADDi, ADDQi, ADDCi, SUBi and SUBCi (R320 to R325): the result, C the carry or borrow out, F set exactly when the
exact signed result does not fit, and Trap (OVF) when V is set too (R340). -/
def Obligations.AddAndSubtract : Prop :=
  ∀ (i : Size) (q : BitVec 4) (g1 g2 : Gen) (s : State),
    i ≠ .u → s.plain = true → legal .rmw g2 = true →
    let sum (u : Instr) (b a : BitVec i.bits) (c : Bool) (out : Quad → State) : Prop :=
      let r := BitVec.ofNat i.bits (b.toNat + a.toNat + c.toNat)
      let f := decide (r.toInt ≠ b.toInt + a.toInt + c.toNat)
      CompletesUnless f u s ((out (r.setWidth 64)).withPsr
        (setCF (decide (2 ^ i.bits ≤ b.toNat + a.toNat + c.toNat)) f))
    let difference (u : Instr) (b a : BitVec i.bits) (c : Bool) (out : Quad → State) : Prop :=
      let r := BitVec.ofInt i.bits ((b.toNat : Int) - a.toNat - c.toNat)
      let f := decide (r.toInt ≠ b.toInt - a.toInt - c.toNat)
      CompletesUnless f u s ((out (r.setWidth 64)).withPsr (setCF (decide (b.toNat < a.toNat + c.toNat)) f))
    (legal .read g1 = true →
      let a : BitVec i.bits := (src s i.bytes g1).setWidth i.bits
      let b : BitVec i.bits := (dest s i.bytes g1 i.bytes g2).setWidth i.bits
      let out := replaced s i.bytes g1 i.bytes g2
      sum (.add i g1 g2) b a false out ∧ sum (.addc i g1 g2) b a s.flagC out
      ∧ difference (.sub i g1 g2) b a false out ∧ difference (.subc i g1 g2) b a s.flagC out)
    ∧ sum (.addq i q g2) ((locValue s i.bytes (genLoc s g2)).setWidth i.bits) (q.signExtend i.bits) false
        (fun v => rewritten s i.bytes v (genLoc s g2))

/-- MULi and, with a divisor other than 0, QUOi, REMi, DIVi and MODi (R328 to R332): no flag changes; the signed
product or quotient that does not fit overflows (R340). That MULi reads its operands as signed is general knowledge
(log 24). -/
def Obligations.MultiplyAndDivide : Prop :=
  ∀ (i : Size) (g1 g2 : Gen) (s : State),
    i ≠ .u → s.plain = true → legal .read g1 = true → legal .rmw g2 = true →
    let a : BitVec i.bits := (src s i.bytes g1).setWidth i.bits
    let b : BitVec i.bits := (dest s i.bytes g1 i.bytes g2).setWidth i.bits
    let out (v : BitVec i.bits) : State := replaced s i.bytes g1 i.bytes g2 (v.setWidth 64)
    CompletesUnless (decide ((b * a).toInt ≠ b.toInt * a.toInt)) (.mul i g1 g2) s (out (b * a))
    ∧ (a ≠ 0#i.bits →
      CompletesUnless (decide ((b.sdiv a).toInt ≠ b.toInt.tdiv a.toInt)) (.quo i g1 g2) s (out (b.sdiv a))
      ∧ Completes (.rem i g1 g2) s (out (b.srem a))
      ∧ CompletesUnless (decide ((BitVec.ofInt i.bits (b.toInt.fdiv a.toInt)).toInt ≠ b.toInt.fdiv a.toInt))
          (.div i g1 g2) s (out (BitVec.ofInt i.bits (b.toInt.fdiv a.toInt)))
      ∧ Completes (.mod i g1 g2) s (out (b.smod a)))

/-- A division by 0 ends in Trap (DVZ) with operands and stack pointer as they were (R341). -/
def Obligations.DivideByZero : Prop :=
  ∀ (i : Size) (g1 g2 : Gen) (s : State),
    i ≠ .u → s.plain = true → legal .read g1 = true → legal .rmw g2 = true → src s i.bytes g1 = 0#64 →
    (∀ u ∈ [Instr.quo i g1 g2, .rem i g1 g2, .div i g1 g2, .mod i g1 g2], Traps u s .dvz)
    ∧ (oddRegister g2 = false → Traps (.dei i g1 g2) s .dvz)

/-- MEIi and DEIi (R333, R334): the unsigned product over both halves; the remainder in the low half, the quotient in
the high half when it fits. No flag changes. The unsigned reading and the order of the halves are general knowledge
(log 24). -/
def Obligations.ExtendedIntegers : Prop :=
  ∀ (i : Size) (g1 g2 : Gen) (s : State),
    i ≠ .u → s.plain = true → legal .read g1 = true → legal .rmw g2 = true → oddRegister g2 = false →
    let a := (src s i.bytes g1).toNat
    let s1 := afterSrc s i.bytes g1
    let l := genLoc s1 g2
    let lo := (doubleValue s1 i.bytes l).1.toNat
    let b := lo + 2 ^ i.bits * (doubleValue s1 i.bytes l).2.toNat
    Completes (.mei i g1 g2) s
      (doublePut s1 i.bytes (BitVec.ofNat 64 (a * lo % 2 ^ i.bits)) (BitVec.ofNat 64 (a * lo / 2 ^ i.bits)) l)
    ∧ (0 < a → b / a < 2 ^ i.bits →
        Completes (.dei i g1 g2) s (doublePut s1 i.bytes (BitVec.ofNat 64 (b % a)) (BitVec.ofNat 64 (b / a)) l))

/-- ADDPi and SUBPi on decimal digits (R335, R336): the decimal sum or difference, C the decimal carry or borrow, F
cleared; and the digits written are decimal ones, of that value. That F is cleared is general knowledge (log 24). -/
def Obligations.PackedDecimal : Prop :=
  (∀ (k v : Nat), v < 10 ^ k →
    bcdValid k (bcdEncode k v) = true ∧ bcdValue k (bcdEncode k v) = v ∧ bcdEncode k v < 16 ^ k)
  ∧ ∀ (i : Size) (g1 g2 : Gen) (s : State),
    i ≠ .u → s.plain = true → legal .read g1 = true → legal .rmw g2 = true →
    let k := i.bits / 4
    let a := (src s i.bytes g1).toNat
    let b := (dest s i.bytes g1 i.bytes g2).toNat
    let out (v : Nat) : State := replaced s i.bytes g1 i.bytes g2 (BitVec.ofNat 64 (bcdEncode k v))
    bcdValid k a = true → bcdValid k b = true →
    let x := bcdValue k b
    let y := bcdValue k a + s.flagC.toNat
    Completes (.addp i g1 g2) s ((out ((x + y) % 10 ^ k)).withPsr (setCF (decide (10 ^ k ≤ x + y)) false))
    ∧ Completes (.subp i g1 g2) s ((out ((x + 10 ^ k - y) % 10 ^ k)).withPsr (setCF (decide (x < y)) false))

/-- CMPi, CMPQi and CMPMi (R337 to R339): Z, N and L by equality, signed and unsigned comparison with the second
operand; nothing is stored. The flags of CMPMi are general knowledge (log 24). -/
def Obligations.Comparisons : Prop :=
  ∀ (i : Size) (q : BitVec 4) (g1 g2 : Gen) (d : Disp) (s : State),
    i ≠ .u → s.plain = true →
    let flags (a b : BitVec i.bits) : Half → Half :=
      setZNL (decide (a = b)) (decide (a.toInt > b.toInt)) (decide (a.toNat > b.toNat))
    (legal .read g1 = true → legal .read g2 = true →
      let s1 := afterSrc s i.bytes g1
      Completes (.cmp i g1 g2) s ((afterSrc s1 i.bytes g2).withPsr
        (flags ((src s i.bytes g1).setWidth i.bits) ((src s1 i.bytes g2).setWidth i.bits))))
    ∧ (legal .read g2 = true → Completes (.cmpq i q g2) s ((afterSrc s i.bytes g2).withPsr
        (flags (q.signExtend i.bits) ((src s i.bytes g2).setWidth i.bits))))
    ∧ (legal .addr g1 = true → legal .addr g2 = true → d.wf = true → blockOk i d = true →
      ∀ a1 a2, addrOf s g1 = some a1 → addrOf s g2 = some a2 →
      Completes (.cmpm i g1 g2 d) s (s.withPsr
        (match firstUnequal s i.bytes a1 a2 (d.value.toNat / i.bytes + 1) with
          | none => setZNL true false false
          | some (x, y) => flags (x.setWidth i.bits) (y.setWidth i.bits))))

/-- LSHi, ASHi and ROTi with a count in their documented range (R367 to R369): ASHi overflows when a left shift loses
significance (R340); no flag changes. The range of the count is general knowledge (log 24). -/
def Obligations.Shifts : Prop :=
  ∀ (i : Size) (g1 g2 : Gen) (s : State),
    i ≠ .u → s.plain = true → legal .read g1 = true → legal .rmw g2 = true →
    let c := ((src s 1 g1).setWidth 8).toInt
    let b : BitVec i.bits := (dest s 1 g1 i.bytes g2).setWidth i.bits
    let out (v : BitVec i.bits) : State := replaced s 1 g1 i.bytes g2 (v.setWidth 64)
    (0 ≤ c → c ≤ i.bits →
      Completes (.lsh i g1 g2) s (out (b <<< c.toNat))
      ∧ CompletesUnless (decide ((b <<< c.toNat).toInt ≠ b.toInt * 2 ^ c.toNat)) (.ash i g1 g2) s (out (b <<< c.toNat)))
    ∧ (c < 0 → -(i.bits : Int) ≤ c →
      Completes (.lsh i g1 g2) s (out (b >>> (-c).toNat))
      ∧ Completes (.ash i g1 g2) s (out (b.sshiftRight (-c).toNat)))
    ∧ (-(i.bits : Int) < c → c < i.bits →
      Completes (.rot i g1 g2) s (out (if 0 ≤ c then b.rotateLeft c.toNat else b.rotateRight (-c).toNat)))

/-- A shift count out of range, a decimal operand with an invalid digit, a quotient of DEIi that does not fit, a bit or
a bit field outside its register and an INSi field longer than the source do not stop the machine: the instruction
completes with some value there (U17 to U21; logs 16 to 19); ASHi and DEIi may overflow besides, and with PSR.V set take
Trap (OVF); DEIi does so exactly when the quotient does not fit (log 16). The values are the model's free values. -/
def Obligations.UndefinedResultsGoOn : Prop :=
  ∀ (i : Size) (g1 g2 : Gen) (k : RegNum) (s : State),
    i ≠ .u → s.plain = true → legal .read g1 = true →
    let s1 := afterSrc s i.bytes g1
    (legal .rmw g2 = true →
      (∀ u ∈ [Instr.lsh i g1 g2, .rot i g1 g2], ∃ v, Completes u s (replaced s 1 g1 i.bytes g2 v))
      ∧ (∃ v f, CompletesUnless f (.ash i g1 g2) s (replaced s 1 g1 i.bytes g2 v))
      ∧ (∀ u ∈ [Instr.addp i g1 g2, .subp i g1 g2],
          ∃ v c f, Completes u s ((replaced s i.bytes g1 i.bytes g2 v).withPsr (setCF c f)))
      ∧ (oddRegister g2 = false → src s i.bytes g1 ≠ 0#64 →
          let l := genLoc s1 g2
          let b := (doubleValue s1 i.bytes l).1.toNat + 2 ^ i.bits * (doubleValue s1 i.bytes l).2.toNat
          ∃ x y, CompletesUnless (decide (2 ^ i.bits ≤ b / (src s i.bytes g1).toNat)) (.dei i g1 g2) s
            (doublePut s1 i.bytes x y l)))
    ∧ (∃ f, Completes (.tbit i g1 (.mode (.reg k))) s (s1.withPsr (setF f)))
    ∧ (∀ u ∈ [Instr.sbit i g1 (.mode (.reg k)), .cbit i g1 (.mode (.reg k)), .ibit i g1 (.mode (.reg k)),
          .sbiti i g1 (.mode (.reg k)), .cbiti i g1 (.mode (.reg k))],
        ∃ w f, Completes u s ((s1.setReg k w).withPsr (setF f)))
    ∧ ∀ (r : RegNum) (d : Disp) (c : Byte), d.wf = true → lengthOk d = true →
      (legal .write g2 = true →
        (∃ v, v &&& ~~~lowMask d.value.toNat = 0#64 ∧
          Completes (.extf i r (.mode (.reg k)) g2 d) s (written s i.bytes v (genLoc s g2)))
        ∧ (∃ v, v &&& ~~~lowMask (shortLength c) = 0#64 ∧
          Completes (.exts i (.mode (.reg k)) g2 c) s (written s i.bytes v (genLoc s g2))))
      ∧ (∃ w, Completes (.ins i r g1 (.mode (.reg k)) d) s (s1.setReg k w))
      ∧ (∃ w, Completes (.inss i g1 (.mode (.reg k)) c) s (s1.setReg k w))
      ∧ (legal .regaddr g2 = true → insideBase (baseOf s1 g2) (s.reg r).toInt d.value.toNat = true →
          ∃ v, v.setWidth i.bits = (src s i.bytes g1).setWidth i.bits ∧
            Completes (.ins i r g1 g2 d) s (fieldPut s1 (s.reg r).toInt d.value.toNat v (baseOf s1 g2)))

/-! ### Bits, fields and arrays -/

/-- TBITi, SBITi, SBITIi, CBITi, CBITIi and IBITi on a bit inside its base (R370 to R376): F gets the bit's old value,
and the bit is kept, set, cleared or inverted. Bit addressing is general knowledge (log 24). -/
def Obligations.BitInstructions : Prop :=
  ∀ (i : Size) (g1 g2 : Gen) (s : State),
    i ≠ .u → s.plain = true → legal .read g1 = true → legal .regaddr g2 = true →
    let s1 := afterSrc s i.bytes g1
    let o := ((src s i.bytes g1).setWidth i.bits).toInt
    insideBase (baseOf s1 g2) o 1 = true →
    let old := bitAt s1 o (baseOf s1 g2)
    Completes (.tbit i g1 g2) s (s1.withPsr (setF old))
    ∧ ∀ p ∈ ([(.sbit i g1 g2, fun _ => true), (.sbiti i g1 g2, fun _ => true), (.cbit i g1 g2, fun _ => false),
          (.cbiti i g1 g2, fun _ => false), (.ibit i g1 g2, fun b => !b)] : List (Instr × (Bool → Bool))),
        Completes p.1 s ((bitPut s1 o p.2 (baseOf s1 g2)).withPsr (setF old))

/-- FFSi (R377): gen2, a byte, gets the number of the first set bit of gen1 at or after gen2's old value and F is
cleared; where there is none it gets 0 and F is set. The values of F are general knowledge (log 24). -/
def Obligations.FindFirstSet : Prop :=
  ∀ (i : Size) (g1 g2 : Gen) (s : State),
    i ≠ .u → s.plain = true → legal .read g1 = true → legal .rmw g2 = true →
    let a := src s i.bytes g1
    let o := (dest s i.bytes g1 1 g2).toNat
    (∀ k, o ≤ k → k < i.bits → a.getLsbD k = true → (∀ j, o ≤ j → j < k → a.getLsbD j = false) →
      Completes (.ffs i 0#3 g1 g2) s ((replaced s i.bytes g1 1 g2 (BitVec.ofNat 64 k)).withPsr (setF false)))
    ∧ ((∀ j, o ≤ j → j < i.bits → a.getLsbD j = false) →
      Completes (.ffs i 0#3 g1 g2) s ((replaced s i.bytes g1 1 g2 0#64).withPsr (setF true)))

/-- EXTi, EXTSi, INSi and INSSi (R400 to R404) on a field inside its base, for INSi no longer than the source: no flag
changes; INSSi zero-extends a source shorter than the field (R404). Bit-field addressing is general knowledge (log 24). -/
def Obligations.BitFields : Prop :=
  ∀ (i : Size) (r : RegNum) (g1 g2 : Gen) (d : Disp) (c : Byte) (s : State),
    i ≠ .u → s.plain = true → d.wf = true → lengthOk d = true →
    let o := (s.reg r).toInt
    let len := d.value.toNat
    let so : Int := ((c >>> 5).toNat : Int)
    let slen := (c &&& 0x1F#8).toNat + 1
    (legal .regaddr g1 = true → legal .write g2 = true →
      (insideBase (baseOf s g1) o len = true →
        Completes (.extf i r g1 g2 d) s (written s i.bytes (fieldAt s o len (baseOf s g1)) (genLoc s g2)))
      ∧ (insideBase (baseOf s g1) so slen = true →
        Completes (.exts i g1 g2 c) s (written s i.bytes (fieldAt s so slen (baseOf s g1)) (genLoc s g2))))
    ∧ (legal .read g1 = true → legal .regaddr g2 = true →
      let s1 := afterSrc s i.bytes g1
      (insideBase (baseOf s1 g2) o len = true → len ≤ i.bits →
        Completes (.ins i r g1 g2 d) s (fieldPut s1 o len (src s i.bytes g1) (baseOf s1 g2)))
      ∧ (insideBase (baseOf s1 g2) so slen = true →
        Completes (.inss i g1 g2 c) s (fieldPut s1 so slen (src s i.bytes g1) (baseOf s1 g2))))

/-- A bit field in memory is the run of its bits (R400): bit k of the field at offset o is the memory bit at offset o +
k, for a field of 1 to 32 bits. Bit-field addressing is general knowledge (log 24). -/
def Obligations.FieldIsItsBits : Prop :=
  ∀ (s : State) (a : Word) (o : Int) (len k : Nat),
    1 ≤ len → len ≤ 32 →
    (fieldAt s o len (.mem a)).getLsbD k = (decide (k < len) && bitAt s (o + k) (.mem a))

/-- CVTP, CHECKi and INDEXi (R405, R410, R411): 8 times the address plus the offset; the difference to the lower bound,
F set when the value is out of bounds, which is an overflow too (R340); the zero-extended index step. The bounds pair
and the zero extension of INDEXi are general knowledge (log 24). -/
def Obligations.ArrayInstructions : Prop :=
  ∀ (i : Size) (r : RegNum) (g1 g2 : Gen) (s : State),
    i ≠ .u → s.plain = true →
    (legal .addr g1 = true → legal .write g2 = true → ∀ a, addrOf s g1 = some a →
      Completes (.cvtp .d r g1 g2) s (written s 4 ((8#32 * a + s.reg r).setWidth 64) (genLoc s g2)))
    ∧ (legal .addr g1 = true → legal .read g2 = true → ∀ a, addrOf s g1 = some a →
      let upper := ((s.load a i.bytes).setWidth i.bits).toInt
      let lower := ((s.load (a + BitVec.ofNat 32 i.bytes) i.bytes).setWidth i.bits).toInt
      let v := ((src s i.bytes g2).setWidth i.bits).toInt
      let bad := decide (v < lower ∨ upper < v)
      CompletesUnless bad (.check i r g1 g2) s
        (((afterSrc s i.bytes g2).setReg r (BitVec.ofInt 32 (v - lower))).withPsr (setF bad)))
    ∧ (legal .read g1 = true → legal .read g2 = true →
      let s1 := afterSrc s i.bytes g1
      Completes (.index i r g1 g2) s ((afterSrc s1 i.bytes g2).setReg r
        (BitVec.ofNat 32 ((s.reg r).toNat * ((src s i.bytes g1).toNat + 1) + (src s1 i.bytes g2).toNat))))

/-- MOVSi, MOVST, CMPSi, CMPST, SKPSi and SKPST, one element a step (R420 to R427, D7): when elements are left the PC
stays at the instruction. A step an element is the spec's decision (log 33). -/
def Obligations.StringElements : Prop :=
  ∀ (i : Size) (o : StrOpts) (s : State),
    i ≠ .u → s.plain = true → o.uw ≠ .unassigned → o.pad = 0#6 →
    let next := s.pc + 3#32
    Goes (exec (.movs i o) s) (Agrees s (stringState .move i false o next s))
    ∧ Goes (exec (.movst o) s) (Agrees s (stringState .move .b true o next s))
    ∧ Goes (exec (.cmps i o) s) (Agrees s (stringState .compare i false o next s))
    ∧ Goes (exec (.cmpst o) s) (Agrees s (stringState .compare .b true o next s))
    ∧ Goes (exec (.skps i o) s) (Agrees s (stringState .skip i false o next s))
    ∧ Goes (exec (.skpst o) s) (Agrees s (stringState .skip .b true o next s))

/-! ### Control -/

/-- JUMP, CASEi, BSR, JSR, RET and ACBi (R440, R443 to R447): the target; the return address pushed is that of the next
instruction; ACBi branches unless its counter has become 0, and writes no flag. That ACBi writes no flag is general
knowledge (log 24). -/
def Obligations.JumpsAndSubroutines : Prop :=
  ∀ (i : Size) (q : BitVec 4) (g : Gen) (d : Disp) (s : State),
    i ≠ .u → s.plain = true → d.wf = true →
    (legal .addr g = true → ∀ a, addrOf s g = some a →
      CompletesAt (.jump .d g) s s a
      ∧ CompletesAt (.jsr .d g) s (s.pushed 4 ((nextPc (.jsr .d g) s).setWidth 64)) a)
    ∧ (legal .read g = true → CompletesAt (.casei i g) s (afterSrc s i.bytes g)
        (s.pc + ((src s i.bytes g).setWidth i.bits).signExtend 32))
    ∧ CompletesAt (.bsr d) s (s.pushed 4 ((nextPc (.bsr d) s).setWidth 64)) (s.pc + d.value)
    ∧ CompletesAt (.ret d) s (s.setSp (s.sp + 4#32 + d.value)) (s.load32 s.sp)
    ∧ (legal .rmw g = true →
      let b : BitVec i.bits := (locValue s i.bytes (genLoc s g)).setWidth i.bits
      let r := b + q.signExtend i.bits
      let u := rewritten s i.bytes (r.setWidth 64) (genLoc s g)
      let pc := if r.toNat = 0 then nextPc (.acb i q g d) s else s.pc + d.value
      if decide (r.toInt ≠ b.toInt + (q.signExtend i.bits).toInt) && s.flagV then
        Goes (exec (.acb i q g d) s) (Agrees s (entryState false 13#8 u.psr pc (u.retired pc)))
      else CompletesAt (.acb i q g d) s u pc)

/-- CXP, CXPD and RXP (R450 to R453): the caller's MOD, in a double-word with a zero high word (D20, log 38), and the
return address are pushed; MOD, SB and the PC come from the procedure descriptor and the new module's descriptor; RXP
takes return address and MOD from the stack. The order of the reads and pushes is general knowledge (log 24). -/
def Obligations.ExternalProcedures : Prop :=
  ∀ (g : Gen) (d : Disp) (s : State),
    s.plain = true → d.wf = true →
    (let desc := s.load32 (s.load32 (s.modAddr + 4#32) + 4#32 * d.value)
      let u := called s desc (nextPc (.cxp d) s)
      CompletesAt (.cxp d) s u (calledPc u desc))
    ∧ (legal .addr g = true → ∀ a, addrOf s g = some a →
      let desc := s.load32 a
      let u := called s desc (nextPc (.cxpd .d g) s)
      CompletesAt (.cxpd .d g) s u (calledPc u desc))
    ∧ (let s1 := moduleEntered ((s.popped 4).popped 4) ((s.load (s.sp + 4#32) 4).setWidth 16)
      CompletesAt (.rxp d) s (s1.setSp (s1.sp + d.value)) (s.load32 s.sp))

/-- NOP, FLAG with F clear, WAIT and DIA (R490, R455, R491, R492), when no failed write waits to be recognized: only the
PC moves; WAIT enters the Waiting state; DIA branches to itself. NOP is the byte A2, DIA C2. -/
def Obligations.PlainControl : Prop :=
  encode .nop = [0xA2#8] ∧ encode .dia = [0xC2#8]
  ∧ ∀ (s : State),
    s.pendingError = false →
    Completes .nop s s ∧ (s.flagF = false → Completes .flag s s)
    ∧ Completes .wait s { s with op := .waiting } ∧ CompletesAt .dia s s s.pc

/-- RETT and RETI in supervisor mode (R457, R458): PC, PSR and, outside Direct-Exception mode, MOD and SB come from the
frame; RETI first reads the end-of-interrupt bytes from the interrupt control unit. The bits of PSR that are restored: log
5; that the MOD word is not read in Direct-Exception mode: log 38 (C10); an index byte 80 to EF, which U12 calls reserved,
is used as the pseudocode of R457 says: log 36; the replies are data of the state (log 35); the order is general
knowledge (log 24). -/
def Obligations.Returns : Prop :=
  ∀ (d : Disp) (s : State),
    s.plain = true → d.wf = true → s.flagU = false →
    CompletesAt (.rett d) s (returned s d.value) (s.load32 s.sp)
    ∧ (let b := s.icuReplies.headD (Config.icuByte s.freeCount 0xFFFFFE00#32)
      let left := if s.cfgI && b.getLsbD 7 then s.icuReplies.tail.tail else s.icuReplies.tail
      CompletesAt .reti s { returned s 0#32 with icuReplies := left } (s.load32 s.sp))

/-- SAVE, RESTORE, ENTER and EXIT (R459 to R462): a list byte's bit n names Rn when pushing and R(7 - n) when popping.
The order of the bits of the list byte is general knowledge (log 24). -/
def Obligations.RegisterLists : Prop :=
  ∀ (m : Byte) (d : Disp) (s : State),
    s.plain = true → d.wf = true →
    let order : List RegNum := [0#3, 1#3, 2#3, 3#3, 4#3, 5#3, 6#3, 7#3]
    Completes (.save m) s (listPushed m order s)
    ∧ Completes (.restore m) s (listPopped m order s)
    ∧ (let s1 := s.pushed 4 (s.fp.setWidth 64)
      let s2 : State := { s1 with fp := s1.sp }
      Completes (.enter m d) s (listPushed m order (s2.setSp (s2.sp - d.value))))
    ∧ (let s1 := listPopped m order s
      let s2 := s1.setSp s1.fp
      Completes (.exit m) s { s2.popped 4 with fp := s2.load32 s2.sp })

/-! ### Processor registers and the rest -/

/-- LPRi (R482) of every dedicated register in the mode that may load it, with the register's own length. Loading a
register that controls debugging may itself meet a debug condition (U25), so DSR is then said only up to its debug
bits. Of CFG bits 7:4 stay 1, the implemented bits are those of the source, and a cache whose enable becomes 0 loses its
contents, while the other keeps them (R42, R44 to R46); a 1 in bit 2 or bits 31:13 is refused (U3, log 6). That the two low
bits of CAR are kept is the model's choice (U5, log 8). Implemented bits of PSR and UPSR: log 5; reserved bits of
DCR and DSR: log 7; the free debug condition: log 21. -/
def Obligations.LoadDedicatedRegister : Prop :=
  ∀ (i : Size) (r : AReg) (g : Gen) (s : State),
    s.plain = true → legal .read g = true → aregOk i r = true → aregPrivileged r = false ∨ s.flagU = false →
    let u := aregPut r (src s i.bytes g) (afterSrc s i.bytes g)
    let reserved := r = .cfg ∧ (src s i.bytes g).setWidth 32 &&& 0xFFFFE004#32 ≠ 0#32
    (reserved → exec (.lpr i r g) s = .refused .reservedCfgBit)
    ∧ (r ≠ .dcr → ¬reserved → Completes (.lpr i r g) s u)
    ∧ (r = .dcr → ∃ x b, x &&& 0x2FFFFFFF#32 = s.dsr &&& 0x2FFFFFFF#32
        ∧ Completes (.lpr i r g) s { u with dsr := x, dbgPending := b })
    ∧ (r = .cfg → ¬reserved → Goes (exec (.lpr i r g) s) fun t =>
        let w := (src s i.bytes g).setWidth 32
        (∀ b ∈ ([0, 1, 3, 8, 9, 10, 11, 12] : List Nat), t.cfg.getLsbD b = w.getLsbD b)
        ∧ (∀ b ∈ ([4, 5, 6, 7] : List Nat), t.cfg.getLsbD b = true)
        ∧ (∀ b ∈ (2 :: List.range' 13 19), t.cfg.getLsbD b = false)
        ∧ (w.getLsbD 11 = false → ∀ a : Word, icByte { t with cfg := 0xFFFFFFFF#32 } a = none)
        ∧ (w.getLsbD 11 = true → t.icache = s.icache)
        ∧ (w.getLsbD 9 = false → ∀ a : Word, dcByte t a = none)
        ∧ (w.getLsbD 9 = true → t.dcache = s.dcache))

/-- SPRi (R483): the register as it was before the destination is written; the reserved bits of DCR and DSR read as
anything (U4). The model's choice for reserved bits: log 7. -/
def Obligations.StoreDedicatedRegister : Prop :=
  ∀ (i : Size) (r : AReg) (g : Gen) (s : State),
    s.plain = true → legal .write g = true → aregOk i r = true → aregPrivileged r = false ∨ s.flagU = false →
    ∃ x : Word, Completes (.spr i r g) s
      (written s i.bytes ((aregValue s r ||| (x &&& aregFree r)).setWidth 64) (genLoc s g))

/-- BISPSRi, BICPSRi and ADJSPi (R484 to R486): byte forms reach PSR[7:0] only and are allowed in every mode; the
unimplemented bits stay 0 (which those are: log 5); ADJSPi
subtracts its sign-extended operand from the selected stack pointer. The sign of
ADJSPi is general knowledge (log 24). -/
def Obligations.StatusAndStackAdjust : Prop :=
  ∀ (i : Size) (g : Gen) (s : State),
    s.plain = true → legal .read g = true →
    let s1 := afterSrc s i.bytes g
    let v := (src s i.bytes g).setWidth 16
    ((i = .b ∨ (i = .w ∧ s.flagU = false)) →
      Completes (.bispsr i g) s (s1.withPsr fun p => (p ||| v) &&& psrMask)
      ∧ Completes (.bicpsr i g) s (s1.withPsr fun p => (p &&& ~~~v) &&& psrMask))
    ∧ (i ≠ .u → Completes (.adjsp i g) s
        (s1.setSp (s1.sp - ((src s i.bytes g).setWidth i.bits).signExtend 32)))

/-- SETCFG and CINV in supervisor mode (R487, R495): CFG[3:0] loaded, every other control bit cleared, so that both
caches lose their contents; the named cache loses all of its lines, or the block of the operand: every byte of the
16-byte block then misses, and every other byte hits or misses as before (R495). -/
def Obligations.ConfigurationAndCaches : Prop :=
  ∀ (short : BitVec 4) (a ic dc : Bool) (g : Gen) (s : State),
    s.plain = true → s.flagU = false → legal .read g = true →
    (short.getLsbD 2 = false →
      Goes (exec (.setcfg .d short 0#6) s) (fun t => t.cfg = 0x000000F0#32 ||| short.setWidth 32
        ∧ Agrees s ({ s with
            cfg := 0x000000F0#32 ||| short.setWidth 32
            icache := icInvalidate s.icache, dcache := dcInvalidate s.dcache }.retired (s.pc + 3#32)) t
        ∧ ∀ x : Word, icByte { t with cfg := 0xFFFFFFFF#32 } x = none ∧ dcByte t x = none))
    ∧ (let v := (src s 4 g).setWidth 32
      let s1 := afterSrc s 4 g
      Completes (.cinv a ic dc 0#1 g) s
        { s1 with
          icache := if ic then (if a then icInvalidate s.icache else icInvalidateBlock s.icache v) else s.icache
          dcache := if dc then (if a then dcInvalidate s.dcache else dcInvalidateBlock s.dcache v) else s.dcache }
      ∧ Goes (exec (.cinv a ic dc 0#1 g) s) fun t => ∀ x : Word,
        let gone : Bool := a || x.extractLsb' 4 28 == v.extractLsb' 4 28
        icByte { t with cfg := 0xFFFFFFFF#32 } x = (if ic && gone then none else icByte { s with cfg := 0xFFFFFFFF#32 } x)
        ∧ dcByte t x = if dc && gone then none else dcByte s x)

/-- MOVSUi and MOVUSi in supervisor mode (R496, R497): the element moves; the U/S level of the write, respectively the
read, is user. The operand classes are general knowledge (log 24). -/
def Obligations.UserSpaceMoves : Prop :=
  ∀ (i : Size) (g1 g2 : Gen) (s : State),
    i ≠ .u → s.plain = true → s.flagU = false → legal .addr g1 = true → legal .addr g2 = true →
    ∀ a1 a2, addrOf s g1 = some a1 → addrOf s g2 = some a2 →
    let u := s.put a2 i.bytes (s.load a1 i.bytes)
    let v := s.load a1 i.bytes
    Goes (exec (.movsu i g1 g2) s) (fun t => Agrees s (u.retired (nextPc (.movsu i g1 g2) s)) t
      ∧ t.refs.getLast? = some (.mem stData a2 i.bytes true true false v))
    ∧ Goes (exec (.movus i g1 g2) s) (fun t => Agrees s (u.retired (nextPc (.movus i g1 g2) s)) t
      ∧ t.refs.getLast? = some (.mem stData a2 i.bytes true false false v)
      ∧ t.refs.dropLast.getLast? = some (.mem stData a1 i.bytes false true false v))

/-! ### Slave instructions -/

/-- Slave instructions whose gen2 is written with the slave's result (R535 to R537, R539 to R544, R550, R564 to R567,
R570 to R575): with the set enabled and the slave done. The broadcast and the source are sent, the result is read (R522,
R523, R525; the byte after the operation word: log 23). That the unused upper lanes of a byte or word source (MOVif,
CCV3ic) are sent as zero is a choice (D14, log 45). The replies are data of the state (log 22); Format 11 opcodes
without a name run as log 25 says; that MOVLF, MOVFL, CCV4DQ and CCV5QD run with any f and i bits but, for MOVFL and
CCV4DQ, i = 10, is log 12's; the Q operand of CCV4DQ and CCV5QD: log 45 (U28). -/
def Obligations.SlaveMoves : Prop :=
  ∀ (f : FSize) (c : CSize) (i : Size) (x : BitVec 3) (g1 g2 : Gen) (s : State) (lo hi : Word) (rest : List SlaveReply),
    i ≠ .u → s.plain = true → legal .read g1 = true → legal .write g2 = true → s.slaveReplies = .done lo hi :: rest →
    let F := slaveType f.bytes
    let C := slaveType c.bytes
    let I := cpuType i.bytes
    let moves (u : Instr) (t1 t2 : SlaveType) : Prop :=
      CompletesSending u s (slaveMoved s t1 g1 t2 g2 lo hi rest)
        (sendCycles u (sentWords t1 g1 (src s t1.bytes g1)) ++ resultCycles t2 g2 lo hi)
    (s.cfgF = true →
      (∀ p ∈ ([(.movif f i g1 g2, I, F), (.roundfi f i g1 g2, F, I), (.truncfi f i g1 g2, F, I),
        (.floorfi f i g1 g2, F, I), (.movlf x g1 g2, slaveType 8, slaveType 4),
        (.movf f 0#1 g1 g2, F, F), (.negf f 0#1 g1 g2, F, F), (.absf f 0#1 g1 g2, F, F), (.logbf f 0#1 g1 g2, F, F),
        (.slot11at7 f 0#1 g1 g2, F, F), (.slot11at9 f 0#1 g1 g2, F, F), (.slot11at11 f 0#1 g1 g2, F, F),
        (.slot11at15 f 0#1 g1 g2, F, F)] : List (Instr × SlaveType × SlaveType)), moves p.1 p.2.1 p.2.2)
      ∧ (x.setWidth 2 ≠ 2#2 → moves (.movfl x g1 g2) (slaveType 4) (slaveType 8)))
    ∧ (s.cfgC = true → ∀ p ∈ ([(.ccv3ic c i g1 g2, I, C), (.ccv2ci c i g1 g2, C, I), (.ccv1ci c i g1 g2, C, I),
        (.ccv0ci c i g1 g2, C, I), (.ccv5qd x g1 g2, slaveType 8, cpuType 4), (.cmov0 c 0#1 g1 g2, C, C), (.cmov1 c 0#1 g1 g2, C, C), (.cmov2 c 0#1 g1 g2, C, C),
        (.cmov3 c 0#1 g1 g2, C, C)] : List (Instr × SlaveType × SlaveType)), moves p.1 p.2.1 p.2.2)
    ∧ (s.cfgC = true → x.setWidth 2 ≠ 2#2 → moves (.ccv4dq x g1 g2) (cpuType 4) (slaveType 8))

/-- Slave instructions whose gen2 is read and rewritten (R531 to R534, R549, R560 to R563), and those that send both
operands and return nothing when the slave is done (R538, R547, R548, R551, R568, R569), with the cycles of each (R522,
R523, R525; the byte after the operation word: log 23). That a comparison answered `done` leaves the flags as they were
is log 45's; the replies are data of the state (log 22); Format 11 opcodes without a name run as log 25 says. -/
def Obligations.SlaveArithmetic : Prop :=
  ∀ (f : FSize) (c : CSize) (g1 g2 : Gen) (s : State) (lo hi : Word) (rest : List SlaveReply),
    s.plain = true → legal .read g1 = true → s.slaveReplies = .done lo hi :: rest →
    let F := slaveType f.bytes
    let C := slaveType c.bytes
    let both (t : SlaveType) : List Word :=
      sentWords t g1 (src s t.bytes g1) ++ sentWords t g2 (dest s t.bytes g1 t.bytes g2)
    let replaces (t : SlaveType) (u : Instr) : Prop :=
      CompletesSending u s (slaveReplaced s t g1 t g2 lo hi rest) (sendCycles u (both t) ++ resultCycles t g2 lo hi)
    let compares (t : SlaveType) (u : Instr) : Prop :=
      CompletesSending u s (slaveCompared s t g1 t g2 rest) (sendCycles u (both t))
    (legal .rmw g2 = true →
      (s.cfgF = true → ∀ u ∈ [Instr.addf f 0#1 g1 g2, .subf f 0#1 g1 g2, .mulf f 0#1 g1 g2, .divf f 0#1 g1 g2,
          .scalbf f 0#1 g1 g2, .slot11at6 f 0#1 g1 g2, .slot11at14 f 0#1 g1 g2], replaces F u)
      ∧ (s.cfgC = true → ∀ u ∈ [Instr.ccal0 c 0#1 g1 g2, .ccal1 c 0#1 g1 g2, .ccal2 c 0#1 g1 g2, .ccal3 c 0#1 g1 g2],
          replaces C u))
    ∧ (legal .read g2 = true →
      (s.cfgF = true → ∀ u ∈ [Instr.polyf f 0#1 g1 g2, .dotf f 0#1 g1 g2, .cmpf f 0#1 g1 g2, .slot11at3 f 0#1 g1 g2,
          .slot11at10 f 0#1 g1 g2], compares F u)
      ∧ (s.cfgC = true → ∀ u ∈ [Instr.ccmp0 c 0#1 g1 g2, .ccmp1 c 0#1 g1 g2], compares C u))

/-- The status and control register instructions of the slaves (R545, R546, R576 to R579) with the slave done: a
double-word is sent after the broadcast, or the double-word that the slave returns is stored (R522, R523, R525; the byte
after the operation word: log 23). That they run with any f and i bits but i = 10 is log 12's; the replies are data of
the state (log 22). -/
def Obligations.SlaveRegisters : Prop :=
  ∀ (x : BitVec 3) (creg : BitVec 4) (i : BitVec 2) (g : Gen) (s : State) (lo hi : Word) (rest : List SlaveReply),
    s.plain = true → s.slaveReplies = .done lo hi :: rest → x.setWidth 2 ≠ 2#2 → i ≠ 2#2 →
    let sends (u : Instr) : Prop :=
      CompletesSending u s { afterSrc s 4 g with slaveReplies := rest }
        [.slaveWrite 0b11111#5 (broadcastWord u), .slaveWrite 0b11101#5 ((src s 4 g).setWidth 32)]
    let stores (u : Instr) : Prop :=
      CompletesSending u s (written { s with slaveReplies := rest } 4 (lo.setWidth 64) (genLoc s g))
        [.slaveWrite 0b11111#5 (broadcastWord u), .slaveRead 0b11101#5 lo]
    (legal .read g = true →
      (s.cfgF = true → sends (.lfsr x g 0#5))
      ∧ (s.cfgC = true → sends (.lcsr x g 0#5) ∧ (s.flagU = false → sends (.lcr creg i 0#1 g))))
    ∧ (legal .write g = true →
      (s.cfgF = true → stores (.sfsr x 0#5 g))
      ∧ (s.cfgC = true → stores (.scsr x 0#5 g) ∧ (s.flagU = false → stores (.scr creg i 0#1 g))))

/-- An unassigned slave opcode, with its set enabled and the slave done, runs by one of the three notes (R230, R551, R581;
which one is open, U13, log 25); the replies are data of the state (log 22). -/
def Obligations.SlaveSlots : Prop :=
  ∀ (op : BitVec 4) (f : FSize) (c : CSize) (g1 g2 : Gen) (s : State) (lo hi : Word) (rest : List SlaveReply),
    s.plain = true → legal .read g1 = true → legal .write g2 = true → s.slaveReplies = .done lo hi :: rest →
    let F := slaveType f.bytes
    let C := slaveType c.bytes
    (s.cfgF = true →
      Completes (.slot12 op f 0#1 g1 g2) s (slaveMoved s F g1 F g2 lo hi rest)
      ∨ Completes (.slot12 op f 0#1 g1 g2) s (slaveReplaced s F g1 F g2 lo hi rest)
      ∨ Completes (.slot12 op f 0#1 g1 g2) s (slaveCompared s F g1 F g2 rest))
    ∧ (s.cfgC = true →
      Completes (.slot155 op c 0#1 g1 g2) s (slaveMoved s C g1 C g2 lo hi rest)
      ∨ Completes (.slot155 op c 0#1 g1 g2) s (slaveReplaced s C g1 C g2 lo hi rest)
      ∨ Completes (.slot155 op c 0#1 g1 g2) s (slaveCompared s C g1 C g2 rest))

/-- A slave's status word (R526, R528), for every slave instruction. With Q = 1 it ends the instruction in Trap (SLAVE), or
in Trap (UND) if TS is set, with everything as it was, destination and popped stack pointer included. With Q = 0 it loads
N, Z and L and nothing else; that an instruction which is no comparison does so too, its destination left as it was, is
the model's choice (U27, log 45). A slave that never answers stops the machine (R524). The bit positions are general
knowledge (log 23); the replies are data of the state (log 22); opcodes without a name: log 25; forms that ignore their f
and i bits: log 12. -/
def Obligations.SlaveStatus : Prop :=
  ∀ (f : FSize) (c : CSize) (i : Size) (x : BitVec 3) (creg : BitVec 4) (ci : BitVec 2) (op : BitVec 4) (g1 g2 : Gen)
    (s : State) (r : SlaveReply) (rest : List SlaveReply),
    s.plain = true → i ≠ .u → s.slaveReplies = r :: rest →
    let ends (v : Instr) : Prop :=
      (∀ sw, r = .status sw → sw.getLsbD 0 = true →
        Goes (exec v s) (Agrees s (entryState false (if sw.getLsbD 1 then 10#8 else 3#8)
          (if sw.getLsbD 1 then setP false s.psr else s.psr) s.pc { s with slaveReplies := rest })))
      ∧ (r = .silent → exec v s = .fault .slaveSilent)
    let answers (v : Instr) (u : State) : Prop :=
      ends v ∧ ∀ sw, r = .status sw → sw.getLsbD 0 = false →
        Completes v s (({ u with slaveReplies := rest } : State).withPsr
          (setZNL (sw.getLsbD 6) (sw.getLsbD 7) (sw.getLsbD 2)))
    let after1 (n : Nat) : State := afterSrc s n g1
    (legal .read g1 = true → legal .read g2 = true →
      (s.cfgF = true → ∀ v ∈ [Instr.cmpf f 0#1 g1 g2, .polyf f 0#1 g1 g2, .dotf f 0#1 g1 g2, .slot11at3 f 0#1 g1 g2,
          .slot11at10 f 0#1 g1 g2], answers v (afterSrc (after1 f.bytes) f.bytes g2))
      ∧ (s.cfgC = true → ∀ v ∈ [Instr.ccmp0 c 0#1 g1 g2, .ccmp1 c 0#1 g1 g2],
          answers v (afterSrc (after1 c.bytes) c.bytes g2)))
    ∧ (legal .read g1 = true → legal .write g2 = true →
      (s.cfgF = true →
        (∀ v ∈ [Instr.addf f 0#1 g1 g2, .subf f 0#1 g1 g2, .mulf f 0#1 g1 g2, .divf f 0#1 g1 g2, .scalbf f 0#1 g1 g2,
            .slot11at6 f 0#1 g1 g2, .slot11at14 f 0#1 g1 g2, .movf f 0#1 g1 g2, .negf f 0#1 g1 g2, .absf f 0#1 g1 g2,
            .logbf f 0#1 g1 g2, .slot11at7 f 0#1 g1 g2, .slot11at9 f 0#1 g1 g2, .slot11at11 f 0#1 g1 g2,
            .slot11at15 f 0#1 g1 g2, .roundfi f i g1 g2, .truncfi f i g1 g2, .floorfi f i g1 g2],
          answers v (after1 f.bytes))
        ∧ answers (.movif f i g1 g2) (after1 i.bytes) ∧ answers (.movlf x g1 g2) (after1 8)
        ∧ (x.setWidth 2 ≠ 2#2 → answers (.movfl x g1 g2) (after1 4))
        ∧ ends (.slot12 op f 0#1 g1 g2))
      ∧ (s.cfgC = true →
        (∀ v ∈ [Instr.ccal0 c 0#1 g1 g2, .ccal1 c 0#1 g1 g2, .ccal2 c 0#1 g1 g2, .ccal3 c 0#1 g1 g2,
            .cmov0 c 0#1 g1 g2, .cmov1 c 0#1 g1 g2, .cmov2 c 0#1 g1 g2, .cmov3 c 0#1 g1 g2, .ccv0ci c i g1 g2,
            .ccv1ci c i g1 g2, .ccv2ci c i g1 g2], answers v (after1 c.bytes))
        ∧ answers (.ccv3ic c i g1 g2) (after1 i.bytes) ∧ answers (.ccv5qd x g1 g2) (after1 8)
        ∧ (x.setWidth 2 ≠ 2#2 → answers (.ccv4dq x g1 g2) (after1 4))
        ∧ ends (.slot155 op c 0#1 g1 g2)))
    ∧ (x.setWidth 2 ≠ 2#2 → ci ≠ 2#2 →
      (legal .read g1 = true →
        (s.cfgF = true → answers (.lfsr x g1 0#5) (after1 4))
        ∧ (s.cfgC = true → answers (.lcsr x g1 0#5) (after1 4)
          ∧ (s.flagU = false → answers (.lcr creg ci 0#1 g1) (after1 4))))
      ∧ (legal .write g2 = true →
        (s.cfgF = true → answers (.sfsr x 0#5 g2) s)
        ∧ (s.cfgC = true → answers (.scsr x 0#5 g2) s ∧ (s.flagU = false → answers (.scr creg ci 0#1 g2) s))))

/-- With its set disabled every slave instruction ends in Trap (UND) (R521, R628): it has no slave cycle, and the
first reference of all is the push of the PSR copy, so that nothing is read for it. -/
def Obligations.SlaveDisabled : Prop :=
  ∀ (f : FSize) (c : CSize) (i : Size) (x : BitVec 3) (p : BitVec 1) (q : BitVec 5) (op : BitVec 4) (ci : BitVec 2)
    (g1 g2 : Gen) (s : State),
    s.plain = true →
    (s.cfgF = false → ∀ u ∈ [Instr.movif f i g1 g2, .lfsr x g1 q, .movlf x g1 g2, .movfl x g1 g2, .roundfi f i g1 g2,
      .truncfi f i g1 g2, .sfsr x q g2, .floorfi f i g1 g2, .addf f p g1 g2, .movf f p g1 g2, .cmpf f p g1 g2,
      .slot11at3 f p g1 g2, .subf f p g1 g2, .negf f p g1 g2, .slot11at6 f p g1 g2, .slot11at7 f p g1 g2,
      .divf f p g1 g2, .slot11at9 f p g1 g2, .slot11at10 f p g1 g2, .slot11at11 f p g1 g2, .mulf f p g1 g2,
      .absf f p g1 g2, .slot11at14 f p g1 g2, .slot11at15 f p g1 g2, .polyf f p g1 g2, .dotf f p g1 g2,
      .scalbf f p g1 g2, .logbf f p g1 g2, .slot12 op f p g1 g2], TrapsAtOnce u s .und)
    ∧ (s.cfgC = false → ∀ u ∈ [Instr.lcr op ci p g1, .scr op ci p g1, .ccv3ic c i g1 g2, .lcsr x g1 q, .ccv5qd x g1 g2,
      .ccv4dq x g1 g2, .ccv2ci c i g1 g2, .ccv1ci c i g1 g2, .scsr x q g2, .ccv0ci c i g1 g2, .ccal0 c p g1 g2,
      .cmov0 c p g1 g2, .ccmp0 c p g1 g2, .ccmp1 c p g1 g2, .ccal1 c p g1 g2, .cmov2 c p g1 g2, .ccal3 c p g1 g2,
      .cmov3 c p g1 g2, .ccal2 c p g1 g2, .cmov1 c p g1 g2, .slot155 op c p g1 g2], TrapsAtOnce u s .und)

/-! ### Memory, caches and debugging -/

/-- Memory and the data cache. In RAM a byte stored is the byte read back, and every other byte is as before (R82, R83).
A store writes through (R135): memory gets its bytes, a hit delivers them afterwards, hits elsewhere deliver what they
did, and an address that missed still misses. A read of bytes that all hit delivers the cached ones (R132); after a read
of a byte that may be cached and whose board makes no error, the cache holds it unless it is locked (R133, R134). That a
locked cache is written too is the reading of U9 (log 31); the canonical form of memory is log 1's. -/
def Obligations.StoredBytesReadBack : Prop :=
  ∀ (s : State) (a x : Word) (n : Nat) (v : Quad) (failed : Bool) (k : RefKind),
    n ≤ 8 → Memory.wf s.mem = true →
    let inside := decide ((x - a).toNat < n)
    let new := (v >>> (8 * (x - a).toNat)).setWidth 8
    let t := store s a (toBytes n v) failed
    (memGet (s.put a n v).mem x.toNat = if inside then new else memGet s.mem x.toNat)
    ∧ (s.platform.all (·.kind == .ram) = true → t.mem = (s.put a n v).mem)
    ∧ (s.cfgDC = true → dcByte t x = (dcByte s x).map fun b => if inside then new else b)
    ∧ (s.cfgDC = true → k.cached = true → s.pendingError = false →
      ((∀ y : Nat, y < n → (dcByte s (a + BitVec.ofNat 32 y)).isSome = true) →
        ∃ u, readRef k a n s = .ok (ofBytes (bytesFrom (fun y => (dcByte s y).getD 0#8) a n)) u
          ∧ u.busReplies = s.busReplies)
      ∧ (s.busReplies = [] → s.cfgLDC = false → cacheable s (a &&& 0xFFFFFFFC#32) = true → dwordError s (a &&& 0xFFFFFFFC#32) = false →
        (regionAt s.platform a).kind = .ram →
        ∃ w u, readRef k a 1 s = .ok w u ∧ (dcByte u a).isSome = true
          ∧ (dcByte s a = none → w.setWidth 8 = memGet s.mem a.toNat ∧ dcByte u a = some (memGet s.mem a.toNat))))

/-- What a fetch delivers (R105, R113, R121 to R126; the free choice among old and new bytes: U8, log 30). A byte is
one of its candidates: the cached one, an overwritten one, the one in memory; with none of the first two it is what the
bus delivers. A hit leaves the cache as it was and, where nothing was stored since, delivers the cached byte (R122); a
miss that may be cached fills it. A store leaves the old byte of RAM to be fetched still; a serializing instruction
(R110, R373, R375) discards the prefetched ones; CINV those of the instruction cache too, so that the procedure of R113
makes the new bytes certain; turning the cache on by LPRD CFG brings none back. A double-word that the cache holds is
fetched by no bus cycle; the first after a transfer of control or a serializing instruction is fetched with status 01001
at the instruction's own address, the others with 01000 at the double-word's (R140, R150; that serializing starts a new
sequence: log 47). -/
def Obligations.InstructionFetch : Prop :=
  ∀ (s : State) (a : Word) (n : Nat) (d : Disp),
    fetchByte s n a ∈ fetchCandidates s a
    ∧ (icByte s a = none → (∀ e ∈ staleBytes s, e.1 ≠ a) → fetchByte s n a = busByte s a)
    ∧ (∀ c : Byte, icByte s a = some c → icLookup s a = s
        ∧ ((∀ e ∈ staleBytes s, e.1 ≠ a) → ((regionAt s.platform a).kind = .ram → memGet s.mem a.toNat = c) →
          fetchByte s n a = c))
    ∧ (s.cfgIC = true → s.cfgLIC = false → cacheable s (a &&& 0xFFFFFFFC#32) = true →
        dwordError s (a &&& 0xFFFFFFFC#32) = false → icByte s a = none → icByte (icLookup s a) a = some (busByte s a))
    ∧ (∀ (b : Byte) (failed : Bool), (regionAt s.platform a).kind = .ram → memGet s.mem a.toNat ≠ b →
        (a, memGet s.mem a.toNat) ∈ (store s a [b] failed).fetchUnit.prefetched
        ∧ memGet s.mem a.toNat ∈ fetchCandidates (store s a [b] failed) a)
    ∧ (s.plain = true →
      (∀ u ∈ [Instr.dia, .lpr .b .upsr (.mode (.reg 0#3)), .catst0 0x36#16, .svc, .sbiti .b (.mode (.reg 0#3)) (.mode .tos),
          .cbiti .b (.mode (.reg 0#3)) (.mode .tos)], Goes (exec u s) fun t =>
        t.fetchUnit.prefetched = [] ∧ t.icache = s.icache)
      ∧ (s.cfgIC = false → Goes (exec (.lpr .b .upsr (.mode (.reg 0#3))) s) fun t => staleBytes t = [])
      ∧ (s.flagU = false →
        (s.fetchUnit.cached = [] → s.reg 0#3 &&& 0xFFFFE004#32 = 0#32 →
          Goes (exec (.lpr .d .cfg (.mode (.reg 0#3))) s) fun t => staleBytes t = [])
        ∧ ∀ dc : Bool, Goes (exec (.cinv true true dc 0#1 (.mode (.reg 0#3))) s) fun t =>
          staleBytes t = [] ∧ icByte t a = none ∧ fetchByte t n a = memGet s.mem a.toNat))
    ∧ (let cycle (status : BitVec 5) (x : Word) : List Ref :=
        if (icByte s a).isSome then [] else [.fetch status x s.flagU]
      (s.fetchUnit.sequence ≠ .running → fetchCycles (fetchStatus s) s [a] = cycle 0b01001#5 a)
      ∧ (s.fetchUnit.sequence = .running →
          fetchCycles (fetchStatus s) s [a] = cycle 0b01000#5 (a &&& 0xFFFFFFFC#32))
      ∧ (fetched n s).fetchUnit.sequence = .running
      ∧ (s.plain = true →
        Goes (exec .nop s) (fun t => t.fetchUnit = s.fetchUnit)
        ∧ (d.wf = true → ∀ u ∈ [Instr.br d, .bsr d, .dia, .svc, .lpr .b .upsr (.mode (.reg 0#3)), .jump .d (.mode (.abs d))],
            Goes (exec u s) fun t => t.fetchUnit.sequence ≠ .running)))

/-- Debug conditions (R49, R681 to R683), in both modes. An address compare: where it is enabled (DCR.DEN, CAE, and UD or
SD for the mode of the reference) a data write of `MOVi R, @a` to bytes that CAR and the byte enables select sets DSR.BCA
and clears DSR.RD, and makes Trap (DBG) pending if DCR.TR is set; a read sets RD; where none of its bytes is selected, the
mode or the direction is not enabled, and there is no PC match, nothing changes. The write of MOVSUi and the read of
MOVUSi are user references, enabled by UD, the other half of each by SD; a read and a write hit together leave RD clear. A
PC match sets DSR.BPC. The two low bits of CAR are ignored (log 8). -/
def Obligations.AddressCompare : Prop :=
  ∀ (s : State) (i : Size) (d e : Disp) (k : RegNum),
    i ≠ .u → s.plain = true → d.wf = true → e.wf = true →
    let on (user : Bool) : Bool := s.dcr.getLsbD 23 && (if user then s.dcr.getLsbD 21 else s.dcr.getLsbD 22)
    let selected (x : Word) : Bool :=
      x.extractLsb' 2 30 == s.car.extractLsb' 2 30 && s.dcr.getLsbD (x.extractLsb' 0 2).toNat
    let hit (user : Bool) (a : Word) : Bool := on user && s.dcr.getLsbD 7 && anyFrom selected a i.bytes
    let readHit (user : Bool) (a : Word) : Bool := hit user a && s.dcr.getLsbD 6
    let writeHit (user : Bool) (a : Word) : Bool := hit user a && s.dcr.getLsbD 5
    let pcHit : Prop := on s.flagU = true ∧ s.dcr.getLsbD 20 = true ∧ s.pc = s.bpc
    let pending := s.dbgPending || s.dcr.getLsbD 19
    let shows (u : Instr) (rd wr : Bool) : Prop :=
      ((rd || wr) = true → Goes (exec u s) fun t =>
        t.dsr.getLsbD 28 = true ∧ t.dsr.getLsbD 31 = (rd && !wr) ∧ t.dbgPending = pending)
      ∧ ((rd || wr) = false → ¬pcHit → Goes (exec u s) fun t => t.dsr = s.dsr ∧ t.dbgPending = s.dbgPending)
    let abs (x : Disp) : Gen := .mode (.abs x)
    shows (.mov i (abs d) (.mode (.reg k))) (readHit s.flagU d.value) false
    ∧ shows (.mov i (.mode (.reg k)) (abs d)) false (writeHit s.flagU d.value)
    ∧ (s.flagU = false →
      shows (.movsu i (abs d) (abs e)) (readHit false d.value) (writeHit true e.value)
      ∧ shows (.movus i (abs d) (abs e)) (readHit true d.value) (writeHit false e.value))
    ∧ (pcHit → Goes (exec .nop s) fun t => t.dsr = setBit32 s.dsr 30 true ∧ t.dbgPending = pending)
    ∧ (¬pcHit → Goes (exec .nop s) fun t => t.dsr = s.dsr ∧ t.dbgPending = s.dbgPending)

/-- Isolation (R38, R39, R480, R644): a step of a user-mode program on its own stack leaves PSR.U, S and I, SP0,
INTBASE, CFG, DCR, CAR, BPC and all of DSR but the bits that debug conditions set as they were, unless it enters an
exception: then it is in supervisor mode with T, V, S and P cleared, SP0 is eight lower, and I is as it was or cleared.
A bus error in the entry halts the CPU with those of these registers that lie outside PSR and SP0 as they were, the
model's choice (log 54). The frame that is pushed is 8 bytes on both modes (R642); what else may be recognized between
instructions is R690's. For a non-restartable bus error (R625) it is the model's choice (log 27) that INTBASE, CFG, DCR,
CAR, BPC and those bits of DSR stay and that SP0 is exactly eight lower. -/
def Obligations.UserModeIsolation : Prop :=
  ∀ (s t : State),
    s.inv = true → s.inputs = [] → s.flagU = true → s.flagS = true → step s = .next t →
    t.intbase = s.intbase ∧ t.cfg = s.cfg ∧ t.dcr = s.dcr ∧ t.car = s.car ∧ t.bpc = s.bpc
    ∧ t.dsr &&& 0x0FFFFFFF#32 = s.dsr &&& 0x0FFFFFFF#32
    ∧ ((t.flagU = true ∧ t.flagS = true ∧ t.flagI = s.flagI ∧ t.sp0 = s.sp0)
      ∨ (t.afterException = true ∧ t.op = .executing ∧ t.flagU = false ∧ t.flagS = false ∧ t.flagT = false
        ∧ t.flagV = false ∧ t.flagP = false ∧ (t.flagI = s.flagI ∨ t.flagI = false) ∧ t.sp0 = s.sp0 - 8#32)
      ∨ t.op = .halted)
end

