-- ==== Sys2Proof/Laws/Memory.lean ====
section
/-! SUPPORT. Memory: a byte written is the byte read, every other byte stays; every operation keeps the canonical
form; memories in canonical form that read alike are equal. -/

namespace Sys2Proof.Machine

/-! ### One byte -/

theorem memWfFrom_mono {lo lo' : Nat} (h : lo' ≤ lo) {m : List Host.Cell} (hm : memWfFrom lo m = true) :
    memWfFrom lo' m = true := by
  cases m with
  | nil => rfl
  | cons c rest =>
    obtain ⟨k, b⟩ := c
    simp only [memWfFrom, Bool.and_eq_true, decide_eq_true_eq] at hm ⊢
    exact ⟨⟨⟨by omega, hm.1.1.2⟩, hm.1.2⟩, hm.2⟩

/-- Below its first address a canonical memory reads as the default. -/
theorem memGet_below {lo a : Nat} {m : List Host.Cell} (hm : memWfFrom lo m = true) (ha : a < lo) :
    memGet m a = memDefault := by
  induction m generalizing lo with
  | nil => rfl
  | cons c rest ih =>
    obtain ⟨k, b⟩ := c
    simp only [memWfFrom, Bool.and_eq_true, decide_eq_true_eq] at hm
    simp only [memGet]
    rw [if_neg (by omega)]
    exact ih hm.2 (by omega)

theorem memGet_memSet_other (m : List Host.Cell) {a x : Nat} (v : Byte) (h : x ≠ a) :
    memGet (memSet m a v) x = memGet m x := by
  induction m with
  | nil =>
    simp only [memSet]
    split <;> simp [memGet, h]
  | cons c rest ih =>
    obtain ⟨k, b⟩ := c
    simp only [memSet]
    split
    · split <;> simp [memGet, h]
    · split
      · next hk =>
        subst hk
        split <;> simp [memGet, h]
      · simp only [memGet, ih]

theorem memGet_memSet_same {lo : Nat} {m : List Host.Cell} (hm : memWfFrom lo m = true) (a : Nat) (v : Byte) :
    memGet (memSet m a v) a = v := by
  induction m generalizing lo with
  | nil =>
    simp only [memSet]
    split <;> simp_all [memGet]
  | cons c rest ih =>
    obtain ⟨k, b⟩ := c
    simp only [memWfFrom, Bool.and_eq_true, decide_eq_true_eq] at hm
    simp only [memSet]
    split
    · next hlt =>
      split
      · next hv =>
        simp only [memGet]
        rw [if_neg (by omega), memGet_below hm.2 (by omega), hv]
      · simp [memGet]
    · split
      · next hk =>
        subst hk
        split
        · next hv => rw [memGet_below hm.2 (by omega), hv]
        · simp [memGet]
      · next hk =>
        simp only [memGet]
        rw [if_neg hk]
        exact ih hm.2

/-! ### The canonical form -/

theorem memWfFrom_memSet {lo a : Nat} {m : List Host.Cell} (hm : memWfFrom lo m = true) (hlo : lo ≤ a)
    (ha : a < 4294967296) (v : Byte) : memWfFrom lo (memSet m a v) = true := by
  induction m generalizing lo with
  | nil =>
    simp only [memSet]
    split
    · rfl
    · next hv => simp [memWfFrom, hlo, ha, hv]
  | cons c rest ih =>
    obtain ⟨k, b⟩ := c
    have hm' := hm
    simp only [memWfFrom, Bool.and_eq_true, decide_eq_true_eq] at hm
    simp only [memSet]
    split
    · next hlt =>
      split
      · exact hm'
      · next hv =>
        simp only [memWfFrom, Bool.and_eq_true, decide_eq_true_eq]
        exact ⟨⟨⟨hlo, ha⟩, hv⟩, ⟨⟨by omega, hm.1.1.2⟩, hm.1.2⟩, hm.2⟩
    · split
      · next hk =>
        subst hk
        split
        · exact memWfFrom_mono (by omega) hm.2
        · next hv =>
          simp only [memWfFrom, Bool.and_eq_true, decide_eq_true_eq]
          exact ⟨⟨⟨hlo, ha⟩, hv⟩, hm.2⟩
      · simp only [memWfFrom, Bool.and_eq_true, decide_eq_true_eq]
        exact ⟨hm.1, ih hm.2 (by omega)⟩

theorem memSet_wf {m : List Host.Cell} (hm : Memory.wf m = true) (a : Word) (v : Byte) :
    Memory.wf (memSet m a.toNat v) = true := memWfFrom_memSet hm (Nat.zero_le _) a.isLt v

theorem storeByte_wf (p : List Region) {m : List Host.Cell} (hm : Memory.wf m = true) (a : Word) (v : Byte) :
    Memory.wf (storeByte p m a v) = true := by
  unfold storeByte
  split
  · exact memSet_wf hm a v
  · exact hm

theorem storeBytes_wf (p : List Region) {m : List Host.Cell} (hm : Memory.wf m = true) (a : Word) (bs : List Byte) :
    Memory.wf (storeBytes p m a bs) = true := by
  induction bs generalizing m a with
  | nil => exact hm
  | cons b rest ih => exact ih (storeByte_wf p hm a b) _

theorem placeBytes_wf {m : List Host.Cell} (hm : Memory.wf m = true) (a : Word) (bs : List Byte) :
    Memory.wf (placeBytes m a bs) = true := by
  induction bs generalizing m a with
  | nil => exact hm
  | cons b rest ih => exact ih (memSet_wf hm a b) _

theorem store_wf {s : State} (hm : Memory.wf s.mem = true) (a : Word) (bs : List Byte) (failed : Bool) :
    Memory.wf (store s a bs failed).mem = true := storeBytes_wf s.platform hm a bs

theorem undoStores_wf (p : List Region) {m : List Host.Cell} (hm : Memory.wf m = true) (k : Nat)
    (ws : List PendingStore) : Memory.wf (undoStores p m k ws) = true := by
  induction ws generalizing m k with
  | nil => cases k <;> exact hm
  | cons w rest ih =>
    cases k with
    | zero => exact hm
    | succ k => exact ih (storeBytes_wf p hm _ _) k

theorem freeSpan_wf {s : State} (hm : Memory.wf s.mem = true) (x : Word × Nat) :
    Memory.wf (freeSpan s x).mem = true := storeBytes_wf s.platform hm _ _

theorem freeSpans_wf {s : State} (hm : Memory.wf s.mem = true) (xs : List (Word × Nat)) :
    Memory.wf (xs.foldl freeSpan s).mem = true := by
  induction xs generalizing s with
  | nil => exact hm
  | cons x rest ih => exact ih (freeSpan_wf hm x)

/-- What freeing the data cache's copies leaves alone: everything but that cache and the counter of draws (log 32). -/
theorem freeCopies_frame (xs : List (Word × Nat)) (s : State) :
    ∃ dc fc, xs.foldl freeCopies s = { s with dcache := dc, freeCount := fc } := by
  induction xs generalizing s with
  | nil => exact ⟨s.dcache, s.freeCount, rfl⟩
  | cons x rest ih => exact ih (freeCopies s x)

theorem terminate_wf {s0 s : State} (hm : Memory.wf s.mem = true) : Memory.wf (terminate s0 s).mem = true := by
  unfold terminate
  refine freeSpans_wf ?_ _
  obtain ⟨dc, fc, h⟩ := freeCopies_frame
    ((s.writeBuffer.take (Config.freeNat s.freeCount % 3)).map PendingStore.span) _
  rw [h]
  exact undoStores_wf s.platform hm _ _

theorem applyReset_wf {s : State} (hm : Memory.wf s.mem = true) : Memory.wf (applyReset s).mem = true := by
  unfold applyReset
  exact freeSpans_wf (undoStores_wf s.platform hm _ _) _

theorem externalWrites_wf {s : State} (hm : Memory.wf s.mem = true) (ws : List (Word × Byte)) :
    Memory.wf (externalWrites s ws).mem = true := by
  induction ws generalizing s with
  | nil => exact hm
  | cons w rest ih =>
    obtain ⟨a, b⟩ := w
    exact ih (s := externalWrite s a b) (storeByte_wf s.platform hm a b)

/-- What invalidation requests leave alone: everything but the caches and what a fetch may still see (R9; log 43). -/
theorem applyInvalidation_frame (vs : List Invalidation) (s : State) :
    ∃ ic dc sc, vs.foldl applyInvalidation s = { s with icache := ic, dcache := dc, fetchUnit := sc } := by
  induction vs generalizing s with
  | nil => exact ⟨s.icache, s.dcache, s.fetchUnit, rfl⟩
  | cons v rest ih =>
    obtain ⟨ic, dc, sc, h⟩ := ih (applyInvalidation s v)
    refine ⟨ic, dc, sc, ?_⟩
    rw [List.foldl_cons, h]
    unfold applyInvalidation
    cases v.cinve
    · rfl
    · cases v.ic <;> rfl

/-- What writes by another bus master leave alone: everything but memory, what a fetch may still see, and what memory
held under the stores that wait (R126, R137; log 32). -/
theorem externalWrites_frame (ws : List (Word × Byte)) (s : State) :
    ∃ m st wb, externalWrites s ws = { s with mem := m, fetchUnit := st, writeBuffer := wb } := by
  induction ws generalizing s with
  | nil => exact ⟨s.mem, s.fetchUnit, s.writeBuffer, rfl⟩
  | cons w rest ih => exact ih _

/-- What a burst leaves alone: everything but the board's answers (R142). -/
theorem burstRead_frame (a : Word) (ks : List (Fin 4)) (l : Line) (s : State) :
    ∃ br, (burstRead a l s ks).2 = { s with busReplies := br } := by
  induction ks generalizing l s with
  | nil => exact ⟨s.busReplies, rfl⟩
  | cons k rest ih =>
    simp only [burstRead]
    split
    · exact ih _ _
    · exact ⟨_, rfl⟩

/-- What a read of the data cache leaves alone: everything but the cache and the board's answers (R132, R133). -/
theorem dcLookup_frame (s : State) (a : Word) :
    ∃ dc br, dcLookup s a = { s with dcache := dc, busReplies := br } := by
  unfold dcLookup
  simp only []
  split
  · exact ⟨_, s.busReplies, rfl⟩
  · split
    · exact ⟨_, s.busReplies, rfl⟩
    · split
      · exact ⟨s.dcache, _, rfl⟩
      · obtain ⟨br, h⟩ := burstRead_frame a (dataBurst a) _ s
        exact ⟨_, br, by rw [h]⟩

/-- What reading a double-word leaves alone (R82). -/
theorem readCycle_frame (c : Bool) (s : State) (a : Word) :
    ∃ dc br, readCycle c s a = { s with dcache := dc, busReplies := br } := by
  unfold readCycle
  split
  · exact dcLookup_frame s a
  · exact ⟨s.dcache, _, rfl⟩

/-- What a data read leaves alone, but for its bookkeeping (R86). -/
theorem dataReads_frame (c : Bool) (s : State) (a : Word) (n : Nat) :
    ∃ dc br, afterViews (readCycle c) s a n = { s with dcache := dc, busReplies := br } := by
  unfold afterViews
  generalize dwordsOf a n = l
  induction l generalizing s with
  | nil => exact ⟨s.dcache, s.busReplies, rfl⟩
  | cons x rest ih =>
    obtain ⟨dc, br, h⟩ := readCycle_frame c s x
    rw [List.foldl_cons, h]
    exact ih _

/-! ### What a read reference does -/

/-- Waiting for stores takes them out of the write buffer and does nothing else (R101, R104). -/
theorem settleWrites_ok {p : PendingStore → Bool} {s s' : State} {u : Unit} (h : settleWrites p s = .ok u s') :
    ∃ wb, s' = { s with writeBuffer := wb } := by
  unfold settleWrites at h
  simp only [] at h
  split at h <;> cases h
  exact ⟨_, rfl⟩

/-- A read reference that completes changes the write buffer, the data cache and bookkeeping, and lists itself (R82,
R158). -/
theorem readRef_ok {k : RefKind} {a : Word} {n : Nat} {s s' : State} {v : Quad} (h : readRef k a n s = .ok v s') :
    ∃ wb dc br, s' = { s with
      writeBuffer := wb, dcache := dc, busReplies := br, freeCount := s.freeCount + 1
      refs := s.refs ++ [.mem k.status a n false k.user k.interlocked v] } := by
  simp only [readRef, getS, Bind.bind, EStateM.bind] at h
  cases hw : settleWrites (waitsFor (ioRead k.cached s a n) a n) s with
  | error e t => rw [hw] at h; cases h
  | ok u t =>
    rw [hw] at h
    obtain ⟨wb, rfl⟩ := settleWrites_ok hw
    obtain ⟨dc, br, hr⟩ := dataReads_frame k.cached { s with writeBuffer := wb } a n
    simp only [readNow] at h
    rw [hr] at h
    split at h <;> cases h
    exact ⟨wb, dc, br, rfl⟩

/-- The pointer read of Memory Relative mode shows one of two status codes (R82, R91 and R140; R273; log 46). -/
theorem stPointer_cases : stPointer = stAddress ∨ stPointer = stData := by
  unfold stPointer
  split
  · exact .inr rfl
  · exact .inl rfl

/-- A pointer read that completes lists one reference of four bytes with its status (R91, R273, R275). -/
theorem memReadPtr_refs {st : BitVec 5} {a : Word} {s s' : State} {p : Word} (h : memReadPtr st a s = .ok p s') :
    ∃ v : Quad, p = v.setWidth 32 ∧ s'.refs = s.refs ++ [.mem st a 4 false s.flagU false v] := by
  unfold memReadPtr at h
  split at h <;> cases h
  next hr =>
    obtain ⟨wb, dc, br, rfl⟩ := readRef_ok hr
    exact ⟨_, rfl, rfl⟩

/-- Memory Relative mode (R273): one data read of the pointer at disp1 from FP, SP or SB, whatever the operand's class;
the operand lies at disp2 from it. -/
theorem locMode_memRel {r : PtrReg} {d1 d2 : Disp} {s t : State} {l : Loc}
    (h : locMode (.memRel r d1 d2) s = .ok l t) :
    ∃ v : Quad, l = .mem (v.setWidth 32 + d2.value)
      ∧ t.refs = s.refs ++ [.mem stPointer (s.ptrReg r + d1.value) 4 false s.flagU false v] := by
  simp only [locMode, getS, Bind.bind, EStateM.bind] at h
  cases hp : memReadPtr stPointer (s.ptrReg r + d1.value) s with
  | error e u => rw [hp] at h; cases h
  | ok p u =>
    rw [hp] at h
    obtain ⟨v, rfl, hrefs⟩ := memReadPtr_refs hp
    cases h
    exact ⟨v, rfl, hrefs⟩

/-- What a write past the caches leaves alone: everything but the board's answers. -/
theorem writeCycles_frame (s : State) (a : Word) (n : Nat) :
    ∃ br, afterViews plainCycle s a n = { s with busReplies := br } := by
  unfold afterViews
  generalize dwordsOf a n = l
  induction l generalizing s with
  | nil => exact ⟨s.busReplies, rfl⟩
  | cons x rest ih => exact ih (plainCycle s x)

/-- What a fetch leaves alone: everything but the instruction cache and the board's answers (R122 to R124). -/
theorem icLookup_frame (s : State) (a : Word) :
    ∃ ic br, icLookup s a = { s with icache := ic, busReplies := br } := by
  unfold icLookup
  simp only []
  split
  · exact ⟨s.icache, _, rfl⟩
  · split
    · exact ⟨s.icache, s.busReplies, rfl⟩
    · split
      · exact ⟨s.icache, _, rfl⟩
      · obtain ⟨br, h⟩ := burstRead_frame a (codeBurst s a) _ s
        exact ⟨_, br, by rw [h]⟩

/-- With the instruction cache off every double-word is fetched, the first with the status given, the others in sequence
(R140). -/
theorem fetchCycles_off {s : State} (h : s.cfgIC = false) (st : BitVec 5) (a : Word) (rest : List Word) :
    fetchCycles st s (a :: rest)
      = .fetch st (fetchAddress st a) s.flagU
        :: rest.map fun x => .fetch stSequential (x &&& 0xFFFFFFFC#32) s.flagU := by
  induction rest generalizing s st a with
  | nil => simp [fetchCycles, icByte, h]
  | cons x rest ih =>
    have hl : icLookup s a = useReply s := by simp [icLookup, h]
    have hu : (useReply s).flagU = s.flagU := rfl
    rw [fetchCycles, hl, ih (s := useReply s) h]
    simp [icByte, h, hu, fetchAddress]

/-! ### The bytes of a reference -/

/-- Where looking up a double-word changes nothing, all bytes of a reference are read in one state. -/
theorem views_of_fixed {look : State → Word → State} {s : State} (h : ∀ x, look s x = s) (a : Word) (n : Nat) :
    views look s a n = (List.range n).map fun k => (a + BitVec.ofNat 32 k, s) := by
  have key : ∀ n (b : Word), viewsFrom look s s b n = (List.range n).map fun k => (b + BitVec.ofNat 32 k, s) := by
    intro n
    induction n with
    | zero => intro b; rfl
    | succ n ih =>
      intro b
      rw [List.range_succ_eq_map]
      simp only [viewsFrom, h, ih, ite_self, List.map_cons, List.map_map, BitVec.add_zero]
      congr 1
      refine List.map_congr_left fun k _ => ?_
      simp only [Function.comp, Nat.succ_eq_add_one, Prod.mk.injEq, and_true]
      rw [BitVec.add_assoc, Nat.add_comm k 1, BitVec.ofNat_add]
  unfold views
  rw [h, ite_self, key]

theorem afterViews_of_fixed {look : State → Word → State} {s : State} (h : ∀ x, look s x = s) (a : Word) (n : Nat) :
    afterViews look s a n = s := by
  unfold afterViews
  generalize dwordsOf a n = l
  induction l with
  | nil => rfl
  | cons x rest ih => rw [List.foldl_cons, h, ih]

theorem bytesFrom_eq_map (f : Word → Byte) (a : Word) (n : Nat) :
    bytesFrom f a n = (List.range n).map fun k => f (a + BitVec.ofNat 32 k) := by
  induction n generalizing a with
  | zero => rfl
  | succ n ih =>
    rw [List.range_succ_eq_map]
    simp only [bytesFrom, ih, List.map_cons, List.map_map, BitVec.add_zero]
    congr 1
    refine List.map_congr_left fun k _ => ?_
    simp only [Function.comp, Nat.succ_eq_add_one]
    rw [BitVec.add_assoc, Nat.add_comm k 1, BitVec.ofNat_add]

@[simp] theorem views_length (look : State → Word → State) (s : State) (a : Word) (n : Nat) :
    (views look s a n).length = n := by
  have key : ∀ n (cur next : State) (b : Word), (viewsFrom look cur next b n).length = n := by
    intro n
    induction n with
    | zero => intros; rfl
    | succ n ih =>
      intro cur next b
      simp only [viewsFrom]
      split <;> simp [ih]
  exact key n _ _ a

theorem withFetchWord_wf {s : State} (hm : Memory.wf s.mem = true) (nbits w : Nat) :
    Memory.wf (s.withFetchWord nbits w).mem = true := placeBytes_wf hm _ _

theorem reset_memory_wf : Memory.wf State.reset.mem = true := rfl

/-- Memories in canonical form that read alike are equal. -/
theorem memory_ext {lo : Nat} {m m' : List Host.Cell} (hm : memWfFrom lo m = true) (hm' : memWfFrom lo m' = true)
    (h : ∀ a, memGet m a = memGet m' a) : m = m' := by
  induction m generalizing lo m' with
  | nil =>
    cases m' with
    | nil => rfl
    | cons c rest =>
      obtain ⟨k, b⟩ := c
      have := h k
      simp only [memWfFrom, Bool.and_eq_true, decide_eq_true_eq] at hm'
      simp [memGet] at this
      exact absurd this.symm hm'.1.2
  | cons c rest ih =>
    obtain ⟨k, b⟩ := c
    have hm0 := hm
    simp only [memWfFrom, Bool.and_eq_true, decide_eq_true_eq] at hm
    cases m' with
    | nil =>
      have := h k
      simp [memGet] at this
      exact absurd this hm.1.2
    | cons c' rest' =>
      obtain ⟨k', b'⟩ := c'
      have hm0' := hm'
      simp only [memWfFrom, Bool.and_eq_true, decide_eq_true_eq] at hm'
      have hkk : k = k' := by
        rcases Nat.lt_trichotomy k k' with hlt | heq | hgt
        · have := h k
          simp only [memGet, if_true] at this
          rw [if_neg (by omega), memGet_below hm'.2 (by omega)] at this
          exact absurd this hm.1.2
        · exact heq
        · have := h k'
          simp only [memGet, if_true] at this
          rw [if_neg (by omega), memGet_below hm.2 (by omega)] at this
          exact absurd this.symm hm'.1.2
      subst hkk
      have hb : b = b' := by
        have := h k
        simpa [memGet] using this
      subst hb
      congr 1
      refine ih hm.2 hm'.2 fun a => ?_
      by_cases hak : a = k
      · subst hak
        rw [memGet_below hm.2 (by omega), memGet_below hm'.2 (by omega)]
      · have := h a
        simpa [memGet, hak] using this

/-! ### Ranges of addresses -/

theorem anyFrom_iff (p : Word → Bool) (a : Word) (n : Nat) :
    anyFrom p a n = true ↔ ∃ k, k < n ∧ p (a + BitVec.ofNat 32 k) = true := by
  induction n generalizing a with
  | zero => simp [anyFrom]
  | succ n ih =>
    simp only [anyFrom, Bool.or_eq_true, ih]
    constructor
    · rintro (h | ⟨k, hk, h⟩)
      · exact ⟨0, by omega, by simpa using h⟩
      · refine ⟨k + 1, by omega, ?_⟩
        have : a + BitVec.ofNat 32 (k + 1) = a + 1#32 + BitVec.ofNat 32 k := by
          rw [BitVec.add_assoc, Nat.add_comm k 1, BitVec.ofNat_add]
        rwa [this]
    · rintro ⟨k, hk, h⟩
      cases k with
      | zero => exact .inl (by simpa using h)
      | succ k =>
        refine .inr ⟨k, by omega, ?_⟩
        have : a + BitVec.ofNat 32 (k + 1) = a + 1#32 + BitVec.ofNat 32 k := by
          rw [BitVec.add_assoc, Nat.add_comm k 1, BitVec.ofNat_add]
        rwa [← this]

@[simp] theorem bytesFrom_length (f : Word → Byte) (a : Word) (n : Nat) : (bytesFrom f a n).length = n := by
  induction n generalizing a with
  | zero => rfl
  | succ n ih => simp [bytesFrom, ih]

@[simp] theorem toBytes_length (n : Nat) (v : Quad) : (toBytes n v).length = n := by
  induction n generalizing v with
  | zero => rfl
  | succ n ih => simp [toBytes, ih]

@[simp] theorem fetchAll_length (k : Nat) (vs : List (Word × State)) : (fetchAll k vs).length = vs.length := by
  induction vs generalizing k with
  | nil => rfl
  | cons e rest ih => simp [fetchAll, ih]

@[simp] theorem fetchFrom_length (s : State) (a : Word) (n : Nat) : (fetchFrom s a n).length = n := by
  simp [fetchFrom]

end Sys2Proof.Machine
end

