-- ==== Sys2Proof/Laws/Keeps.lean ====
section
/-! SUPPORT. Properties of the state that actions keep however they end: the rules by which a property goes through
the monad, and what the named operations keep of memory. -/

namespace Sys2Proof.Machine

/-- From a state with the property an action leaves one with it, whether it completes or stops. -/
def Keeps (p : State → Prop) {α : Type} (m : M α) : Prop :=
  ∀ s, p s → match m s with
    | .ok _ t => p t
    | .error _ t => p t

variable {p : State → Prop} {α β : Type}

theorem Keeps.pure (a : α) : Keeps p (Pure.pure a : M α) := fun _ h => h

theorem Keeps.bind {m : M α} {k : α → M β} (h : Keeps p m) (hk : ∀ a, Keeps p (k a)) : Keeps p (m >>= k) := by
  intro s hs
  have h1 := h s hs
  cases hm : m s with
  | ok a t =>
    rw [hm] at h1
    have e : (m >>= k) s = k a t := by simp [Bind.bind, EStateM.bind, hm]
    rw [e]
    exact hk a t h1
  | error e t =>
    rw [hm] at h1
    have e : (m >>= k) s = .error e t := by simp [Bind.bind, EStateM.bind, hm]
    rw [e]
    exact h1

theorem Keeps.getS : Keeps p Machine.getS := fun _ h => h

theorem Keeps.stop (e : Stop) : Keeps p (Machine.stop e : M α) := fun _ h => h

theorem Keeps.stopIf (b : Bool) (e : Stop) : Keeps p (Machine.stopIf b e) := by
  intro s h
  unfold Machine.stopIf
  cases b <;> exact h

theorem Keeps.upd {f : State → State} (hf : ∀ s, p s → p (f s)) : Keeps p (Machine.upd f) := fun s h => hf s h

theorem Keeps.updPsr {f : Half → Half} (hf : ∀ s, p s → p { s with psr := f s.psr }) : Keeps p (Machine.updPsr f) :=
  Keeps.upd hf

theorem Keeps.ite {c : Prop} [Decidable c] {m m' : M α} (h : Keeps p m) (h' : Keeps p m') :
    Keeps p (if c then m else m') := by
  split
  · exact h
  · exact h'

/-- A property that does not look at the counter of free values. -/
def BlindToDraws (p : State → Prop) : Prop := ∀ s n, p s → p { s with freeCount := n }

theorem Keeps.drawWord (hp : BlindToDraws p) : Keeps p Machine.drawWord := fun s h => hp s _ h
theorem Keeps.drawBool (hp : BlindToDraws p) : Keeps p Machine.drawBool := fun s h => hp s _ h
theorem Keeps.drawNat (hp : BlindToDraws p) : Keeps p Machine.drawNat := fun s h => hp s _ h

/-- Memory in canonical form. -/
def MemoryWf (s : State) : Prop := Memory.wf s.mem = true

/-- A property that looks at no cache, no pending store and no bookkeeping: it is kept when only those change. -/
theorem MemoryWf.of_mem {s t : State} (h : MemoryWf s) (e : t.mem = s.mem) : MemoryWf t := by
  unfold MemoryWf
  rw [e]
  exact h

theorem settleWrites_keeps_memory (p : PendingStore → Bool) : Keeps MemoryWf (settleWrites p) := by
  intro s h
  unfold settleWrites
  simp only []
  split
  all_goals
    next heq =>
    split at heq
    · cases heq <;> exact h
    · cases heq <;> exact h

theorem serialize_keeps_memory : Keeps MemoryWf serialize :=
  Keeps.bind (settleWrites_keeps_memory _) fun _ => Keeps.upd fun _ h => h

theorem readNow_keeps_memory (k : RefKind) (a : Word) (n : Nat) : Keeps MemoryWf (readNow k a n) := by
  intro s h
  have hm : (afterViews (readCycle k.cached) s a n).mem = s.mem := by
    obtain ⟨dc, br, e⟩ := dataReads_frame k.cached s a n
    rw [e]
  unfold readNow
  simp only []
  split
  all_goals
    next heq =>
    split at heq
    · cases heq <;> exact h.of_mem hm
    · cases heq <;> exact h.of_mem hm

theorem readRef_keeps_memory (k : RefKind) (a : Word) (n : Nat) : Keeps MemoryWf (readRef k a n) :=
  Keeps.bind Keeps.getS fun _ => Keeps.bind (settleWrites_keeps_memory _) fun _ => readNow_keeps_memory k a n

theorem writeRef_keeps_memory (k : RefKind) (a : Word) (n : Nat) (v : Quad) : Keeps MemoryWf (writeRef k a n v) := by
  intro s h
  have hm : (afterViews plainCycle s a n).mem = s.mem := by
    obtain ⟨br, e⟩ := writeCycles_frame s a n
    rw [e]
  unfold writeRef
  simp only []
  split
  all_goals
    next heq =>
    split at heq
    · cases heq <;> exact storeBytes_wf _ (hm ▸ h) _ _
    · cases heq <;> exact storeBytes_wf _ (hm ▸ h) _ _

theorem setSp_mem (s : State) (v : Word) : (s.setSp v).mem = s.mem := by
  unfold State.setSp
  split <;> rfl

theorem push_keeps_memory (n : Nat) (v : Quad) : Keeps MemoryWf (push n v) := by
  refine Keeps.bind (Keeps.upd fun s h => ?_) fun _ => Keeps.bind Keeps.getS fun s => fun t h =>
    writeRef_keeps_memory _ _ _ _ t h
  unfold MemoryWf
  rw [setSp_mem]
  exact h

theorem pop_keeps_memory (n : Nat) : Keeps MemoryWf (pop n) := by
  refine Keeps.bind Keeps.getS fun s => Keeps.bind (fun t h => readRef_keeps_memory _ _ _ t h) fun v =>
    Keeps.bind (Keeps.upd fun t h => ?_) fun _ => Keeps.pure _
  unfold MemoryWf
  rw [setSp_mem]
  exact h

end Sys2Proof.Machine
end

