-- ==== Sys2Proof/Laws/State.lean ====
section
/-! SUPPORT. The fields of a state after each named update: one lemma per field and update. -/

namespace Sys2Proof.Machine

/-- `u` with other bookkeeping: the write buffer, the prefetched bytes, the counter and the references. -/
def State.book (u : State) (wb : List PendingStore) (sc : FetchUnit) (fc : Nat) (rf : List Ref) : State :=
  { u with writeBuffer := wb, fetchUnit := sc, freeCount := fc, refs := rf }

section State_book

variable (s : State) (wb : List PendingStore) (sc : FetchUnit) (fc : Nat) (rf : List Ref)

@[simp] theorem State.book_regs : (s.book wb sc fc rf).regs = s.regs := rfl
@[simp] theorem State.book_pc : (s.book wb sc fc rf).pc = s.pc := rfl
@[simp] theorem State.book_sp0 : (s.book wb sc fc rf).sp0 = s.sp0 := rfl
@[simp] theorem State.book_sp1 : (s.book wb sc fc rf).sp1 = s.sp1 := rfl
@[simp] theorem State.book_fp : (s.book wb sc fc rf).fp = s.fp := rfl
@[simp] theorem State.book_sb : (s.book wb sc fc rf).sb = s.sb := rfl
@[simp] theorem State.book_intbase : (s.book wb sc fc rf).intbase = s.intbase := rfl
@[simp] theorem State.book_mod : (s.book wb sc fc rf).mod = s.mod := rfl
@[simp] theorem State.book_psr : (s.book wb sc fc rf).psr = s.psr := rfl
@[simp] theorem State.book_cfg : (s.book wb sc fc rf).cfg = s.cfg := rfl
@[simp] theorem State.book_dcr : (s.book wb sc fc rf).dcr = s.dcr := rfl
@[simp] theorem State.book_dsr : (s.book wb sc fc rf).dsr = s.dsr := rfl
@[simp] theorem State.book_car : (s.book wb sc fc rf).car = s.car := rfl
@[simp] theorem State.book_bpc : (s.book wb sc fc rf).bpc = s.bpc := rfl
@[simp] theorem State.book_op : (s.book wb sc fc rf).op = s.op := rfl
@[simp] theorem State.book_nmiLatch : (s.book wb sc fc rf).nmiLatch = s.nmiLatch := rfl
@[simp] theorem State.book_dbgLatch : (s.book wb sc fc rf).dbgLatch = s.dbgLatch := rfl
@[simp] theorem State.book_dbgPending : (s.book wb sc fc rf).dbgPending = s.dbgPending := rfl
@[simp] theorem State.book_intLow : (s.book wb sc fc rf).intLow = s.intLow := rfl
@[simp] theorem State.book_midString : (s.book wb sc fc rf).midString = s.midString := rfl
@[simp] theorem State.book_elementRefs : (s.book wb sc fc rf).elementRefs = s.elementRefs := rfl
@[simp] theorem State.book_afterException : (s.book wb sc fc rf).afterException = s.afterException := rfl
@[simp] theorem State.book_writeBuffer : (s.book wb sc fc rf).writeBuffer = wb := rfl
@[simp] theorem State.book_fetchUnit : (s.book wb sc fc rf).fetchUnit = sc := rfl
@[simp] theorem State.book_icache : (s.book wb sc fc rf).icache = s.icache := rfl
@[simp] theorem State.book_dcache : (s.book wb sc fc rf).dcache = s.dcache := rfl
@[simp] theorem State.book_mem : (s.book wb sc fc rf).mem = s.mem := rfl
@[simp] theorem State.book_freeCount : (s.book wb sc fc rf).freeCount = fc := rfl
@[simp] theorem State.book_refs : (s.book wb sc fc rf).refs = rf := rfl
@[simp] theorem State.book_icuReplies : (s.book wb sc fc rf).icuReplies = s.icuReplies := rfl
@[simp] theorem State.book_slaveReplies : (s.book wb sc fc rf).slaveReplies = s.slaveReplies := rfl
@[simp] theorem State.book_busReplies : (s.book wb sc fc rf).busReplies = s.busReplies := rfl
@[simp] theorem State.book_platform : (s.book wb sc fc rf).platform = s.platform := rfl
@[simp] theorem State.book_inputs : (s.book wb sc fc rf).inputs = s.inputs := rfl

end State_book

section State_setReg

variable (s : State) (n : RegNum) (v : Word)

@[simp] theorem State.setReg_pc : (s.setReg n v).pc = s.pc := rfl
@[simp] theorem State.setReg_sp0 : (s.setReg n v).sp0 = s.sp0 := rfl
@[simp] theorem State.setReg_sp1 : (s.setReg n v).sp1 = s.sp1 := rfl
@[simp] theorem State.setReg_fp : (s.setReg n v).fp = s.fp := rfl
@[simp] theorem State.setReg_sb : (s.setReg n v).sb = s.sb := rfl
@[simp] theorem State.setReg_intbase : (s.setReg n v).intbase = s.intbase := rfl
@[simp] theorem State.setReg_mod : (s.setReg n v).mod = s.mod := rfl
@[simp] theorem State.setReg_psr : (s.setReg n v).psr = s.psr := rfl
@[simp] theorem State.setReg_cfg : (s.setReg n v).cfg = s.cfg := rfl
@[simp] theorem State.setReg_dcr : (s.setReg n v).dcr = s.dcr := rfl
@[simp] theorem State.setReg_dsr : (s.setReg n v).dsr = s.dsr := rfl
@[simp] theorem State.setReg_car : (s.setReg n v).car = s.car := rfl
@[simp] theorem State.setReg_bpc : (s.setReg n v).bpc = s.bpc := rfl
@[simp] theorem State.setReg_op : (s.setReg n v).op = s.op := rfl
@[simp] theorem State.setReg_nmiLatch : (s.setReg n v).nmiLatch = s.nmiLatch := rfl
@[simp] theorem State.setReg_dbgLatch : (s.setReg n v).dbgLatch = s.dbgLatch := rfl
@[simp] theorem State.setReg_dbgPending : (s.setReg n v).dbgPending = s.dbgPending := rfl
@[simp] theorem State.setReg_intLow : (s.setReg n v).intLow = s.intLow := rfl
@[simp] theorem State.setReg_midString : (s.setReg n v).midString = s.midString := rfl
@[simp] theorem State.setReg_elementRefs : (s.setReg n v).elementRefs = s.elementRefs := rfl
@[simp] theorem State.setReg_afterException : (s.setReg n v).afterException = s.afterException := rfl
@[simp] theorem State.setReg_writeBuffer : (s.setReg n v).writeBuffer = s.writeBuffer := rfl
@[simp] theorem State.setReg_fetchUnit : (s.setReg n v).fetchUnit = s.fetchUnit := rfl
@[simp] theorem State.setReg_icache : (s.setReg n v).icache = s.icache := rfl
@[simp] theorem State.setReg_dcache : (s.setReg n v).dcache = s.dcache := rfl
@[simp] theorem State.setReg_mem : (s.setReg n v).mem = s.mem := rfl
@[simp] theorem State.setReg_freeCount : (s.setReg n v).freeCount = s.freeCount := rfl
@[simp] theorem State.setReg_refs : (s.setReg n v).refs = s.refs := rfl
@[simp] theorem State.setReg_icuReplies : (s.setReg n v).icuReplies = s.icuReplies := rfl
@[simp] theorem State.setReg_slaveReplies : (s.setReg n v).slaveReplies = s.slaveReplies := rfl
@[simp] theorem State.setReg_busReplies : (s.setReg n v).busReplies = s.busReplies := rfl
@[simp] theorem State.setReg_platform : (s.setReg n v).platform = s.platform := rfl
@[simp] theorem State.setReg_inputs : (s.setReg n v).inputs = s.inputs := rfl

end State_setReg

section State_setSp

variable (s : State) (v : Word)

@[simp] theorem State.setSp_regs : (s.setSp v).regs = s.regs := by unfold State.setSp; split <;> rfl
@[simp] theorem State.setSp_pc : (s.setSp v).pc = s.pc := by unfold State.setSp; split <;> rfl
@[simp] theorem State.setSp_fp : (s.setSp v).fp = s.fp := by unfold State.setSp; split <;> rfl
@[simp] theorem State.setSp_sb : (s.setSp v).sb = s.sb := by unfold State.setSp; split <;> rfl
@[simp] theorem State.setSp_intbase : (s.setSp v).intbase = s.intbase := by unfold State.setSp; split <;> rfl
@[simp] theorem State.setSp_mod : (s.setSp v).mod = s.mod := by unfold State.setSp; split <;> rfl
@[simp] theorem State.setSp_psr : (s.setSp v).psr = s.psr := by unfold State.setSp; split <;> rfl
@[simp] theorem State.setSp_cfg : (s.setSp v).cfg = s.cfg := by unfold State.setSp; split <;> rfl
@[simp] theorem State.setSp_dcr : (s.setSp v).dcr = s.dcr := by unfold State.setSp; split <;> rfl
@[simp] theorem State.setSp_dsr : (s.setSp v).dsr = s.dsr := by unfold State.setSp; split <;> rfl
@[simp] theorem State.setSp_car : (s.setSp v).car = s.car := by unfold State.setSp; split <;> rfl
@[simp] theorem State.setSp_bpc : (s.setSp v).bpc = s.bpc := by unfold State.setSp; split <;> rfl
@[simp] theorem State.setSp_op : (s.setSp v).op = s.op := by unfold State.setSp; split <;> rfl
@[simp] theorem State.setSp_nmiLatch : (s.setSp v).nmiLatch = s.nmiLatch := by unfold State.setSp; split <;> rfl
@[simp] theorem State.setSp_dbgLatch : (s.setSp v).dbgLatch = s.dbgLatch := by unfold State.setSp; split <;> rfl
@[simp] theorem State.setSp_dbgPending : (s.setSp v).dbgPending = s.dbgPending := by unfold State.setSp; split <;> rfl
@[simp] theorem State.setSp_intLow : (s.setSp v).intLow = s.intLow := by unfold State.setSp; split <;> rfl
@[simp] theorem State.setSp_midString : (s.setSp v).midString = s.midString := by unfold State.setSp; split <;> rfl
@[simp] theorem State.setSp_elementRefs : (s.setSp v).elementRefs = s.elementRefs := by unfold State.setSp; split <;> rfl
@[simp] theorem State.setSp_afterException : (s.setSp v).afterException = s.afterException := by unfold State.setSp; split <;> rfl
@[simp] theorem State.setSp_writeBuffer : (s.setSp v).writeBuffer = s.writeBuffer := by unfold State.setSp; split <;> rfl
@[simp] theorem State.setSp_fetchUnit : (s.setSp v).fetchUnit = s.fetchUnit := by unfold State.setSp; split <;> rfl
@[simp] theorem State.setSp_icache : (s.setSp v).icache = s.icache := by unfold State.setSp; split <;> rfl
@[simp] theorem State.setSp_dcache : (s.setSp v).dcache = s.dcache := by unfold State.setSp; split <;> rfl
@[simp] theorem State.setSp_mem : (s.setSp v).mem = s.mem := by unfold State.setSp; split <;> rfl
@[simp] theorem State.setSp_freeCount : (s.setSp v).freeCount = s.freeCount := by unfold State.setSp; split <;> rfl
@[simp] theorem State.setSp_refs : (s.setSp v).refs = s.refs := by unfold State.setSp; split <;> rfl
@[simp] theorem State.setSp_icuReplies : (s.setSp v).icuReplies = s.icuReplies := by unfold State.setSp; split <;> rfl
@[simp] theorem State.setSp_slaveReplies : (s.setSp v).slaveReplies = s.slaveReplies := by unfold State.setSp; split <;> rfl
@[simp] theorem State.setSp_busReplies : (s.setSp v).busReplies = s.busReplies := by unfold State.setSp; split <;> rfl
@[simp] theorem State.setSp_platform : (s.setSp v).platform = s.platform := by unfold State.setSp; split <;> rfl
@[simp] theorem State.setSp_inputs : (s.setSp v).inputs = s.inputs := by unfold State.setSp; split <;> rfl

end State_setSp

section State_put

variable (s : State) (a : Word) (n : Nat) (v : Quad)

@[simp] theorem State.put_regs : (s.put a n v).regs = s.regs := rfl
@[simp] theorem State.put_pc : (s.put a n v).pc = s.pc := rfl
@[simp] theorem State.put_sp0 : (s.put a n v).sp0 = s.sp0 := rfl
@[simp] theorem State.put_sp1 : (s.put a n v).sp1 = s.sp1 := rfl
@[simp] theorem State.put_fp : (s.put a n v).fp = s.fp := rfl
@[simp] theorem State.put_sb : (s.put a n v).sb = s.sb := rfl
@[simp] theorem State.put_intbase : (s.put a n v).intbase = s.intbase := rfl
@[simp] theorem State.put_mod : (s.put a n v).mod = s.mod := rfl
@[simp] theorem State.put_psr : (s.put a n v).psr = s.psr := rfl
@[simp] theorem State.put_cfg : (s.put a n v).cfg = s.cfg := rfl
@[simp] theorem State.put_dcr : (s.put a n v).dcr = s.dcr := rfl
@[simp] theorem State.put_dsr : (s.put a n v).dsr = s.dsr := rfl
@[simp] theorem State.put_car : (s.put a n v).car = s.car := rfl
@[simp] theorem State.put_bpc : (s.put a n v).bpc = s.bpc := rfl
@[simp] theorem State.put_op : (s.put a n v).op = s.op := rfl
@[simp] theorem State.put_nmiLatch : (s.put a n v).nmiLatch = s.nmiLatch := rfl
@[simp] theorem State.put_dbgLatch : (s.put a n v).dbgLatch = s.dbgLatch := rfl
@[simp] theorem State.put_dbgPending : (s.put a n v).dbgPending = s.dbgPending := rfl
@[simp] theorem State.put_intLow : (s.put a n v).intLow = s.intLow := rfl
@[simp] theorem State.put_midString : (s.put a n v).midString = s.midString := rfl
@[simp] theorem State.put_elementRefs : (s.put a n v).elementRefs = s.elementRefs := rfl
@[simp] theorem State.put_afterException : (s.put a n v).afterException = s.afterException := rfl
@[simp] theorem State.put_writeBuffer : (s.put a n v).writeBuffer = s.writeBuffer := rfl
@[simp] theorem State.put_fetchUnit : (s.put a n v).fetchUnit = s.fetchUnit := rfl
@[simp] theorem State.put_icache : (s.put a n v).icache = s.icache := rfl
@[simp] theorem State.put_dcache : (s.put a n v).dcache = s.dcache := rfl
@[simp] theorem State.put_mem : (s.put a n v).mem = storeBytes [] s.mem a (toBytes n v) := rfl
@[simp] theorem State.put_freeCount : (s.put a n v).freeCount = s.freeCount := rfl
@[simp] theorem State.put_refs : (s.put a n v).refs = s.refs := rfl
@[simp] theorem State.put_icuReplies : (s.put a n v).icuReplies = s.icuReplies := rfl
@[simp] theorem State.put_slaveReplies : (s.put a n v).slaveReplies = s.slaveReplies := rfl
@[simp] theorem State.put_busReplies : (s.put a n v).busReplies = s.busReplies := rfl
@[simp] theorem State.put_platform : (s.put a n v).platform = s.platform := rfl
@[simp] theorem State.put_inputs : (s.put a n v).inputs = s.inputs := rfl

end State_put

section State_regPut

variable (s : State) (n : Nat) (k : RegNum) (v : Quad)

@[simp] theorem State.regPut_pc : (s.regPut n k v).pc = s.pc := rfl
@[simp] theorem State.regPut_sp0 : (s.regPut n k v).sp0 = s.sp0 := rfl
@[simp] theorem State.regPut_sp1 : (s.regPut n k v).sp1 = s.sp1 := rfl
@[simp] theorem State.regPut_fp : (s.regPut n k v).fp = s.fp := rfl
@[simp] theorem State.regPut_sb : (s.regPut n k v).sb = s.sb := rfl
@[simp] theorem State.regPut_intbase : (s.regPut n k v).intbase = s.intbase := rfl
@[simp] theorem State.regPut_mod : (s.regPut n k v).mod = s.mod := rfl
@[simp] theorem State.regPut_psr : (s.regPut n k v).psr = s.psr := rfl
@[simp] theorem State.regPut_cfg : (s.regPut n k v).cfg = s.cfg := rfl
@[simp] theorem State.regPut_dcr : (s.regPut n k v).dcr = s.dcr := rfl
@[simp] theorem State.regPut_dsr : (s.regPut n k v).dsr = s.dsr := rfl
@[simp] theorem State.regPut_car : (s.regPut n k v).car = s.car := rfl
@[simp] theorem State.regPut_bpc : (s.regPut n k v).bpc = s.bpc := rfl
@[simp] theorem State.regPut_op : (s.regPut n k v).op = s.op := rfl
@[simp] theorem State.regPut_nmiLatch : (s.regPut n k v).nmiLatch = s.nmiLatch := rfl
@[simp] theorem State.regPut_dbgLatch : (s.regPut n k v).dbgLatch = s.dbgLatch := rfl
@[simp] theorem State.regPut_dbgPending : (s.regPut n k v).dbgPending = s.dbgPending := rfl
@[simp] theorem State.regPut_intLow : (s.regPut n k v).intLow = s.intLow := rfl
@[simp] theorem State.regPut_midString : (s.regPut n k v).midString = s.midString := rfl
@[simp] theorem State.regPut_elementRefs : (s.regPut n k v).elementRefs = s.elementRefs := rfl
@[simp] theorem State.regPut_afterException : (s.regPut n k v).afterException = s.afterException := rfl
@[simp] theorem State.regPut_writeBuffer : (s.regPut n k v).writeBuffer = s.writeBuffer := rfl
@[simp] theorem State.regPut_fetchUnit : (s.regPut n k v).fetchUnit = s.fetchUnit := rfl
@[simp] theorem State.regPut_icache : (s.regPut n k v).icache = s.icache := rfl
@[simp] theorem State.regPut_dcache : (s.regPut n k v).dcache = s.dcache := rfl
@[simp] theorem State.regPut_mem : (s.regPut n k v).mem = s.mem := rfl
@[simp] theorem State.regPut_freeCount : (s.regPut n k v).freeCount = s.freeCount := rfl
@[simp] theorem State.regPut_refs : (s.regPut n k v).refs = s.refs := rfl
@[simp] theorem State.regPut_icuReplies : (s.regPut n k v).icuReplies = s.icuReplies := rfl
@[simp] theorem State.regPut_slaveReplies : (s.regPut n k v).slaveReplies = s.slaveReplies := rfl
@[simp] theorem State.regPut_busReplies : (s.regPut n k v).busReplies = s.busReplies := rfl
@[simp] theorem State.regPut_platform : (s.regPut n k v).platform = s.platform := rfl
@[simp] theorem State.regPut_inputs : (s.regPut n k v).inputs = s.inputs := rfl

end State_regPut

section State_retired

variable (s : State) (a : Word)

@[simp] theorem State.retired_regs : (s.retired a).regs = s.regs := rfl
@[simp] theorem State.retired_pc : (s.retired a).pc = a := rfl
@[simp] theorem State.retired_sp0 : (s.retired a).sp0 = s.sp0 := rfl
@[simp] theorem State.retired_sp1 : (s.retired a).sp1 = s.sp1 := rfl
@[simp] theorem State.retired_fp : (s.retired a).fp = s.fp := rfl
@[simp] theorem State.retired_sb : (s.retired a).sb = s.sb := rfl
@[simp] theorem State.retired_intbase : (s.retired a).intbase = s.intbase := rfl
@[simp] theorem State.retired_mod : (s.retired a).mod = s.mod := rfl
@[simp] theorem State.retired_psr : (s.retired a).psr = s.psr := rfl
@[simp] theorem State.retired_cfg : (s.retired a).cfg = s.cfg := rfl
@[simp] theorem State.retired_dcr : (s.retired a).dcr = s.dcr := rfl
@[simp] theorem State.retired_dsr : (s.retired a).dsr = s.dsr := rfl
@[simp] theorem State.retired_car : (s.retired a).car = s.car := rfl
@[simp] theorem State.retired_bpc : (s.retired a).bpc = s.bpc := rfl
@[simp] theorem State.retired_op : (s.retired a).op = s.op := rfl
@[simp] theorem State.retired_nmiLatch : (s.retired a).nmiLatch = s.nmiLatch := rfl
@[simp] theorem State.retired_dbgLatch : (s.retired a).dbgLatch = s.dbgLatch := rfl
@[simp] theorem State.retired_dbgPending : (s.retired a).dbgPending = s.dbgPending := rfl
@[simp] theorem State.retired_intLow : (s.retired a).intLow = s.intLow := rfl
@[simp] theorem State.retired_midString : (s.retired a).midString = false := rfl
@[simp] theorem State.retired_elementRefs : (s.retired a).elementRefs = s.elementRefs := rfl
@[simp] theorem State.retired_afterException : (s.retired a).afterException = false := rfl
@[simp] theorem State.retired_writeBuffer : (s.retired a).writeBuffer = s.writeBuffer := rfl
@[simp] theorem State.retired_fetchUnit : (s.retired a).fetchUnit = s.fetchUnit := rfl
@[simp] theorem State.retired_icache : (s.retired a).icache = s.icache := rfl
@[simp] theorem State.retired_dcache : (s.retired a).dcache = s.dcache := rfl
@[simp] theorem State.retired_mem : (s.retired a).mem = s.mem := rfl
@[simp] theorem State.retired_freeCount : (s.retired a).freeCount = s.freeCount := rfl
@[simp] theorem State.retired_refs : (s.retired a).refs = s.refs := rfl
@[simp] theorem State.retired_icuReplies : (s.retired a).icuReplies = s.icuReplies := rfl
@[simp] theorem State.retired_slaveReplies : (s.retired a).slaveReplies = s.slaveReplies := rfl
@[simp] theorem State.retired_busReplies : (s.retired a).busReplies = s.busReplies := rfl
@[simp] theorem State.retired_platform : (s.retired a).platform = s.platform := rfl
@[simp] theorem State.retired_inputs : (s.retired a).inputs = s.inputs := rfl

end State_retired

section State_withPsr

variable (s : State) (f : Half → Half)

@[simp] theorem State.withPsr_regs : (s.withPsr f).regs = s.regs := rfl
@[simp] theorem State.withPsr_pc : (s.withPsr f).pc = s.pc := rfl
@[simp] theorem State.withPsr_sp0 : (s.withPsr f).sp0 = s.sp0 := rfl
@[simp] theorem State.withPsr_sp1 : (s.withPsr f).sp1 = s.sp1 := rfl
@[simp] theorem State.withPsr_fp : (s.withPsr f).fp = s.fp := rfl
@[simp] theorem State.withPsr_sb : (s.withPsr f).sb = s.sb := rfl
@[simp] theorem State.withPsr_intbase : (s.withPsr f).intbase = s.intbase := rfl
@[simp] theorem State.withPsr_mod : (s.withPsr f).mod = s.mod := rfl
@[simp] theorem State.withPsr_psr : (s.withPsr f).psr = f s.psr := rfl
@[simp] theorem State.withPsr_cfg : (s.withPsr f).cfg = s.cfg := rfl
@[simp] theorem State.withPsr_dcr : (s.withPsr f).dcr = s.dcr := rfl
@[simp] theorem State.withPsr_dsr : (s.withPsr f).dsr = s.dsr := rfl
@[simp] theorem State.withPsr_car : (s.withPsr f).car = s.car := rfl
@[simp] theorem State.withPsr_bpc : (s.withPsr f).bpc = s.bpc := rfl
@[simp] theorem State.withPsr_op : (s.withPsr f).op = s.op := rfl
@[simp] theorem State.withPsr_nmiLatch : (s.withPsr f).nmiLatch = s.nmiLatch := rfl
@[simp] theorem State.withPsr_dbgLatch : (s.withPsr f).dbgLatch = s.dbgLatch := rfl
@[simp] theorem State.withPsr_dbgPending : (s.withPsr f).dbgPending = s.dbgPending := rfl
@[simp] theorem State.withPsr_intLow : (s.withPsr f).intLow = s.intLow := rfl
@[simp] theorem State.withPsr_midString : (s.withPsr f).midString = s.midString := rfl
@[simp] theorem State.withPsr_elementRefs : (s.withPsr f).elementRefs = s.elementRefs := rfl
@[simp] theorem State.withPsr_afterException : (s.withPsr f).afterException = s.afterException := rfl
@[simp] theorem State.withPsr_writeBuffer : (s.withPsr f).writeBuffer = s.writeBuffer := rfl
@[simp] theorem State.withPsr_fetchUnit : (s.withPsr f).fetchUnit = s.fetchUnit := rfl
@[simp] theorem State.withPsr_icache : (s.withPsr f).icache = s.icache := rfl
@[simp] theorem State.withPsr_dcache : (s.withPsr f).dcache = s.dcache := rfl
@[simp] theorem State.withPsr_mem : (s.withPsr f).mem = s.mem := rfl
@[simp] theorem State.withPsr_freeCount : (s.withPsr f).freeCount = s.freeCount := rfl
@[simp] theorem State.withPsr_refs : (s.withPsr f).refs = s.refs := rfl
@[simp] theorem State.withPsr_icuReplies : (s.withPsr f).icuReplies = s.icuReplies := rfl
@[simp] theorem State.withPsr_slaveReplies : (s.withPsr f).slaveReplies = s.slaveReplies := rfl
@[simp] theorem State.withPsr_busReplies : (s.withPsr f).busReplies = s.busReplies := rfl
@[simp] theorem State.withPsr_platform : (s.withPsr f).platform = s.platform := rfl
@[simp] theorem State.withPsr_inputs : (s.withPsr f).inputs = s.inputs := rfl

end State_withPsr

section State_popped

variable (s : State) (n : Nat)

@[simp] theorem State.popped_regs : (s.popped n).regs = s.regs := by simp [State.popped]
@[simp] theorem State.popped_pc : (s.popped n).pc = s.pc := by simp [State.popped]
@[simp] theorem State.popped_fp : (s.popped n).fp = s.fp := by simp [State.popped]
@[simp] theorem State.popped_sb : (s.popped n).sb = s.sb := by simp [State.popped]
@[simp] theorem State.popped_intbase : (s.popped n).intbase = s.intbase := by simp [State.popped]
@[simp] theorem State.popped_mod : (s.popped n).mod = s.mod := by simp [State.popped]
@[simp] theorem State.popped_psr : (s.popped n).psr = s.psr := by simp [State.popped]
@[simp] theorem State.popped_cfg : (s.popped n).cfg = s.cfg := by simp [State.popped]
@[simp] theorem State.popped_dcr : (s.popped n).dcr = s.dcr := by simp [State.popped]
@[simp] theorem State.popped_dsr : (s.popped n).dsr = s.dsr := by simp [State.popped]
@[simp] theorem State.popped_car : (s.popped n).car = s.car := by simp [State.popped]
@[simp] theorem State.popped_bpc : (s.popped n).bpc = s.bpc := by simp [State.popped]
@[simp] theorem State.popped_op : (s.popped n).op = s.op := by simp [State.popped]
@[simp] theorem State.popped_nmiLatch : (s.popped n).nmiLatch = s.nmiLatch := by simp [State.popped]
@[simp] theorem State.popped_dbgLatch : (s.popped n).dbgLatch = s.dbgLatch := by simp [State.popped]
@[simp] theorem State.popped_dbgPending : (s.popped n).dbgPending = s.dbgPending := by simp [State.popped]
@[simp] theorem State.popped_intLow : (s.popped n).intLow = s.intLow := by simp [State.popped]
@[simp] theorem State.popped_midString : (s.popped n).midString = s.midString := by simp [State.popped]
@[simp] theorem State.popped_elementRefs : (s.popped n).elementRefs = s.elementRefs := by simp [State.popped]
@[simp] theorem State.popped_afterException : (s.popped n).afterException = s.afterException := by simp [State.popped]
@[simp] theorem State.popped_writeBuffer : (s.popped n).writeBuffer = s.writeBuffer := by simp [State.popped]
@[simp] theorem State.popped_fetchUnit : (s.popped n).fetchUnit = s.fetchUnit := by simp [State.popped]
@[simp] theorem State.popped_icache : (s.popped n).icache = s.icache := by simp [State.popped]
@[simp] theorem State.popped_dcache : (s.popped n).dcache = s.dcache := by simp [State.popped]
@[simp] theorem State.popped_mem : (s.popped n).mem = s.mem := by simp [State.popped]
@[simp] theorem State.popped_freeCount : (s.popped n).freeCount = s.freeCount := by simp [State.popped]
@[simp] theorem State.popped_refs : (s.popped n).refs = s.refs := by simp [State.popped]
@[simp] theorem State.popped_icuReplies : (s.popped n).icuReplies = s.icuReplies := by simp [State.popped]
@[simp] theorem State.popped_slaveReplies : (s.popped n).slaveReplies = s.slaveReplies := by simp [State.popped]
@[simp] theorem State.popped_busReplies : (s.popped n).busReplies = s.busReplies := by simp [State.popped]
@[simp] theorem State.popped_platform : (s.popped n).platform = s.platform := by simp [State.popped]
@[simp] theorem State.popped_inputs : (s.popped n).inputs = s.inputs := by simp [State.popped]

end State_popped

section State_pushed

variable (s : State) (n : Nat) (v : Quad)

@[simp] theorem State.pushed_regs : (s.pushed n v).regs = s.regs := by simp [State.pushed]
@[simp] theorem State.pushed_pc : (s.pushed n v).pc = s.pc := by simp [State.pushed]
@[simp] theorem State.pushed_fp : (s.pushed n v).fp = s.fp := by simp [State.pushed]
@[simp] theorem State.pushed_sb : (s.pushed n v).sb = s.sb := by simp [State.pushed]
@[simp] theorem State.pushed_intbase : (s.pushed n v).intbase = s.intbase := by simp [State.pushed]
@[simp] theorem State.pushed_mod : (s.pushed n v).mod = s.mod := by simp [State.pushed]
@[simp] theorem State.pushed_psr : (s.pushed n v).psr = s.psr := by simp [State.pushed]
@[simp] theorem State.pushed_cfg : (s.pushed n v).cfg = s.cfg := by simp [State.pushed]
@[simp] theorem State.pushed_dcr : (s.pushed n v).dcr = s.dcr := by simp [State.pushed]
@[simp] theorem State.pushed_dsr : (s.pushed n v).dsr = s.dsr := by simp [State.pushed]
@[simp] theorem State.pushed_car : (s.pushed n v).car = s.car := by simp [State.pushed]
@[simp] theorem State.pushed_bpc : (s.pushed n v).bpc = s.bpc := by simp [State.pushed]
@[simp] theorem State.pushed_op : (s.pushed n v).op = s.op := by simp [State.pushed]
@[simp] theorem State.pushed_nmiLatch : (s.pushed n v).nmiLatch = s.nmiLatch := by simp [State.pushed]
@[simp] theorem State.pushed_dbgLatch : (s.pushed n v).dbgLatch = s.dbgLatch := by simp [State.pushed]
@[simp] theorem State.pushed_dbgPending : (s.pushed n v).dbgPending = s.dbgPending := by simp [State.pushed]
@[simp] theorem State.pushed_intLow : (s.pushed n v).intLow = s.intLow := by simp [State.pushed]
@[simp] theorem State.pushed_midString : (s.pushed n v).midString = s.midString := by simp [State.pushed]
@[simp] theorem State.pushed_elementRefs : (s.pushed n v).elementRefs = s.elementRefs := by simp [State.pushed]
@[simp] theorem State.pushed_afterException : (s.pushed n v).afterException = s.afterException := by simp [State.pushed]
@[simp] theorem State.pushed_writeBuffer : (s.pushed n v).writeBuffer = s.writeBuffer := by simp [State.pushed]
@[simp] theorem State.pushed_fetchUnit : (s.pushed n v).fetchUnit = s.fetchUnit := by simp [State.pushed]
@[simp] theorem State.pushed_icache : (s.pushed n v).icache = s.icache := by simp [State.pushed]
@[simp] theorem State.pushed_dcache : (s.pushed n v).dcache = s.dcache := by simp [State.pushed]
@[simp] theorem State.pushed_freeCount : (s.pushed n v).freeCount = s.freeCount := by simp [State.pushed]
@[simp] theorem State.pushed_refs : (s.pushed n v).refs = s.refs := by simp [State.pushed]
@[simp] theorem State.pushed_icuReplies : (s.pushed n v).icuReplies = s.icuReplies := by simp [State.pushed]
@[simp] theorem State.pushed_slaveReplies : (s.pushed n v).slaveReplies = s.slaveReplies := by simp [State.pushed]
@[simp] theorem State.pushed_busReplies : (s.pushed n v).busReplies = s.busReplies := by simp [State.pushed]
@[simp] theorem State.pushed_platform : (s.pushed n v).platform = s.platform := by simp [State.pushed]
@[simp] theorem State.pushed_inputs : (s.pushed n v).inputs = s.inputs := by simp [State.pushed]

end State_pushed

/-! ### Registers and stack pointers -/

@[simp] theorem State.setReg_reg_same (s : State) (n : RegNum) (v : Word) : (s.setReg n v).reg n = v := by
  simp [State.setReg, State.reg]

theorem State.setReg_reg_other (s : State) {n k : RegNum} (v : Word) (h : k ≠ n) : (s.setReg n v).reg k = s.reg k := by
  have h' : n.toNat ≠ k.toNat := fun e => h (BitVec.eq_of_toNat_eq e.symm)
  simp [State.setReg, State.reg, h']

@[simp] theorem State.setSp_flagS (s : State) (v : Word) : (s.setSp v).flagS = s.flagS := by simp [State.flagS]

@[simp] theorem State.setSp_sp (s : State) (v : Word) : (s.setSp v).sp = v := by
  unfold State.setSp
  cases h : s.flagS <;> simp [State.sp, State.flagS] at * <;> simp [h]

@[simp] theorem State.setSp_reg (s : State) (v : Word) (n : RegNum) : (s.setSp v).reg n = s.reg n := by simp [State.reg]

@[simp] theorem State.setReg_sp (s : State) (n : RegNum) (v : Word) : (s.setReg n v).sp = s.sp := by
  simp [State.sp, State.flagS]

@[simp] theorem State.put_sp (s : State) (a : Word) (n : Nat) (v : Quad) : (s.put a n v).sp = s.sp := by
  simp [State.sp, State.flagS]

@[simp] theorem State.put_reg (s : State) (a : Word) (n : Nat) (v : Quad) (k : RegNum) : (s.put a n v).reg k = s.reg k := by
  simp [State.reg]

@[simp] theorem State.book_sp (s : State) (wb sc fc rf) : (s.book wb sc fc rf).sp = s.sp := rfl
@[simp] theorem State.book_reg (s : State) (wb sc fc rf) (k : RegNum) : (s.book wb sc fc rf).reg k = s.reg k := rfl
@[simp] theorem State.book_flagS (s : State) (wb sc fc rf) : (s.book wb sc fc rf).flagS = s.flagS := rfl
@[simp] theorem State.book_flagU (s : State) (wb sc fc rf) : (s.book wb sc fc rf).flagU = s.flagU := rfl
@[simp] theorem State.book_flagC (s : State) (wb sc fc rf) : (s.book wb sc fc rf).flagC = s.flagC := rfl
@[simp] theorem State.book_flagV (s : State) (wb sc fc rf) : (s.book wb sc fc rf).flagV = s.flagV := rfl
@[simp] theorem State.book_flagF (s : State) (wb sc fc rf) : (s.book wb sc fc rf).flagF = s.flagF := rfl
@[simp] theorem State.book_cfgDC (s : State) (wb sc fc rf) : (s.book wb sc fc rf).cfgDC = s.cfgDC := rfl
@[simp] theorem State.book_cfgDE (s : State) (wb sc fc rf) : (s.book wb sc fc rf).cfgDE = s.cfgDE := rfl
@[simp] theorem State.book_load (s : State) (wb sc fc rf) (a : Word) (n : Nat) :
    (s.book wb sc fc rf).load a n = s.load a n := rfl
@[simp] theorem State.book_load32 (s : State) (wb sc fc rf) (a : Word) :
    (s.book wb sc fc rf).load32 a = s.load32 a := rfl
@[simp] theorem State.book_modAddr (s : State) (wb sc fc rf) : (s.book wb sc fc rf).modAddr = s.modAddr := rfl
@[simp] theorem State.book_ptrReg (s : State) (wb sc fc rf) (r : PtrReg) :
    (s.book wb sc fc rf).ptrReg r = s.ptrReg r := by cases r <;> rfl
@[simp] theorem State.book_spaceReg (s : State) (wb sc fc rf) (r : SpaceReg) :
    (s.book wb sc fc rf).spaceReg r = s.spaceReg r := by cases r <;> rfl
@[simp] theorem State.book_ram (s : State) (wb sc fc rf) : (s.book wb sc fc rf).ram = s.ram := rfl
@[simp] theorem State.book_book (s : State) (wb sc fc rf wb' sc' fc' rf') :
    (s.book wb sc fc rf).book wb' sc' fc' rf' = s.book wb' sc' fc' rf' := rfl
theorem State.book_self (s : State) : s.book s.writeBuffer s.fetchUnit s.freeCount s.refs = s := rfl

@[simp] theorem State.setReg_ram (s : State) (n : RegNum) (v : Word) : (s.setReg n v).ram = s.ram := rfl
@[simp] theorem State.regPut_ram (s : State) (n : Nat) (k : RegNum) (v : Quad) : (s.regPut n k v).ram = s.ram := rfl
@[simp] theorem State.put_ram (s : State) (a : Word) (n : Nat) (v : Quad) : (s.put a n v).ram = s.ram := rfl
@[simp] theorem State.setSp_ram (s : State) (v : Word) : (s.setSp v).ram = s.ram := by
  simp [State.ram, State.cfgDC]
@[simp] theorem State.popped_ram (s : State) (n : Nat) : (s.popped n).ram = s.ram := by simp [State.popped]
@[simp] theorem State.pushed_ram (s : State) (n : Nat) (v : Quad) : (s.pushed n v).ram = s.ram := by
  simp [State.pushed]
@[simp] theorem State.withPsr_ram (s : State) (f : Half → Half) : (s.withPsr f).ram = s.ram := rfl

end Sys2Proof.Machine
end

