-- ==== Sys2Proof/Laws/Plain.lean ====
section
/-! SUPPORT. In a state whose memory is RAM (no bus errors, data cache off) every operand operation completes and does what
the pure functions of Safety.lean say; the bookkeeping fields are gathered in `State.book`. -/

namespace Sys2Proof.Machine

/-! ### Regions and bytes -/

theorem regionAt_ok {p : List Region} (h : p.all (fun r => r.kind == .ram && !r.readError && !r.writeError) = true)
    (a : Word) : (regionAt p a).kind = .ram ∧ (regionAt p a).readError = false ∧ (regionAt p a).writeError = false := by
  induction p with
  | nil => simp [regionAt, defaultRegion]
  | cons r rest ih =>
    simp only [List.all_cons, Bool.and_eq_true] at h
    unfold regionAt
    split
    · simpa [and_assoc] using h.1
    · exact ih h.2

theorem ram_parts {s : State} (h : s.ram = true) :
    s.platform.all (fun r => r.kind == .ram && !r.readError && !r.writeError) = true ∧ s.cfgDC = false
      ∧ s.busReplies = [] := by
  simpa [State.ram, and_assoc] using h

theorem plain_ram {s : State} (h : s.plain = true) : s.ram = true := by
  simp only [State.plain, Bool.and_eq_true] at h
  exact h.1

theorem plain_pendingError {s : State} (h : s.plain = true) : s.pendingError = false := by
  simpa [State.plain] using (Bool.and_eq_true _ _ ▸ h : s.ram = true ∧ (!s.pendingError) = true).2

theorem ram_region {s : State} (h : s.ram = true) (a : Word) :
    (regionAt s.platform a).kind = .ram ∧ (regionOf s a).readError = false ∧ (regionOf s a).writeError = false := by
  obtain ⟨hp, -, hb⟩ := ram_parts h
  simpa [regionOf, hb] using regionAt_ok hp a

theorem ram_cfgDC {s : State} (h : s.ram = true) : s.cfgDC = false := (ram_parts h).2.1

theorem useReply_ram {s : State} (h : s.ram = true) : useReply s = s := by
  have hb := (ram_parts h).2.2
  cases s
  simp_all [useReply]

theorem readCycle_ram {s : State} (h : s.ram = true) (c : Bool) (a : Word) : readCycle c s a = s := by
  simp [readCycle, ram_cfgDC h, plainCycle, useReply_ram h]

theorem readByte_ram {s : State} (h : s.ram = true) (c : Bool) (a : Word) :
    readByte c s a = memGet s.mem a.toNat := by
  simp [readByte, ram_cfgDC h, busByte, (ram_region h a).1]

theorem anyFrom_false {p : Word → Bool} (hp : ∀ a, p a = false) (a : Word) (n : Nat) : anyFrom p a n = false := by
  induction n generalizing a with
  | zero => rfl
  | succ n ih => simp [anyFrom, hp, ih]

theorem storeBytes_plain {p : List Region}
    (h : p.all (fun r => r.kind == .ram && !r.readError && !r.writeError) = true) (m : List Host.Cell) (a : Word)
    (bs : List Byte) : storeBytes p m a bs = storeBytes [] m a bs := by
  induction bs generalizing m a with
  | nil => rfl
  | cons b rest ih =>
    simp only [storeBytes, ih, storeByte, (regionAt_ok h a).1]
    rfl

/-! ### Actions followed on the pure state -/

/-- `t` is `u` but for the bookkeeping, and no write in its buffer failed. -/
def Sim (u t : State) : Prop := ∃ wb sc fc rf, wb.any (·.failed) = false ∧ t = u.book wb sc fc rf

theorem Sim.refl {s : State} (h : s.pendingError = false) : Sim s s := ⟨_, _, _, _, h, (State.book_self s).symm⟩

/-- From every state that is `u` but for the bookkeeping, the action answers, with a value and a pure state that
satisfy `P`. -/
def Reaches {α : Type} (m : M α) (u : State) (P : α → State → Prop) : Prop :=
  ∀ t, Sim u t → ∃ a u' t', m t = .ok a t' ∧ Sim u' t' ∧ P a u'

theorem Reaches.bind {α β : Type} {m : M α} {k : α → M β} {u : State} {P : α → State → Prop} {Q : β → State → Prop}
    (h : Reaches m u P) (hk : ∀ a u', P a u' → Reaches (k a) u' Q) : Reaches (m >>= k) u Q := by
  intro t ht
  obtain ⟨a, u', t', h1, h2, h3⟩ := h t ht
  obtain ⟨b, u'', t'', h4, h5, h6⟩ := hk a u' h3 t' h2
  exact ⟨b, u'', t'', by simp [Bind.bind, EStateM.bind, h1, h4], h5, h6⟩

theorem Reaches.pure {α : Type} {a : α} {u : State} {P : α → State → Prop} (h : P a u) :
    Reaches (Pure.pure a : M α) u P := fun t ht => ⟨a, u, t, rfl, ht, h⟩

/-- Reading the state: what follows may use every field of `u`. -/
theorem Reaches.getS {β : Type} {k : State → M β} {u : State} {Q : β → State → Prop}
    (hk : ∀ wb sc fc rf, Reaches (k (u.book wb sc fc rf)) u Q) : Reaches (Machine.getS >>= k) u Q := by
  intro t ht
  obtain ⟨wb, sc, fc, rf, hw, rfl⟩ := ht
  exact hk wb sc fc rf _ ⟨wb, sc, fc, rf, hw, rfl⟩

/-- A change of the state that does not look at the bookkeeping. -/
theorem Reaches.upd {f : State → State} {u u' : State} {Q : Unit → State → Prop}
    (hf : ∀ wb sc fc rf, f (u.book wb sc fc rf) = u'.book wb sc fc rf) (h : Q () u') :
    Reaches (Machine.upd f) u Q := by
  intro t ht
  obtain ⟨wb, sc, fc, rf, hw, rfl⟩ := ht
  exact ⟨(), u', _, rfl, ⟨wb, sc, fc, rf, hw, hf wb sc fc rf⟩, h⟩

theorem Reaches.updPsr {f : Half → Half} {u : State} {Q : Unit → State → Prop} (h : Q () (u.withPsr f)) :
    Reaches (Machine.updPsr f) u Q :=
  Reaches.upd (fun _ _ _ _ => rfl) h

theorem Reaches.mono {α : Type} {m : M α} {u : State} {P Q : α → State → Prop} (h : Reaches m u P)
    (hq : ∀ a u', P a u' → Q a u') : Reaches m u Q := by
  intro t ht
  obtain ⟨a, u', t', h1, h2, h3⟩ := h t ht
  exact ⟨a, u', t', h1, h2, hq a u' h3⟩

/-! ### References -/

theorem any_of_suffix {wb : List PendingStore} (hw : wb.any (·.failed) = false) {l : List PendingStore}
    (hl : ∀ w ∈ l, w ∈ wb) : l.any (·.failed) = false := by
  rw [List.any_eq_false] at hw ⊢
  exact fun w h => hw w (hl w h)

/-- Waiting for stores of which none failed. -/
theorem settleWrites_plain (u : State) (p : PendingStore → Bool) :
    Reaches (settleWrites p) u fun _ u' => u' = u := by
  rintro _ ⟨wb, sc, fc, rf, hw, rfl⟩
  have h1 := any_of_suffix hw (l := wb.drop (wb.takeWhile fun w => !p w).length) fun w h => List.mem_of_mem_drop h
  refine ⟨(), u, u.book (wb.takeWhile fun w => !p w) sc fc rf, ?_, ⟨_, _, _, _, ?_, rfl⟩, rfl⟩
  · simp [settleWrites, h1]
    rfl
  · exact any_of_suffix hw fun w h => List.takeWhile_subset _ h

theorem drain_plain (u : State) : Reaches drain u fun _ u' => u' = u := settleWrites_plain u _

theorem serialize_plain (u : State) : Reaches serialize u fun _ u' => u' = u := by
  refine Reaches.bind (drain_plain u) ?_
  rintro _ u rfl
  rintro _ ⟨wb, sc, fc, rf, hw, rfl⟩
  exact ⟨(), u, _, rfl, ⟨wb, { sc.restart with prefetched := [] }, fc, rf, hw, rfl⟩, rfl⟩

theorem readNow_plain {u : State} (h : u.ram = true) (k : RefKind) (a : Word) (n : Nat) :
    Reaches (readNow k a n) u fun v u' => v = u.load a n ∧ u' = u := by
  rintro _ ⟨wb, sc, fc, rf, hw, rfl⟩
  have hp : (u.book wb sc fc rf).ram = true := h
  have hv : dataViews k.cached (u.book wb sc fc rf) a n
      = (List.range n).map fun j => (a + BitVec.ofNat 32 j, u.book wb sc fc rf) :=
    views_of_fixed (readCycle_ram hp k.cached) a n
  have hb : ((dataViews k.cached (u.book wb sc fc rf) a n).map fun e => readByte k.cached e.2 e.1)
      = bytesFrom (fun x => memGet u.mem x.toNat) a n := by
    rw [hv, bytesFrom_eq_map, List.map_map]
    exact List.map_congr_left fun j _ => readByte_ram hp _ _
  have he : ((dataViews k.cached (u.book wb sc fc rf) a n).any fun e => readErrorAt k.cached e.2 e.1) = false := by
    rw [hv]
    simp [readErrorAt, fun x => (ram_region hp x).2.1]
  refine ⟨u.load a n, u, u.book wb sc (fc + 1) (rf ++ [.mem k.status a n false k.user k.interlocked (u.load a n)]),
    ?_, ⟨_, _, _, _, hw, rfl⟩, rfl, rfl⟩
  unfold readNow
  simp only [hb, he, afterViews_of_fixed (readCycle_ram hp k.cached), Bool.false_eq_true, if_false]
  rfl

theorem readRef_plain {u : State} (h : u.ram = true) (k : RefKind) (a : Word) (n : Nat) :
    Reaches (readRef k a n) u fun v u' => v = u.load a n ∧ u' = u := by
  refine Reaches.getS fun wb sc fc rf => Reaches.bind (settleWrites_plain u _) ?_
  rintro _ _ rfl
  exact readNow_plain h k a n

theorem writeRef_plain {u : State} (h : u.ram = true) (k : RefKind) (a : Word) (n : Nat) (v : Quad) :
    Reaches (writeRef k a n v) u fun _ u' => u' = u.put a n v := by
  rintro _ ⟨wb, sc, fc, rf, hw, rfl⟩
  have hp : (u.book wb sc fc rf).ram = true := h
  have hl : ∀ x, plainCycle (u.book wb sc fc rf) x = u.book wb sc fc rf := fun _ => useReply_ram hp
  have he : ((views plainCycle (u.book wb sc fc rf) a n).any fun e => (regionOf e.2 e.1).writeError) = false := by
    rw [views_of_fixed hl]
    simp [fun x => (ram_region hp x).2.2]
  let r : Ref := .mem k.status a n true k.user k.interlocked v
  let t : State := { u.book wb sc fc rf with refs := rf ++ [r] }
  let t' := store t a (toBytes n v) false
  have hf : t'.writeBuffer.any (·.failed) = false := by simpa [t', t, store] using hw
  have hc : t.cfgDC = false := ram_cfgDC (s := t) h
  refine ⟨(), u.put a n v, { t' with writeBuffer := t'.writeBuffer.take 2 }, ?_, ?_, rfl⟩
  · unfold writeRef
    simp only [he, afterViews_of_fixed hl]
    have hd : (t'.writeBuffer.drop 2).any (·.failed) = false := any_of_suffix hf fun w h => List.mem_of_mem_drop h
    exact if_neg (by
      change ¬((t'.writeBuffer.drop 2).any (·.failed)) = true
      rw [hd]
      decide)
  · refine ⟨t'.writeBuffer.take 2, t'.fetchUnit, fc, rf ++ [r], any_of_suffix hf fun w h => List.mem_of_mem_take h, ?_⟩
    simp only [t', store, hc, State.put, State.book]
    simp [t, storeBytes_plain (ram_parts h).1]

theorem memRead_plain {u : State} (h : u.ram = true) (a : Word) (n : Nat) :
    Reaches (memRead a n) u fun v u' => v = u.load a n ∧ u' = u := fun t ht => readRef_plain h _ a n t ht

theorem memReadRmw_plain {u : State} (h : u.ram = true) (a : Word) (n : Nat) :
    Reaches (memReadRmw a n) u fun v u' => v = u.load a n ∧ u' = u := fun t ht => readRef_plain h _ a n t ht

theorem memWrite_plain {u : State} (h : u.ram = true) (a : Word) (n : Nat) (v : Quad) :
    Reaches (memWrite a n v) u fun _ u' => u' = u.put a n v := fun t ht => writeRef_plain h _ a n v t ht

theorem memReadPtr_plain {u : State} (h : u.ram = true) (st : BitVec 5) (a : Word) :
    Reaches (memReadPtr st a) u fun v u' => v = u.load32 a ∧ u' = u := by
  intro t ht
  obtain ⟨v, u', t', h1, h2, rfl, rfl⟩ := readRef_plain h ⟨st, t.flagU, false, true⟩ a 4 t ht
  exact ⟨_, u', t', by simp only [memReadPtr, h1]; rfl, h2, rfl, rfl⟩

theorem memRead32_plain {u : State} (h : u.ram = true) (a : Word) :
    Reaches (memRead32 a) u fun v u' => v = u.load32 a ∧ u' = u := by
  refine Reaches.bind (memRead_plain h a 4) ?_
  rintro _ _ ⟨rfl, rfl⟩
  exact Reaches.pure ⟨rfl, rfl⟩

theorem memRead16_plain {u : State} (h : u.ram = true) (a : Word) :
    Reaches (memRead16 a) u fun v u' => v = (u.load a 2).setWidth 16 ∧ u' = u := by
  refine Reaches.bind (memRead_plain h a 2) ?_
  rintro _ _ ⟨rfl, rfl⟩
  exact Reaches.pure ⟨rfl, rfl⟩

theorem setSp_book (u : State) (wb sc fc rf) (v : Word) :
    (u.book wb sc fc rf).setSp v = (u.setSp v).book wb sc fc rf := by
  unfold State.setSp
  cases h : u.flagS <;> simp [h] <;> rfl

theorem setSp_upd {u : State} (f : State → Word) (hf : ∀ wb sc fc rf, f (u.book wb sc fc rf) = f u)
    {Q : Unit → State → Prop} (h : Q () (u.setSp (f u))) : Reaches (upd fun s => s.setSp (f s)) u Q :=
  Reaches.upd (fun wb sc fc rf => by rw [hf, setSp_book]) h

theorem push_plain {u : State} (h : u.ram = true) (n : Nat) (v : Quad) :
    Reaches (push n v) u fun _ u' => u' = u.pushed n v := by
  refine Reaches.bind (setSp_upd (fun s => s.sp - BitVec.ofNat 32 n) (by simp) (Q := fun _ u' => u' = _) rfl) ?_
  rintro _ _ rfl
  refine Reaches.getS fun wb sc fc rf => ?_
  refine (memWrite_plain (by simpa using h) _ n v).mono ?_
  rintro _ _ rfl
  simp [State.pushed]

theorem pop_plain {u : State} (h : u.ram = true) (n : Nat) :
    Reaches (pop n) u fun v u' => v = u.load u.sp n ∧ u' = u.popped n := by
  refine Reaches.getS fun wb sc fc rf => ?_
  refine Reaches.bind (memRead_plain h _ n) ?_
  rintro _ _ ⟨rfl, rfl⟩
  refine Reaches.bind (setSp_upd (fun s => s.sp + BitVec.ofNat 32 n) (by simp) (Q := fun _ u' => u' = _) rfl) ?_
  rintro _ _ rfl
  exact Reaches.pure ⟨by simp, rfl⟩

/-! ### Operands -/

theorem locMode_plain {u : State} (h : u.ram = true) (m : Mode) :
    Reaches (locMode m) u fun l u' => l = modeLoc u m ∧ u' = u := by
  cases m with
  | reg n => exact Reaches.pure ⟨rfl, rfl⟩
  | regRel n d => exact Reaches.getS fun wb sc fc rf => Reaches.pure ⟨by simp [modeLoc], rfl⟩
  | memRel r d1 d2 =>
    refine Reaches.getS fun wb sc fc rf => ?_
    refine Reaches.bind (memReadPtr_plain h _ _) ?_
    rintro _ _ ⟨rfl, rfl⟩
    exact Reaches.pure ⟨by simp [modeLoc], rfl⟩
  | imm v => exact Reaches.pure ⟨rfl, rfl⟩
  | abs d => exact Reaches.pure ⟨rfl, rfl⟩
  | ext d1 d2 =>
    refine Reaches.getS fun wb sc fc rf => ?_
    refine Reaches.bind (memReadPtr_plain h _ _) ?_
    rintro _ _ ⟨rfl, rfl⟩
    refine Reaches.bind (memReadPtr_plain h _ _) ?_
    rintro _ _ ⟨rfl, rfl⟩
    exact Reaches.pure ⟨by simp [modeLoc], rfl⟩
  | tos => exact Reaches.pure ⟨rfl, rfl⟩
  | space r d => exact Reaches.getS fun wb sc fc rf => Reaches.pure ⟨by simp [modeLoc], rfl⟩

theorem indexBase_book (u : State) (wb sc fc rf) (l : Loc) : indexBase (u.book wb sc fc rf) l = indexBase u l := by
  cases l <;> rfl

theorem locGen_plain {u : State} (h : u.ram = true) {a : Access} {g : Gen} (hg : legal a g = true) :
    Reaches (locGen g) u fun l u' => l = genLoc u g ∧ u' = u := by
  cases g with
  | mode m => exact locMode_plain h m
  | idx sc n m =>
    refine Reaches.bind (locMode_plain h m) ?_
    rintro _ _ ⟨rfl, rfl⟩
    exact Reaches.getS fun wb sc fc rf => Reaches.pure ⟨by simp [genLoc, indexBase_book], rfl⟩
  | reserved => simp [legal, Operand.illegal] at hg
  | idxBad sc n c => simp [legal, Operand.illegal] at hg

theorem readLoc_plain {u : State} (h : u.ram = true) (n : Nat) (l : Loc) :
    Reaches (readLoc n l) u fun v u' => v = locValue u n l ∧ u' = afterRead u n l := by
  cases l with
  | reg k => exact Reaches.getS fun wb sc fc rf => Reaches.pure ⟨rfl, rfl⟩
  | imm v => exact Reaches.pure ⟨rfl, rfl⟩
  | mem a => exact memRead_plain h a n
  | tos => exact pop_plain h n

theorem readOp_plain {u : State} (h : u.ram = true) {a : Access} {g : Gen} (hg : legal a g = true) (n : Nat) :
    Reaches (readOp g n) u fun v u' => v = src u n g ∧ u' = afterSrc u n g := by
  refine Reaches.bind (locGen_plain h hg) ?_
  rintro _ _ ⟨rfl, rfl⟩
  exact readLoc_plain h n _

theorem readRmw_plain {u : State} (h : u.ram = true) (n : Nat) (l : Loc) :
    Reaches (readRmw n l) u fun v u' => v = locValue u n l ∧ u' = u := by
  cases l with
  | reg k => exact Reaches.getS fun wb sc fc rf => Reaches.pure ⟨rfl, rfl⟩
  | imm v => exact Reaches.pure ⟨rfl, rfl⟩
  | mem a => exact memReadRmw_plain h a n
  | tos => exact Reaches.getS fun wb sc fc rf => memReadRmw_plain h _ n

theorem writeReg_plain (u : State) (n : Nat) (k : RegNum) (v : Quad) :
    Reaches (writeReg n k v) u fun _ u' => u' = u.regPut n k v :=
  Reaches.upd (fun _ _ _ _ => rfl) rfl

theorem writeLoc_plain {u : State} (h : u.ram = true) (n : Nat) (v : Quad) {l : Loc} (hl : ∀ w, l ≠ .imm w) :
    Reaches (writeLoc n v l) u fun _ u' => u' = written u n v l := by
  cases l with
  | reg k => exact writeReg_plain u n k v
  | imm w => exact absurd rfl (hl w)
  | mem a => exact memWrite_plain h a n v
  | tos => exact push_plain h n v

theorem writeRmw_plain {u : State} (h : u.ram = true) (n : Nat) (v : Quad) {l : Loc} (hl : ∀ w, l ≠ .imm w) :
    Reaches (writeRmw n v l) u fun _ u' => u' = rewritten u n v l := by
  cases l with
  | reg k => exact writeReg_plain u n k v
  | imm w => exact absurd rfl (hl w)
  | mem a => exact memWrite_plain h a n v
  | tos => exact Reaches.getS fun wb sc fc rf => memWrite_plain h _ n v

/-- An operand of another class than read is no immediate. -/
theorem genLoc_not_imm {u : State} {a : Access} (ha : a ≠ .read) {g : Gen} (hg : legal a g = true) (w : Quad) :
    genLoc u g ≠ .imm w := by
  cases g with
  | mode m => cases m <;> simp [genLoc, modeLoc, legal, Operand.illegal, ha] at *
  | idx sc n m => simp [genLoc]
  | reserved => simp [legal, Operand.illegal] at hg
  | idxBad sc n c => simp [legal, Operand.illegal] at hg

theorem afterRead_ram (u : State) (n : Nat) (l : Loc) : (afterRead u n l).ram = u.ram := by
  cases l <;> simp [afterRead]

theorem afterSrc_ram (u : State) (n : Nat) (g : Gen) : (afterSrc u n g).ram = u.ram := afterRead_ram u n _

/-- Two operands, gen1 read and gen2 replaced (R264). -/
theorem readModify_plain {u : State} (h : u.ram = true) {n1 n2 w1 w2 : Nat} {g1 g2 : Gen}
    (h1 : legal .read g1 = true) (h2 : legal .rmw g2 = true) {f : State → BitVec w2 → BitVec w1 → M (Result w2)}
    {P : Result w2 → Prop}
    (hf : ∀ wb sc fc rf, let u1 := afterSrc u n1 g1
      Reaches (f (u1.book wb sc fc rf) ((dest u n1 g1 n2 g2).setWidth w2) ((src u n1 g1).setWidth w1)) u1
        fun r u' => P r ∧ u' = u1) :
    Reaches (readModify n1 n2 w1 w2 g1 g2 f) u fun d u' => ∃ r, P r ∧ d = { overflow := r.overflow } ∧
      u' = (replaced u n1 g1 n2 g2 (r.value.setWidth 64)).withPsr r.psr := by
  have hp : (afterSrc u n1 g1).ram = true := by rw [afterSrc_ram, h]
  refine Reaches.bind (readOp_plain h h1 n1) ?_
  rintro _ _ ⟨rfl, rfl⟩
  refine Reaches.bind (locGen_plain hp h2) ?_
  rintro _ _ ⟨rfl, rfl⟩
  refine Reaches.bind (readRmw_plain hp n2 _) ?_
  rintro _ _ ⟨rfl, rfl⟩
  refine Reaches.getS fun wb sc fc rf => ?_
  refine Reaches.bind (hf wb sc fc rf) ?_
  rintro r _ ⟨hr, rfl⟩
  refine Reaches.bind (writeRmw_plain hp n2 _ (genLoc_not_imm (by decide) h2)) ?_
  rintro _ _ rfl
  refine Reaches.bind (Reaches.updPsr (Q := fun _ u' => u' = _) rfl) ?_
  rintro _ _ rfl
  exact Reaches.pure ⟨r, hr, rfl, rfl⟩

/-- Two operands, gen1 read and gen2 written (R264). -/
theorem readWrite_plain {u : State} (h : u.ram = true) {n1 n2 w1 w2 : Nat} {g1 g2 : Gen}
    (h1 : legal .read g1 = true) (h2 : legal .write g2 = true) {f : BitVec w1 → M (Result w2)} {r : Result w2}
    (hf : f ((src u n1 g1).setWidth w1) = pure r) :
    Reaches (readWrite n1 n2 w1 w2 g1 g2 f) u fun d u' => d = { overflow := r.overflow } ∧
      u' = (moved u n1 g1 n2 g2 fun _ => r.value.setWidth 64).withPsr r.psr := by
  have hp : (afterSrc u n1 g1).ram = true := by rw [afterSrc_ram, h]
  refine Reaches.bind (readOp_plain h h1 n1) ?_
  rintro _ _ ⟨rfl, rfl⟩
  refine Reaches.bind (locGen_plain hp h2) ?_
  rintro _ _ ⟨rfl, rfl⟩
  rw [hf]
  refine Reaches.bind (Reaches.pure (P := fun r' u' => r' = r ∧ u' = afterSrc u n1 g1) ⟨rfl, rfl⟩) ?_
  rintro _ _ ⟨rfl, rfl⟩
  refine Reaches.bind (writeLoc_plain hp n2 _ (genLoc_not_imm (by decide) h2)) ?_
  rintro _ _ rfl
  refine Reaches.bind (Reaches.updPsr (Q := fun _ u' => u' = _) rfl) ?_
  rintro _ _ rfl
  exact Reaches.pure ⟨rfl, rfl⟩

/-! ### A whole instruction -/

theorem setBit32_and {w m : Word} {k : Nat} (b : Bool) (h : (1#32 <<< k) &&& m = 0#32) :
    setBit32 w k b &&& m = w &&& m := by
  have hx : ∀ x : Word, x &&& m = 0#32 → (w ||| x) &&& m = w &&& m := by
    intro x hx
    rw [BitVec.and_comm, BitVec.and_or_distrib_left, BitVec.and_comm m x, hx, BitVec.or_zero, BitVec.and_comm]
  have hy : ∀ x : Word, x &&& m = 0#32 → (w &&& ~~~x) &&& m = w &&& m := by
    intro x hx
    ext i hi
    have := congrArg (fun y => y.getLsbD i) hx
    simp at this
    simp
    cases hw : w[i] <;> cases hm : m[i] <;> simp_all
  unfold setBit32
  split
  · exact hx _ h
  · exact hy _ h

/-- Committing debug conditions touches only DSR[31], DSR[30], DSR[28] and the pending Trap (DBG) (R49, R686). -/
theorem commitDebug_eq (d : DebugRegs) (r w p : Bool) (s : State) :
    ∃ x b, commitDebug d r w p s = { s with dsr := x, dbgPending := b } ∧ x &&& 0x2FFFFFFF#32 = s.dsr &&& 0x2FFFFFFF#32
      ∧ (r = false → w = false → p = false → x = s.dsr ∧ b = s.dbgPending) := by
  refine ⟨_, _, rfl, ?_, ?_⟩
  · cases p <;> cases r <;> cases w <;>
      simp [setBit32_and (m := 0x2FFFFFFF#32) (k := 28) true (by decide),
        setBit32_and (m := 0x2FFFFFFF#32) (k := 30) true (by decide),
        setBit32_and (m := 0x2FFFFFFF#32) (k := 31) true (by decide),
        setBit32_and (m := 0x2FFFFFFF#32) (k := 31) false (by decide)]
  · rintro rfl rfl rfl
    simp

/-- With DCR.DEN clear nothing is detected (R681). -/
theorem hit_disabled {d : DebugRegs} (h : d.dcr.getLsbD 23 = false) (w : Bool) (rs : List Ref) :
    rs.any (d.hit w) = false := by
  have h' : d.acEnabled = false := by simp only [DebugRegs.acEnabled, h, Bool.false_and]
  simp only [List.any_eq_false]
  intro r _
  cases r <;> simp [DebugRegs.hit, h']

theorem pcMatch_disabled {d : DebugRegs} (h : d.dcr.getLsbD 23 = false) (u : Bool) (pc : Word) :
    d.pcMatch u pc = false := by
  simp only [DebugRegs.pcMatch, DebugRegs.pcEnabled, h, Bool.false_and]

/-- What completion leaves (R23, R682, R683). -/
theorem complete_agrees {s u t : State} (len : Nat) {d : Done} (hs : Sim u t)
    (hl : d.debugLoaded = false) (hu : d.unfinished = false) (hv : d.overflow = false ∨ s.flagV = false) :
    Goes (complete len s d t) (Agrees s (u.retired (d.target.getD (s.pc + BitVec.ofNat 32 len)))) := by
  obtain ⟨wb, sc, fc, rf, hw, rfl⟩ := hs
  have hov : (d.overflow && s.flagV) = false := by rcases hv with h | h <;> simp [h]
  unfold complete
  simp only [hov, hu, hl, Bool.false_eq_true, if_false]
  refine ⟨_, rfl, ?_⟩
  unfold commitRefs
  generalize (if d.element = true then ownRefs s (u.book wb sc fc rf) else (u.book wb sc fc rf).refs.drop s.refs.length)
    = rs
  obtain ⟨x, b, he, hm, hd⟩ := commitDebug_eq (controls d s (u.book wb sc fc rf))
    (rs.any ((controls d s (u.book wb sc fc rf)).hit false))
    (rs.any ((controls d s (u.book wb sc fc rf)).hit true))
    ((controls d s (u.book wb sc fc rf)).pcMatch s.flagU s.pc)
    { u.book wb sc fc rf with
      pc := d.target.getD (s.pc + BitVec.ofNat 32 len), midString := false, elementRefs := [],
      afterException := false && s.afterException, freeCount := (u.book wb sc fc rf).freeCount
      fetchUnit := if d.target.isSome then (u.book wb sc fc rf).fetchUnit.restart else (u.book wb sc fc rf).fetchUnit }
  rw [he]
  refine ⟨rfl, hm, fun hden => ?_⟩
  have hc : (controls d s (u.book wb sc fc rf)).dcr.getLsbD 23 = false := by
    simp only [controls, hl, Bool.false_eq_true, if_false]
    exact hden
  exact hd (hit_disabled hc _ _) (hit_disabled hc _ _) (pcMatch_disabled hc _ _)

/-- A point at which no failed write waits reports nothing (R690). -/
theorem reporting_none {s0 s : State} (go : State → Out) (h : s.pendingError = false) : reporting s0 go s = go s := by
  simp [reporting, h]

/-- An instruction whose checks pass and whose actions go through completes (R23, R242). -/
theorem run_agrees {sh : Shape} {body : M Done} {s : State} {P : Done → State → Prop} (hs : s.plain = true)
    (hc : sh.check s = none) (hb : Reaches body s P)
    (hd : ∀ d u, P d u → d.debugLoaded = false ∧ d.unfinished = false ∧ (d.overflow = false ∨ s.flagV = false)) :
    ∃ d u, P d u ∧
      Goes (run sh body s) (Agrees s (u.retired (d.target.getD (s.pc + BitVec.ofNat 32 sh.length)))) := by
  obtain ⟨d, u, t, h1, h2, h3⟩ := hb s (Sim.refl (plain_pendingError hs))
  obtain ⟨hl, hu, hv⟩ := hd d u h3
  refine ⟨d, u, h3, ?_⟩
  simp only [run, finish, checked, hc, h1]
  obtain ⟨wb, sc, fc, rf, hw, rfl⟩ := h2
  have hp : (u.book wb sc fc rf).pendingError = false := hw
  rw [reporting_none _ hp]
  exact complete_agrees sh.length ⟨wb, sc, fc, rf, hw, rfl⟩ hl hu hv

end Sys2Proof.Machine
end

