-- ==== Sys2Proof/Tests/Slice0.lean ====
section
/-! SUPPORT. Tests on fixed values. Well-formedness: an ill-formed term for each check. Decoding: every row of the opcode
table, its word written out in the fields of the format's picture (30_encoding R210 to R228). Single steps: the
vectors V and W of 95_test_vectors, by their numbers, and a few worked out by hand. Witnesses: for every obligation a
state and operands that meet its hypotheses. -/

namespace Sys2Proof.Tests
open Sys2Proof Sys2Proof.Machine

-- One theorem after another: side by side, the kernel evaluations hold more threads than the check's memory allows.
set_option Elab.async false

/-! ### Well-formedness -/

/-- A displacement may not have the first byte E0 (R201): every instruction with one of its own. -/
theorem test_wf_reserved_displacement :
    ([.beq (.d30 0x20000012#30),
      .bne (.d30 0x20000012#30),
      .bcs (.d30 0x20000012#30),
      .bcc (.d30 0x20000012#30),
      .bhi (.d30 0x20000012#30),
      .bls (.d30 0x20000012#30),
      .bgt (.d30 0x20000012#30),
      .ble (.d30 0x20000012#30),
      .bfs (.d30 0x20000012#30),
      .bfc (.d30 0x20000012#30),
      .blo (.d30 0x20000012#30),
      .bhs (.d30 0x20000012#30),
      .blt (.d30 0x20000012#30),
      .bge (.d30 0x20000012#30),
      .br (.d30 0x20000012#30),
      .bnever (.d30 0x20000012#30),
      .bsr (.d30 0x20000012#30),
      .ret (.d30 0x20000012#30),
      .cxp (.d30 0x20000012#30),
      .rxp (.d30 0x20000012#30),
      .rett (.d30 0x20000012#30),
      .enter 0#8 (.d30 0x20000012#30),
      .movm .b (.mode (.reg 1#3)) (.mode (.reg 1#3)) (.d30 0x20000012#30),
      .cmpm .b (.mode (.reg 1#3)) (.mode (.reg 1#3)) (.d30 0x20000012#30),
      .extf .b 0#3 (.mode (.reg 1#3)) (.mode (.reg 1#3)) (.d30 0x20000012#30),
      .ins .b 0#3 (.mode (.reg 1#3)) (.mode (.reg 1#3)) (.d30 0x20000012#30),
      .acb .b 0#4 (.mode (.reg 1#3)) (.d30 0x20000012#30)] : List Instr).all (fun i => !i.wf) = true := by
  decide

/-- The same in a mode, in each place a mode has one (R201); Scaled Index over an Immediate that is too wide; a base code that is neither 10011 nor 111xx (R202). -/
theorem test_wf_modes :
    ([.jump .d (.mode (.regRel 1#3 (.d30 0x20000012#30))),
      .jump .d (.mode (.memRel .fp (.d30 0x20000012#30) (.d7 0#7))),
      .jump .d (.mode (.memRel .fp (.d7 0#7) (.d30 0x20000012#30))),
      .jump .d (.mode (.abs (.d30 0x20000012#30))),
      .jump .d (.mode (.ext (.d30 0x20000012#30) (.d7 0#7))),
      .jump .d (.mode (.ext (.d7 0#7) (.d30 0x20000012#30))),
      .jump .d (.mode (.space .pc (.d30 0x20000012#30))),
      .jump .d (.idx .b 1#3 (.abs (.d30 0x20000012#30))),
      .jump .d (.idx .b 1#3 (.imm 0x100000000#64)),
      .jump .d (.idxBad .b 1#3 0b10100#5),
      .jump .d (.idxBad .b 1#3 0b10101#5)] : List Instr).all (fun i => !i.wf) = true := by
  decide

/-- An immediate is no wider than its operand (R206). -/
theorem test_wf_immediates :
    ([.mov .b (.mode (.imm 0x100#64)) (.mode (.reg 1#3)),
      .mov .w (.mode (.imm 0x10000#64)) (.mode (.reg 1#3)),
      .mov .d (.mode (.imm 0x100000000#64)) (.mode (.reg 1#3)),
      .lsh .d (.mode (.imm 0x100#64)) (.mode (.reg 1#3)),
      .movxbw .b (.mode (.imm 0x100#64)) (.mode (.reg 1#3)),
      .mei .b (.mode (.reg 1#3)) (.mode (.imm 0x10000#64)),
      .ffs .d 0#3 (.mode (.reg 1#3)) (.mode (.imm 0x100#64)),
      .addf .std 0#1 (.mode (.imm 0x100000000#64)) (.mode (.reg 1#3))] : List Instr).all (fun i => !i.wf) = true := by
  decide

/-- Formats 2, 3 and 4 have no size code 10 (R240). -/
theorem test_wf_sizes :
    ([.addq .u 0#4 (.mode (.reg 1#3)),
      .cmpq .u 0#4 (.mode (.reg 1#3)),
      .movq .u 0#4 (.mode (.reg 1#3)),
      .spr .u .fp (.mode (.reg 1#3)),
      .lpr .u .fp (.mode (.reg 1#3)),
      .scond .u .eq (.mode (.reg 1#3)),
      .acb .u 0#4 (.mode (.reg 1#3)) (.d7 0#7),
      .cxpd .u (.mode (.reg 1#3)),
      .bicpsr .u (.mode (.reg 1#3)),
      .jump .u (.mode (.reg 1#3)),
      .bispsr .u (.mode (.reg 1#3)),
      .adjsp .u (.mode (.reg 1#3)),
      .jsr .u (.mode (.reg 1#3)),
      .casei .u (.mode (.reg 1#3)),
      .undef3 0#5 0b1000#4 .u,
      .add .u (.mode (.reg 1#3)) (.mode (.reg 1#3)),
      .cmp .u (.mode (.reg 1#3)) (.mode (.reg 1#3)),
      .bic .u (.mode (.reg 1#3)) (.mode (.reg 1#3)),
      .addc .u (.mode (.reg 1#3)) (.mode (.reg 1#3)),
      .mov .u (.mode (.reg 1#3)) (.mode (.reg 1#3)),
      .or .u (.mode (.reg 1#3)) (.mode (.reg 1#3)),
      .sub .u (.mode (.reg 1#3)) (.mode (.reg 1#3)),
      .addr .u (.mode (.reg 1#3)) (.mode (.reg 1#3)),
      .and .u (.mode (.reg 1#3)) (.mode (.reg 1#3)),
      .subc .u (.mode (.reg 1#3)) (.mode (.reg 1#3)),
      .tbit .u (.mode (.reg 1#3)) (.mode (.reg 1#3)),
      .xor .u (.mode (.reg 1#3)) (.mode (.reg 1#3))] : List Instr).all (fun i => !i.wf) = true := by
  decide

/-- An undefined or unassigned row holds only words that no named row has. -/
theorem test_wf_words :
    ([.undef5 0x0000#16,
      .undef6 0x0000#16,
      .undef7 0x0000#16,
      .undef8sel 0x0000#16,
      .undef8sel 0x000C#16,
      .undef8sel 0x001C#16,
      .undef8op 0x0000#16,
      .undef14 0x0027#16,
      .catst0 0x0004#16,
      .catst1 0x0000#16,
      .undef150 0x0000#16,
      .undef3 0#5 0b0000#4 .b,
      .slot12 0b0010#4 .std 0#1 (.mode (.reg 1#3)) (.mode (.reg 1#3)),
      .slot12 0b0011#4 .std 0#1 (.mode (.reg 1#3)) (.mode (.reg 1#3)),
      .slot12 0b0100#4 .std 0#1 (.mode (.reg 1#3)) (.mode (.reg 1#3)),
      .slot12 0b0101#4 .std 0#1 (.mode (.reg 1#3)) (.mode (.reg 1#3)),
      .slot155 0b0000#4 .dbl 0#1 (.mode (.reg 1#3)) (.mode (.reg 1#3)),
      .slot155 0b0001#4 .dbl 0#1 (.mode (.reg 1#3)) (.mode (.reg 1#3)),
      .slot155 0b0010#4 .dbl 0#1 (.mode (.reg 1#3)) (.mode (.reg 1#3)),
      .slot155 0b0011#4 .dbl 0#1 (.mode (.reg 1#3)) (.mode (.reg 1#3)),
      .slot155 0b0100#4 .dbl 0#1 (.mode (.reg 1#3)) (.mode (.reg 1#3)),
      .slot155 0b0101#4 .dbl 0#1 (.mode (.reg 1#3)) (.mode (.reg 1#3)),
      .slot155 0b1000#4 .dbl 0#1 (.mode (.reg 1#3)) (.mode (.reg 1#3)),
      .slot155 0b1001#4 .dbl 0#1 (.mode (.reg 1#3)) (.mode (.reg 1#3)),
      .slot155 0b1100#4 .dbl 0#1 (.mode (.reg 1#3)) (.mode (.reg 1#3)),
      .slot155 0b1101#4 .dbl 0#1 (.mode (.reg 1#3)) (.mode (.reg 1#3))] : List Instr).all (fun i => !i.wf) = true := by
  decide

/-- An operand whose displacement has the first byte E0. -/
def badGen : Gen := (.mode (.abs (.d30 0x20000012#30)))

/-- A legal operand. -/
def goodGen : Gen := (.mode (.reg 1#3))

/-- The instructions with two general operands. -/
def twoOperands : List (Gen → Gen → Instr) :=
  [ fun x y => .add .b x y,
    fun x y => .cmp .b x y,
    fun x y => .bic .b x y,
    fun x y => .addc .b x y,
    fun x y => .mov .b x y,
    fun x y => .or .b x y,
    fun x y => .sub .b x y,
    fun x y => .addr .b x y,
    fun x y => .and .b x y,
    fun x y => .subc .b x y,
    fun x y => .tbit .b x y,
    fun x y => .xor .b x y,
    fun x y => .rot .b x y,
    fun x y => .ash .b x y,
    fun x y => .cbit .b x y,
    fun x y => .cbiti .b x y,
    fun x y => .lsh .b x y,
    fun x y => .sbit .b x y,
    fun x y => .sbiti .b x y,
    fun x y => .neg .b x y,
    fun x y => .not .b x y,
    fun x y => .subp .b x y,
    fun x y => .abs .b x y,
    fun x y => .com .b x y,
    fun x y => .ibit .b x y,
    fun x y => .addp .b x y,
    fun x y => .movxbw .b x y,
    fun x y => .movzbw .b x y,
    fun x y => .movzd .b x y,
    fun x y => .movxd .b x y,
    fun x y => .mul .b x y,
    fun x y => .mei .b x y,
    fun x y => .dei .b x y,
    fun x y => .quo .b x y,
    fun x y => .rem .b x y,
    fun x y => .mod .b x y,
    fun x y => .div .b x y,
    fun x y => .movsu .b x y,
    fun x y => .movus .b x y,
    fun x y => .movm .b x y (.d7 0#7),
    fun x y => .cmpm .b x y (.d7 0#7),
    fun x y => .inss .b x y 0#8,
    fun x y => .exts .b x y 0#8,
    fun x y => .extf .b 0#3 x y (.d7 0#7),
    fun x y => .cvtp .b 0#3 x y,
    fun x y => .ins .b 0#3 x y (.d7 0#7),
    fun x y => .check .b 0#3 x y,
    fun x y => .index .b 0#3 x y,
    fun x y => .ffs .b 0#3 x y,
    fun x y => .movif .std .b x y,
    fun x y => .roundfi .std .b x y,
    fun x y => .truncfi .std .b x y,
    fun x y => .floorfi .std .b x y,
    fun x y => .movlf 0#3 x y,
    fun x y => .movfl 0#3 x y,
    fun x y => .addf .std 0#1 x y,
    fun x y => .movf .std 0#1 x y,
    fun x y => .cmpf .std 0#1 x y,
    fun x y => .slot11at3 .std 0#1 x y,
    fun x y => .subf .std 0#1 x y,
    fun x y => .negf .std 0#1 x y,
    fun x y => .slot11at6 .std 0#1 x y,
    fun x y => .slot11at7 .std 0#1 x y,
    fun x y => .divf .std 0#1 x y,
    fun x y => .slot11at9 .std 0#1 x y,
    fun x y => .slot11at10 .std 0#1 x y,
    fun x y => .slot11at11 .std 0#1 x y,
    fun x y => .mulf .std 0#1 x y,
    fun x y => .absf .std 0#1 x y,
    fun x y => .slot11at14 .std 0#1 x y,
    fun x y => .slot11at15 .std 0#1 x y,
    fun x y => .polyf .std 0#1 x y,
    fun x y => .dotf .std 0#1 x y,
    fun x y => .scalbf .std 0#1 x y,
    fun x y => .logbf .std 0#1 x y,
    fun x y => .slot12 0b0000#4 .std 0#1 x y,
    fun x y => .ccv3ic .dbl .b x y,
    fun x y => .ccv2ci .dbl .b x y,
    fun x y => .ccv1ci .dbl .b x y,
    fun x y => .ccv0ci .dbl .b x y,
    fun x y => .ccv5qd 0#3 x y,
    fun x y => .ccv4dq 0#3 x y,
    fun x y => .ccal0 .dbl 0#1 x y,
    fun x y => .cmov0 .dbl 0#1 x y,
    fun x y => .ccmp0 .dbl 0#1 x y,
    fun x y => .ccmp1 .dbl 0#1 x y,
    fun x y => .ccal1 .dbl 0#1 x y,
    fun x y => .cmov2 .dbl 0#1 x y,
    fun x y => .ccal3 .dbl 0#1 x y,
    fun x y => .cmov3 .dbl 0#1 x y,
    fun x y => .ccal2 .dbl 0#1 x y,
    fun x y => .cmov1 .dbl 0#1 x y,
    fun x y => .slot155 0b0110#4 .dbl 0#1 x y ]

/-- The instructions with one general operand. -/
def oneOperand : List (Gen → Instr) :=
  [ fun x => .addq .b 0#4 x,
    fun x => .cmpq .b 0#4 x,
    fun x => .movq .b 0#4 x,
    fun x => .spr .b .fp x,
    fun x => .lpr .b .fp x,
    fun x => .scond .b .eq x,
    fun x => .acb .b 0#4 x (.d7 0#7),
    fun x => .cxpd .b x,
    fun x => .bicpsr .b x,
    fun x => .jump .b x,
    fun x => .bispsr .b x,
    fun x => .adjsp .b x,
    fun x => .jsr .b x,
    fun x => .casei .b x,
    fun x => .lfsr 0#3 x 0#5,
    fun x => .sfsr 0#3 0#5 x,
    fun x => .lcsr 0#3 x 0#5,
    fun x => .scsr 0#3 0#5 x,
    fun x => .lcr 0#4 0#2 0#1 x,
    fun x => .scr 0#4 0#2 0#1 x,
    fun x => .cinv true true true 0#1 x ]

/-- Every operand of every instruction is checked. -/
theorem test_wf_operands :
    twoOperands.all (fun f => (f goodGen goodGen).wf && !(f badGen goodGen).wf && !(f goodGen badGen).wf) = true
    ∧ oneOperand.all (fun f => (f goodGen).wf && !(f badGen).wf) = true := by
  decide

/-! ### Decoding -/

/-- The `k` bytes of a word, then the extension bytes, are the encoding of the well-formed instruction, and decode to
it. -/
def reads {n : Nat} (k : Nat) (w : BitVec n) (ext : List Byte) (i : Instr) : Bool :=
  let bs := toBytes k (w.setWidth 64) ++ ext
  match decode bs with
  | .ok (j, []) => i == j && encode i == bs && i.wf
  | _ => false

/-- Format 0 (R210), every row. -/
theorem test_decode_format_0 :
    ([(0b0000_1010#8, [0x85#8, 0x12#8], .beq (.d14 0x0512#14)),
      (0b0001_1010#8, [0x85#8, 0x12#8], .bne (.d14 0x0512#14)),
      (0b0010_1010#8, [0x85#8, 0x12#8], .bcs (.d14 0x0512#14)),
      (0b0011_1010#8, [0x85#8, 0x12#8], .bcc (.d14 0x0512#14)),
      (0b0100_1010#8, [0x85#8, 0x12#8], .bhi (.d14 0x0512#14)),
      (0b0101_1010#8, [0x85#8, 0x12#8], .bls (.d14 0x0512#14)),
      (0b0110_1010#8, [0x85#8, 0x12#8], .bgt (.d14 0x0512#14)),
      (0b0111_1010#8, [0x85#8, 0x12#8], .ble (.d14 0x0512#14)),
      (0b1000_1010#8, [0x85#8, 0x12#8], .bfs (.d14 0x0512#14)),
      (0b1001_1010#8, [0x85#8, 0x12#8], .bfc (.d14 0x0512#14)),
      (0b1010_1010#8, [0x85#8, 0x12#8], .blo (.d14 0x0512#14)),
      (0b1011_1010#8, [0x85#8, 0x12#8], .bhs (.d14 0x0512#14)),
      (0b1100_1010#8, [0x85#8, 0x12#8], .blt (.d14 0x0512#14)),
      (0b1101_1010#8, [0x85#8, 0x12#8], .bge (.d14 0x0512#14)),
      (0b1110_1010#8, [0x85#8, 0x12#8], .br (.d14 0x0512#14)),
      (0b1111_1010#8, [0x85#8, 0x12#8], .bnever (.d14 0x0512#14))] : List (BitVec 8 × List Byte × Instr)).all (fun x => reads 1 x.1 x.2.1 x.2.2) = true := by
  decide

/-- Format 1 (R212), every row. -/
theorem test_decode_format_1 :
    ([(0b0000_0010#8, [0x85#8, 0x12#8], .bsr (.d14 0x0512#14)),
      (0b0001_0010#8, [0x85#8, 0x12#8], .ret (.d14 0x0512#14)),
      (0b0010_0010#8, [0x85#8, 0x12#8], .cxp (.d14 0x0512#14)),
      (0b0011_0010#8, [0x85#8, 0x12#8], .rxp (.d14 0x0512#14)),
      (0b0100_0010#8, [0x85#8, 0x12#8], .rett (.d14 0x0512#14)),
      (0b0101_0010#8, [], .reti),
      (0b0110_0010#8, [0xA5#8], .save 0xA5#8),
      (0b0111_0010#8, [0xA5#8], .restore 0xA5#8),
      (0b1000_0010#8, [0xA5#8, 0x85#8, 0x12#8], .enter 0xA5#8 (.d14 0x0512#14)),
      (0b1001_0010#8, [0xA5#8], .exit 0xA5#8),
      (0b1010_0010#8, [], .nop),
      (0b1011_0010#8, [], .wait),
      (0b1100_0010#8, [], .dia),
      (0b1101_0010#8, [], .flag),
      (0b1110_0010#8, [], .svc),
      (0b1111_0010#8, [], .bpt)] : List (BitVec 8 × List Byte × Instr)).all (fun x => reads 1 x.1 x.2.1 x.2.2) = true := by
  decide

/-- Format 5 (R217), every row. -/
theorem test_decode_format_5 :
    ([(0b00000_11_1_1_0_0000_00_00001110#24, [], .movst ⟨.untilMatch, true, 0#6⟩),
      (0b00000_11_1_0_0_0000_01_00001110#24, [], .movs .w ⟨.untilMatch, true, 0#6⟩),
      (0b00000_11_1_1_0_0001_00_00001110#24, [], .cmpst ⟨.untilMatch, true, 0#6⟩),
      (0b00000_11_1_0_0_0001_01_00001110#24, [], .cmps .w ⟨.untilMatch, true, 0#6⟩),
      (0b00000_11_1_1_0_0011_00_00001110#24, [], .skpst ⟨.untilMatch, true, 0#6⟩),
      (0b00000_11_1_0_0_0011_01_00001110#24, [], .skps .w ⟨.untilMatch, true, 0#6⟩),
      (0b00000_1011_0_0010_11_00001110#24, [], .setcfg .d 0b1011#4 0#6),
      (0b00000_0001_0_0100_01_00001110#24, [], .undef5 0x0091#16)] : List (BitVec 24 × List Byte × Instr)).all (fun x => reads 3 x.1 x.2.1 x.2.2) = true := by
  decide

/-- Format 6 (R219), every row. -/
theorem test_decode_format_6 :
    ([(0b00101_00110_0000_01_01001110#24, [], .rot .w (.mode (.reg 5#3)) (.mode (.reg 6#3))),
      (0b00101_00110_0001_01_01001110#24, [], .ash .w (.mode (.reg 5#3)) (.mode (.reg 6#3))),
      (0b00101_00110_0010_01_01001110#24, [], .cbit .w (.mode (.reg 5#3)) (.mode (.reg 6#3))),
      (0b00101_00110_0011_01_01001110#24, [], .cbiti .w (.mode (.reg 5#3)) (.mode (.reg 6#3))),
      (0b00101_00110_0101_01_01001110#24, [], .lsh .w (.mode (.reg 5#3)) (.mode (.reg 6#3))),
      (0b00101_00110_0110_01_01001110#24, [], .sbit .w (.mode (.reg 5#3)) (.mode (.reg 6#3))),
      (0b00101_00110_0111_01_01001110#24, [], .sbiti .w (.mode (.reg 5#3)) (.mode (.reg 6#3))),
      (0b00101_00110_1000_01_01001110#24, [], .neg .w (.mode (.reg 5#3)) (.mode (.reg 6#3))),
      (0b00101_00110_1001_01_01001110#24, [], .not .w (.mode (.reg 5#3)) (.mode (.reg 6#3))),
      (0b00101_00110_1011_01_01001110#24, [], .subp .w (.mode (.reg 5#3)) (.mode (.reg 6#3))),
      (0b00101_00110_1100_01_01001110#24, [], .abs .w (.mode (.reg 5#3)) (.mode (.reg 6#3))),
      (0b00101_00110_1101_01_01001110#24, [], .com .w (.mode (.reg 5#3)) (.mode (.reg 6#3))),
      (0b00101_00110_1110_01_01001110#24, [], .ibit .w (.mode (.reg 5#3)) (.mode (.reg 6#3))),
      (0b00101_00110_1111_01_01001110#24, [], .addp .w (.mode (.reg 5#3)) (.mode (.reg 6#3))),
      (0b00101_00110_1010_01_01001110#24, [], .undef6 0x29A9#16)] : List (BitVec 24 × List Byte × Instr)).all (fun x => reads 3 x.1 x.2.1 x.2.2) = true := by
  decide

/-- Format 7 (R220), every row. -/
theorem test_decode_format_7 :
    ([(0b00101_00110_0000_01_11001110#24, [0x85#8, 0x12#8], .movm .w (.mode (.reg 5#3)) (.mode (.reg 6#3)) (.d14 0x0512#14)),
      (0b00101_00110_0001_01_11001110#24, [0x85#8, 0x12#8], .cmpm .w (.mode (.reg 5#3)) (.mode (.reg 6#3)) (.d14 0x0512#14)),
      (0b00101_00110_0010_01_11001110#24, [0xA5#8], .inss .w (.mode (.reg 5#3)) (.mode (.reg 6#3)) 0xA5#8),
      (0b00101_00110_0011_01_11001110#24, [0xA5#8], .exts .w (.mode (.reg 5#3)) (.mode (.reg 6#3)) 0xA5#8),
      (0b00101_00110_0100_00_11001110#24, [], .movxbw .b (.mode (.reg 5#3)) (.mode (.reg 6#3))),
      (0b00101_00110_0101_00_11001110#24, [], .movzbw .b (.mode (.reg 5#3)) (.mode (.reg 6#3))),
      (0b00101_00110_0110_01_11001110#24, [], .movzd .w (.mode (.reg 5#3)) (.mode (.reg 6#3))),
      (0b00101_00110_0111_01_11001110#24, [], .movxd .w (.mode (.reg 5#3)) (.mode (.reg 6#3))),
      (0b00101_00110_1000_01_11001110#24, [], .mul .w (.mode (.reg 5#3)) (.mode (.reg 6#3))),
      (0b00101_00110_1001_01_11001110#24, [], .mei .w (.mode (.reg 5#3)) (.mode (.reg 6#3))),
      (0b00101_00110_1011_01_11001110#24, [], .dei .w (.mode (.reg 5#3)) (.mode (.reg 6#3))),
      (0b00101_00110_1100_01_11001110#24, [], .quo .w (.mode (.reg 5#3)) (.mode (.reg 6#3))),
      (0b00101_00110_1101_01_11001110#24, [], .rem .w (.mode (.reg 5#3)) (.mode (.reg 6#3))),
      (0b00101_00110_1110_01_11001110#24, [], .mod .w (.mode (.reg 5#3)) (.mode (.reg 6#3))),
      (0b00101_00110_1111_01_11001110#24, [], .div .w (.mode (.reg 5#3)) (.mode (.reg 6#3))),
      (0b00101_00110_1010_01_11001110#24, [], .undef7 0x29A9#16)] : List (BitVec 24 × List Byte × Instr)).all (fun x => reads 3 x.1 x.2.1 x.2.2) = true := by
  decide

/-- Format 8 (R221), every row. -/
theorem test_decode_format_8 :
    ([(0b00101_00110_011_0_01_00_101110#24, [0x85#8, 0x12#8], .extf .w 3#3 (.mode (.reg 5#3)) (.mode (.reg 6#3)) (.d14 0x0512#14)),
      (0b00101_00110_011_0_11_01_101110#24, [], .cvtp .d 3#3 (.mode (.reg 5#3)) (.mode (.reg 6#3))),
      (0b00101_00110_011_0_01_10_101110#24, [0x85#8, 0x12#8], .ins .w 3#3 (.mode (.reg 5#3)) (.mode (.reg 6#3)) (.d14 0x0512#14)),
      (0b00101_00110_011_0_01_11_101110#24, [], .check .w 3#3 (.mode (.reg 5#3)) (.mode (.reg 6#3))),
      (0b00101_00110_011_1_01_00_101110#24, [], .index .w 3#3 (.mode (.reg 5#3)) (.mode (.reg 6#3))),
      (0b00101_00110_000_1_01_01_101110#24, [], .ffs .w 0#3 (.mode (.reg 5#3)) (.mode (.reg 6#3))),
      (0b00101_00110_001_1_01_10_101110#24, [], .movsu .w (.mode (.reg 5#3)) (.mode (.reg 6#3))),
      (0b00101_00110_011_1_01_10_101110#24, [], .movus .w (.mode (.reg 5#3)) (.mode (.reg 6#3))),
      (0b00101_00110_010_1_01_10_101110#24, [], .undef8sel 0x2995#16),
      (0b00101_00110_011_1_01_11_101110#24, [], .undef8op 0x299D#16)] : List (BitVec 24 × List Byte × Instr)).all (fun x => reads 3 x.1 x.2.1 x.2.2) = true := by
  decide

/-- Format 9 (R222), every row. -/
theorem test_decode_format_9 :
    ([(0b00101_00110_000_1_01_00111110#24, [], .movif .std .w (.mode (.reg 5#3)) (.mode (.reg 6#3))),
      (0b00101_00000_001_1_11_00111110#24, [], .lfsr 0b111#3 (.mode (.reg 5#3)) 0#5),
      (0b00101_00110_010_1_10_00111110#24, [], .movlf 0b110#3 (.mode (.reg 5#3)) (.mode (.reg 6#3))),
      (0b00101_00110_011_0_11_00111110#24, [], .movfl 0b011#3 (.mode (.reg 5#3)) (.mode (.reg 6#3))),
      (0b00101_00110_100_1_01_00111110#24, [], .roundfi .std .w (.mode (.reg 5#3)) (.mode (.reg 6#3))),
      (0b00101_00110_101_1_01_00111110#24, [], .truncfi .std .w (.mode (.reg 5#3)) (.mode (.reg 6#3))),
      (0b00000_00110_110_1_11_00111110#24, [], .sfsr 0b111#3 0#5 (.mode (.reg 6#3))),
      (0b00101_00110_111_1_01_00111110#24, [], .floorfi .std .w (.mode (.reg 5#3)) (.mode (.reg 6#3)))] : List (BitVec 24 × List Byte × Instr)).all (fun x => reads 3 x.1 x.2.1 x.2.2) = true := by
  decide

/-- The wholly undefined spaces (R223, R228). -/
theorem test_decode_format_16 :
    ([(0b0010101100011101_01111110#24, [], .undef10 0x2B1D#16),
      (0b0010101100011101_10011110#24, [], .undef13 0x2B1D#16),
      (0b0010101100011101_01010110#24, [], .undef56 0x2B1D#16),
      (0b0010101100011101_01110110#24, [], .undef76 0x2B1D#16),
      (0b0010101100011101_10010110#24, [], .undef96 0x2B1D#16),
      (0b0010101100011101_11010110#24, [], .undefD6 0x2B1D#16),
      (0b0010101100011101_11110110#24, [], .undefF6 0x2B1D#16),
      (0b0010101100011101_01011110#24, [], .undef16 0x2B1D#16),
      (0b0010101100011101_11011110#24, [], .undef17 0x2B1D#16),
      (0b0010101100011101_10001110#24, [], .undef18 0x2B1D#16)] : List (BitVec 24 × List Byte × Instr)).all (fun x => reads 3 x.1 x.2.1 x.2.2) = true := by
  decide

/-- Format 11 (R224), every row. -/
theorem test_decode_format_11 :
    ([(0b00101_00110_0000_0_1_10111110#24, [], .addf .std 0#1 (.mode (.reg 5#3)) (.mode (.reg 6#3))),
      (0b00101_00110_0001_0_1_10111110#24, [], .movf .std 0#1 (.mode (.reg 5#3)) (.mode (.reg 6#3))),
      (0b00101_00110_0010_0_1_10111110#24, [], .cmpf .std 0#1 (.mode (.reg 5#3)) (.mode (.reg 6#3))),
      (0b00101_00110_0011_0_1_10111110#24, [], .slot11at3 .std 0#1 (.mode (.reg 5#3)) (.mode (.reg 6#3))),
      (0b00101_00110_0100_0_1_10111110#24, [], .subf .std 0#1 (.mode (.reg 5#3)) (.mode (.reg 6#3))),
      (0b00101_00110_0101_0_1_10111110#24, [], .negf .std 0#1 (.mode (.reg 5#3)) (.mode (.reg 6#3))),
      (0b00101_00110_0110_0_1_10111110#24, [], .slot11at6 .std 0#1 (.mode (.reg 5#3)) (.mode (.reg 6#3))),
      (0b00101_00110_0111_0_1_10111110#24, [], .slot11at7 .std 0#1 (.mode (.reg 5#3)) (.mode (.reg 6#3))),
      (0b00101_00110_1000_0_1_10111110#24, [], .divf .std 0#1 (.mode (.reg 5#3)) (.mode (.reg 6#3))),
      (0b00101_00110_1001_0_1_10111110#24, [], .slot11at9 .std 0#1 (.mode (.reg 5#3)) (.mode (.reg 6#3))),
      (0b00101_00110_1010_0_1_10111110#24, [], .slot11at10 .std 0#1 (.mode (.reg 5#3)) (.mode (.reg 6#3))),
      (0b00101_00110_1011_0_1_10111110#24, [], .slot11at11 .std 0#1 (.mode (.reg 5#3)) (.mode (.reg 6#3))),
      (0b00101_00110_1100_0_1_10111110#24, [], .mulf .std 0#1 (.mode (.reg 5#3)) (.mode (.reg 6#3))),
      (0b00101_00110_1101_0_1_10111110#24, [], .absf .std 0#1 (.mode (.reg 5#3)) (.mode (.reg 6#3))),
      (0b00101_00110_1110_0_1_10111110#24, [], .slot11at14 .std 0#1 (.mode (.reg 5#3)) (.mode (.reg 6#3))),
      (0b00101_00110_1111_0_1_10111110#24, [], .slot11at15 .std 0#1 (.mode (.reg 5#3)) (.mode (.reg 6#3)))] : List (BitVec 24 × List Byte × Instr)).all (fun x => reads 3 x.1 x.2.1 x.2.2) = true := by
  decide

/-- Format 12 (R225), every row. -/
theorem test_decode_format_12 :
    ([(0b00101_00110_0010_0_1_11111110#24, [], .polyf .std 0#1 (.mode (.reg 5#3)) (.mode (.reg 6#3))),
      (0b00101_00110_0011_0_1_11111110#24, [], .dotf .std 0#1 (.mode (.reg 5#3)) (.mode (.reg 6#3))),
      (0b00101_00110_0100_0_1_11111110#24, [], .scalbf .std 0#1 (.mode (.reg 5#3)) (.mode (.reg 6#3))),
      (0b00101_00110_0101_0_1_11111110#24, [], .logbf .std 0#1 (.mode (.reg 5#3)) (.mode (.reg 6#3))),
      (0b00101_00110_0110_0_1_11111110#24, [], .slot12 0b0110#4 .std 0#1 (.mode (.reg 5#3)) (.mode (.reg 6#3)))] : List (BitVec 24 × List Byte × Instr)).all (fun x => reads 3 x.1 x.2.1 x.2.2) = true := by
  decide

/-- Format 14 (R227), every row. -/
theorem test_decode_format_14 :
    ([(0b00101_0_1_0_1_0_1001_11_00011110#24, [], .cinv true false true 0#1 (.mode (.reg 5#3))),
      (0b00101_0000_0_0001_01_00011110#24, [], .undef14 0x2805#16)] : List (BitVec 24 × List Byte × Instr)).all (fun x => reads 3 x.1 x.2.1 x.2.2) = true := by
  decide

/-- Format 15.0 (R228), every row. -/
theorem test_decode_format_15_0 :
    ([(0b00101_0010_0_0000_01_00010110#24, [], .catst0 0x2901#16),
      (0b00101_0010_0_0001_01_00010110#24, [], .catst1 0x2905#16),
      (0b00101_1001_0_0010_01_00010110#24, [], .lcr 0b1001#4 0b01#2 0#1 (.mode (.reg 5#3))),
      (0b00101_1001_0_0011_01_00010110#24, [], .scr 0b1001#4 0b01#2 0#1 (.mode (.reg 5#3))),
      (0b00101_0010_0_0110_01_00010110#24, [], .undef150 0x2919#16)] : List (BitVec 24 × List Byte × Instr)).all (fun x => reads 3 x.1 x.2.1 x.2.2) = true := by
  decide

/-- Format 15.1 (R228), every row. -/
theorem test_decode_format_15_1 :
    ([(0b00101_00110_000_1_01_00110110#24, [], .ccv3ic .dbl .w (.mode (.reg 5#3)) (.mode (.reg 6#3))),
      (0b00101_00000_001_0_11_00110110#24, [], .lcsr 0b011#3 (.mode (.reg 5#3)) 0#5),
      (0b00101_00110_010_0_11_00110110#24, [], .ccv5qd 0b011#3 (.mode (.reg 5#3)) (.mode (.reg 6#3))),
      (0b00101_00110_011_0_11_00110110#24, [], .ccv4dq 0b011#3 (.mode (.reg 5#3)) (.mode (.reg 6#3))),
      (0b00101_00110_100_1_01_00110110#24, [], .ccv2ci .dbl .w (.mode (.reg 5#3)) (.mode (.reg 6#3))),
      (0b00101_00110_101_1_01_00110110#24, [], .ccv1ci .dbl .w (.mode (.reg 5#3)) (.mode (.reg 6#3))),
      (0b00000_00110_110_0_11_00110110#24, [], .scsr 0b011#3 0#5 (.mode (.reg 6#3))),
      (0b00101_00110_111_1_01_00110110#24, [], .ccv0ci .dbl .w (.mode (.reg 5#3)) (.mode (.reg 6#3)))] : List (BitVec 24 × List Byte × Instr)).all (fun x => reads 3 x.1 x.2.1 x.2.2) = true := by
  decide

/-- Format 15.5 (R228), every row. -/
theorem test_decode_format_15_5 :
    ([(0b00101_00110_0000_0_1_10110110#24, [], .ccal0 .dbl 0#1 (.mode (.reg 5#3)) (.mode (.reg 6#3))),
      (0b00101_00110_0001_0_1_10110110#24, [], .cmov0 .dbl 0#1 (.mode (.reg 5#3)) (.mode (.reg 6#3))),
      (0b00101_00110_0010_0_1_10110110#24, [], .ccmp0 .dbl 0#1 (.mode (.reg 5#3)) (.mode (.reg 6#3))),
      (0b00101_00110_0011_0_1_10110110#24, [], .ccmp1 .dbl 0#1 (.mode (.reg 5#3)) (.mode (.reg 6#3))),
      (0b00101_00110_0100_0_1_10110110#24, [], .ccal1 .dbl 0#1 (.mode (.reg 5#3)) (.mode (.reg 6#3))),
      (0b00101_00110_0101_0_1_10110110#24, [], .cmov2 .dbl 0#1 (.mode (.reg 5#3)) (.mode (.reg 6#3))),
      (0b00101_00110_1000_0_1_10110110#24, [], .ccal3 .dbl 0#1 (.mode (.reg 5#3)) (.mode (.reg 6#3))),
      (0b00101_00110_1001_0_1_10110110#24, [], .cmov3 .dbl 0#1 (.mode (.reg 5#3)) (.mode (.reg 6#3))),
      (0b00101_00110_1100_0_1_10110110#24, [], .ccal2 .dbl 0#1 (.mode (.reg 5#3)) (.mode (.reg 6#3))),
      (0b00101_00110_1101_0_1_10110110#24, [], .cmov1 .dbl 0#1 (.mode (.reg 5#3)) (.mode (.reg 6#3))),
      (0b00101_00110_1010_0_1_10110110#24, [], .slot155 0b1010#4 .dbl 0#1 (.mode (.reg 5#3)) (.mode (.reg 6#3)))] : List (BitVec 24 × List Byte × Instr)).all (fun x => reads 3 x.1 x.2.1 x.2.2) = true := by
  decide

/-- Format 19 (R223), every row. -/
theorem test_decode_format_19 :
    ([(0b10100110#8, [], .undef19 0b101#3)] : List (BitVec 8 × List Byte × Instr)).all (fun x => reads 1 x.1 x.2.1 x.2.2) = true := by
  decide

/-- Format 2 (R213), every row. -/
theorem test_decode_format_2 :
    ([(0b00101_1101_000_11_01#16, [], .addq .w 0b1101#4 (.mode (.reg 5#3))),
      (0b00101_1101_001_11_01#16, [], .cmpq .w 0b1101#4 (.mode (.reg 5#3))),
      (0b00101_1101_010_11_01#16, [], .spr .w .psr (.mode (.reg 5#3))),
      (0b00101_1101_011_11_01#16, [], .scond .w .ge (.mode (.reg 5#3))),
      (0b00101_1101_100_11_01#16, [0x85#8, 0x12#8], .acb .w 0b1101#4 (.mode (.reg 5#3)) (.d14 0x0512#14)),
      (0b00101_1101_101_11_01#16, [], .movq .w 0b1101#4 (.mode (.reg 5#3))),
      (0b00101_1101_110_11_01#16, [], .lpr .w .psr (.mode (.reg 5#3)))] : List (BitVec 16 × List Byte × Instr)).all (fun x => reads 2 x.1 x.2.1 x.2.2) = true := by
  decide

/-- Format 3 (R215), every row. -/
theorem test_decode_format_3 :
    ([(0b00101_0000_11111_11#16, [], .cxpd .d (.mode (.reg 5#3))),
      (0b00101_0010_11111_01#16, [], .bicpsr .w (.mode (.reg 5#3))),
      (0b00101_0100_11111_11#16, [], .jump .d (.mode (.reg 5#3))),
      (0b00101_0110_11111_01#16, [], .bispsr .w (.mode (.reg 5#3))),
      (0b00101_1010_11111_01#16, [], .adjsp .w (.mode (.reg 5#3))),
      (0b00101_1100_11111_11#16, [], .jsr .d (.mode (.reg 5#3))),
      (0b00101_1110_11111_01#16, [], .casei .w (.mode (.reg 5#3))),
      (0b00101_1001_11111_01#16, [], .undef3 5#5 0b1001#4 .w)] : List (BitVec 16 × List Byte × Instr)).all (fun x => reads 2 x.1 x.2.1 x.2.2) = true := by
  decide

/-- Format 4 (R216), every row. -/
theorem test_decode_format_4 :
    ([(0b00101_00110_0000_01#16, [], .add .w (.mode (.reg 5#3)) (.mode (.reg 6#3))),
      (0b00101_00110_0001_01#16, [], .cmp .w (.mode (.reg 5#3)) (.mode (.reg 6#3))),
      (0b00101_00110_0010_01#16, [], .bic .w (.mode (.reg 5#3)) (.mode (.reg 6#3))),
      (0b00101_00110_0100_01#16, [], .addc .w (.mode (.reg 5#3)) (.mode (.reg 6#3))),
      (0b00101_00110_0101_01#16, [], .mov .w (.mode (.reg 5#3)) (.mode (.reg 6#3))),
      (0b00101_00110_0110_01#16, [], .or .w (.mode (.reg 5#3)) (.mode (.reg 6#3))),
      (0b00101_00110_1000_01#16, [], .sub .w (.mode (.reg 5#3)) (.mode (.reg 6#3))),
      (0b00101_00110_1001_11#16, [], .addr .d (.mode (.reg 5#3)) (.mode (.reg 6#3))),
      (0b00101_00110_1010_01#16, [], .and .w (.mode (.reg 5#3)) (.mode (.reg 6#3))),
      (0b00101_00110_1100_01#16, [], .subc .w (.mode (.reg 5#3)) (.mode (.reg 6#3))),
      (0b00101_00110_1101_01#16, [], .tbit .w (.mode (.reg 5#3)) (.mode (.reg 6#3))),
      (0b00101_00110_1110_01#16, [], .xor .w (.mode (.reg 5#3)) (.mode (.reg 6#3)))] : List (BitVec 16 × List Byte × Instr)).all (fun x => reads 2 x.1 x.2.1 x.2.2) = true := by
  decide

/-- Bytes are the encoding of the well-formed instruction, and decode to it. -/
def decodesTo (bs : List Byte) (i : Instr) : Bool :=
  match decode bs with
  | .ok (j, []) => i == j && encode i == bs && i.wf
  | _ => false

/-- Every addressing mode and displacement length (R190, R200, R202, R206), from the bytes of 95_test_vectors. -/
theorem test_decode_modes :
    decodesTo [0xEA#8, 0x40#8] (.br (.d7 0x40#7)) && decodesTo [0xEA#8, 0xBF#8, 0xBF#8] (.br (.d14 0x3FBF#14))
    && decodesTo [0xEA#8, 0xFF#8, 0xFF#8, 0xDF#8, 0xFF#8] (.br (.d30 0x3FFFDFFF#30))
    && decodesTo [0x57#8, 0xA5#8, 0x12#8, 0x34#8, 0x56#8, 0x78#8, 0xC0#8, 0x00#8, 0x21#8, 0x00#8]
        (.mov .d (.mode (.imm 0x12345678#64)) (.mode (.abs (.d30 0x2100#30))))
    && decodesTo [0xD7#8, 0x85#8, 0x08#8, 0x04#8] (.mov .d (.mode (.memRel .fp (.d7 8#7) (.d7 4#7))) (.mode .tos))
    && decodesTo [0x27#8, 0xB0#8, 0x02#8, 0x06#8] (.addr .d (.mode (.ext (.d7 2#7) (.d7 6#7))) (.mode (.reg 0#3)))
    && decodesTo [0x17#8, 0xD8#8, 0x06#8] (.mov .d (.mode (.space .pc (.d7 6#7))) (.mode (.reg 0#3)))
    && decodesTo [0x17#8, 0x98#8] (.mov .d .reserved (.mode (.reg 0#3)))
    && decodesTo [0x17#8, 0xF0#8, 0x0A#8] (.mov .d (.idx .d 2#3 (.reg 1#3)) (.mode (.reg 0#3))) = true := by
  decide

/-! ### Single steps -/

/-- The start state of section 0 of 95_test_vectors. -/
def base : State := { State.reset with pc := 0x1000#32, sp0 := 0x8000#32 }

/-- Bytes put at their addresses. -/
def withBytes (s : State) : List (Word × List Byte) → State
  | [] => s
  | (a, bs) :: rest => withBytes { s with mem := placeBytes s.mem a bs } rest

/-- Registers set. -/
def withRegs (s : State) : List (RegNum × Word) → State
  | [] => s
  | (n, v) :: rest => withRegs (s.setReg n v) rest

/-- Memory holds bytes at an address. -/
def holds (s : State) (a : Word) : List Byte → Bool
  | [] => true
  | b :: rest => memGet s.mem a.toNat == b && holds s (a + 1#32) rest

/-- One step from a start state goes on, to a state that `p` accepts. -/
def goes (s : State) (regs : List (RegNum × Word)) (mem : List (Word × List Byte)) (p : State → Bool) : Bool :=
  match step (withRegs (withBytes s mem) regs) with
  | .next t => p t
  | _ => false

/-- V003 `BR -64`; V012 `MOVB 1(R1)[R2:W], 2(R3)[R4:D]`; V013 `MOVD 4(8(FP)), TOS`; V014 `ADDR EXT(2)+6, R0`; V016
`MOVB @-512, R0 (address FFFFFE00)`; V018 `ADDD TOS, TOS`. -/
theorem test_vectors_operands :
    goes base [] [(0x1000#32, [0xEA, 0x40])]
      (fun t => t.pc == 0xFC0#32 && t.psr == 0x0#16)
    && goes base [(1#3, 0x2000#32), (2#3, 0x3#32), (3#3, 0x3000#32), (4#3, 0x2#32)] [(0x1000#32,
      [0x94, 0xEF, 0x4A, 0x5C, 0x01, 0x02]), (0x2007#32, [0x5A])]
      (fun t => t.pc == 0x1006#32 && t.psr == 0x0#16 && holds t 0x300A#32 [0x5A])
    && goes ({ base with fp := 0x2000#32 }) [] [(0x1000#32, [0xD7, 0x85, 0x08, 0x04]), (0x2008#32,
      [0x00, 0x30, 0x00, 0x00]), (0x3004#32, [0xEF, 0xBE, 0xAD, 0xDE])]
      (fun t => t.pc == 0x1004#32 && t.sp0 == 0x7FFC#32 && t.psr == 0x0#16 && holds t 0x7FFC#32 [0xEF, 0xBE, 0xAD,
        0xDE])
    && goes ({ base with mod := 0x20#16 }) [] [(0x24#32, [0x00, 0x40, 0x00, 0x00]), (0x1000#32, [0x27,
      0xB0, 0x02, 0x06]), (0x4008#32, [0x00, 0x00, 0x01, 0x00])]
      (fun t => t.pc == 0x1004#32 && t.reg 0#3 == 0x10006#32 && t.psr == 0x0#16)
    && goes base [] [(0x1000#32, [0x14, 0xA8, 0xBE, 0x00]), (0xFFFFFE00#32, [0x2A])]
      (fun t => t.pc == 0x1004#32 && t.reg 0#3 == 0x2A#32 && t.psr == 0x0#16)
    && goes ({ base with sp0 := 0x7FF8#32 }) [] [(0x1000#32, [0xC3, 0xBD]), (0x7FF8#32, [0x05, 0x00,
      0x00, 0x00, 0x07, 0x00, 0x00, 0x00])]
      (fun t => t.pc == 0x1002#32 && t.sp0 == 0x7FFC#32 && t.psr == 0x0#16
        && holds t 0x7FFC#32 [0x0C])
    = true := by
  decide +kernel

/-- V101 `MOVB $0x12, R0`; V106 `MOVQD -1, R2`; V110 `MOVMB 0(R1), 1(R1), 4 (overlap, replicates)`; V112 `MOVZBW R0,
R1`; V114 `MOVZWD R0, R1`; V115 `MOVXBW R0, R1`; V116 `MOVXBD R0, R1`; V122 `ADDR 4(R1)[R2:D], R0`. -/
theorem test_vectors_moves :
    goes base [(0#3, 0xAABBCCDD#32)] [(0x1000#32, [0x14, 0xA0, 0x12])]
      (fun t => t.pc == 0x1003#32 && t.reg 0#3 == 0xAABBCC12#32 && t.psr == 0x0#16)
    && goes base [] [(0x1000#32, [0xDF, 0x17])]
      (fun t => t.pc == 0x1002#32 && t.reg 2#3 == 0xFFFFFFFF#32 && t.psr == 0x0#16)
    && goes base [(1#3, 0x2000#32)] [(0x1000#32, [0xCE, 0x40, 0x4A, 0x00, 0x01, 0x03]), (0x2000#32,
      [0xAA, 0x01, 0x02, 0x03, 0x04])]
      (fun t => t.pc == 0x1006#32 && t.psr == 0x0#16 && holds t 0x2001#32 [0xAA, 0xAA, 0xAA, 0xAA])
    && goes base [(0#3, 0xF0#32), (1#3, 0xFFFFFFFF#32)] [(0x1000#32, [0xCE, 0x54, 0x00])]
      (fun t => t.pc == 0x1003#32 && t.reg 1#3 == 0xFFFF00F0#32 && t.psr == 0x0#16)
    && goes base [(0#3, 0x123456F0#32), (1#3, 0xFFFFFFFF#32)] [(0x1000#32, [0xCE, 0x59, 0x00])]
      (fun t => t.pc == 0x1003#32 && t.reg 1#3 == 0x56F0#32 && t.psr == 0x0#16)
    && goes base [(0#3, 0x80#32)] [(0x1000#32, [0xCE, 0x50, 0x00])]
      (fun t => t.pc == 0x1003#32 && t.reg 1#3 == 0xFF80#32 && t.psr == 0x0#16)
    && goes base [(0#3, 0x80#32)] [(0x1000#32, [0xCE, 0x5C, 0x00])]
      (fun t => t.pc == 0x1003#32 && t.reg 1#3 == 0xFFFFFF80#32 && t.psr == 0x0#16)
    && goes base [(1#3, 0x100#32), (2#3, 0x3#32)] [(0x1000#32, [0x27, 0xF0, 0x4A, 0x04])]
      (fun t => t.pc == 0x1004#32 && t.reg 0#3 == 0x110#32 && t.psr == 0x0#16)
    = true := by
  decide +kernel

/-- V202 `ADDD R1, R0`; V206 `ADDB R1, R0 with V = 1`; V209 `ADDQB -8, R0`; V212 `ADDCD R1, R0`; V214 `SUBB R1, R0`;
V217 `SUBCD R1, R0`. -/
theorem test_vectors_add_subtract :
    goes base [(0#3, 0x80000000#32), (1#3, 0x80000000#32)] [(0x1000#32, [0x03, 0x08])]
      (fun t => t.pc == 0x1002#32 && t.reg 0#3 == 0x0#32 && t.psr == 0x21#16)
    && goes ({ base with intbase := 0x400#32, psr := 0x10#16, cfg := 0x1F0#32 }) [(0#3, 0x7F#32),
      (1#3, 0x1#32)] [(0x434#32, [0x00, 0x50, 0x00, 0x00]), (0x1000#32, [0x00, 0x08])]
      (fun t => t.pc == 0x5000#32 && t.reg 0#3 == 0x80#32 && t.sp0 == 0x7FF8#32 && t.psr == 0x20#16
        && holds t 0x7FF8#32 [0x02, 0x10] && holds t 0x7FFE#32 [0x30])
    && goes base [(0#3, 0x80#32)] [(0x1000#32, [0x0C, 0x04])]
      (fun t => t.pc == 0x1002#32 && t.reg 0#3 == 0x78#32 && t.psr == 0x21#16)
    && goes ({ base with psr := 0x1#16 }) [(0#3, 0x7FFFFFFF#32)] [(0x1000#32, [0x13, 0x08])]
      (fun t => t.pc == 0x1002#32 && t.reg 0#3 == 0x80000000#32 && t.psr == 0x20#16)
    && goes base [(0#3, 0x80#32), (1#3, 0x1#32)] [(0x1000#32, [0x20, 0x08])]
      (fun t => t.pc == 0x1002#32 && t.reg 0#3 == 0x7F#32 && t.psr == 0x20#16)
    && goes ({ base with psr := 0x1#16 }) [(0#3, 0x80000000#32)] [(0x1000#32, [0x33, 0x08])]
      (fun t => t.pc == 0x1002#32 && t.reg 0#3 == 0x7FFFFFFF#32 && t.psr == 0x20#16)
    = true := by
  decide +kernel

/-- V219 `NEGB R0, R1`; V222 `ABSB R0, R1`; V226 `MULB R1, R0`; V227 `QUOD R1, R0 (-7 by 2)`; V228 `REMD R1, R0 (-7
by 2)`; V229 `DIVD R1, R0 (-7 by 2)`; V234 `MODD R1, R0 (7 by -2)`; V230 `MODD R1, R0 (-7 by 2)`; V238 `QUOD R1, R0
(divide by zero)`. -/
theorem test_vectors_multiply_divide :
    goes base [(0#3, 0x80#32)] [(0x1000#32, [0x4E, 0x60, 0x00])]
      (fun t => t.pc == 0x1003#32 && t.reg 1#3 == 0x80#32 && t.psr == 0x21#16)
    && goes base [(0#3, 0x80#32)] [(0x1000#32, [0x4E, 0x70, 0x00])]
      (fun t => t.pc == 0x1003#32 && t.reg 1#3 == 0x80#32 && t.psr == 0x20#16)
    && goes base [(0#3, 0x10#32), (1#3, 0x8#32)] [(0x1000#32, [0xCE, 0x20, 0x08])]
      (fun t => t.pc == 0x1003#32 && t.reg 0#3 == 0x80#32 && t.psr == 0x0#16)
    && goes base [(0#3, 0xFFFFFFF9#32), (1#3, 0x2#32)] [(0x1000#32, [0xCE, 0x33, 0x08])]
      (fun t => t.pc == 0x1003#32 && t.reg 0#3 == 0xFFFFFFFD#32 && t.psr == 0x0#16)
    && goes base [(0#3, 0xFFFFFFF9#32), (1#3, 0x2#32)] [(0x1000#32, [0xCE, 0x37, 0x08])]
      (fun t => t.pc == 0x1003#32 && t.reg 0#3 == 0xFFFFFFFF#32 && t.psr == 0x0#16)
    && goes base [(0#3, 0xFFFFFFF9#32), (1#3, 0x2#32)] [(0x1000#32, [0xCE, 0x3F, 0x08])]
      (fun t => t.pc == 0x1003#32 && t.reg 0#3 == 0xFFFFFFFC#32 && t.psr == 0x0#16)
    && goes base [(0#3, 0x7#32), (1#3, 0xFFFFFFFE#32)] [(0x1000#32, [0xCE, 0x3B, 0x08])]
      (fun t => t.pc == 0x1003#32 && t.reg 0#3 == 0xFFFFFFFF#32 && t.psr == 0x0#16)
    && goes base [(0#3, 0xFFFFFFF9#32), (1#3, 0x2#32)] [(0x1000#32, [0xCE, 0x3B, 0x08])]
      (fun t => t.pc == 0x1003#32 && t.reg 0#3 == 0x1#32 && t.psr == 0x0#16)
    && goes ({ base with intbase := 0x400#32, cfg := 0x1F0#32 }) [(0#3, 0x9#32)] [(0x418#32, [0x00,
      0x50, 0x00, 0x00]), (0x1000#32, [0xCE, 0x33, 0x08])]
      (fun t => t.pc == 0x5000#32 && t.sp0 == 0x7FF8#32 && t.psr == 0x0#16
        && holds t 0x7FF9#32 [0x10])
    = true := by
  decide +kernel

/-- V241 `MEIB R2, R0`; V244 `DEIW R2, R0`; V248 `ADDPB R1, R0`; V251 `SUBPB R1, R0`; V258 `CMPW TOS, TOS (pops
both)`; V263 `CMPQB -1, R0`; V265 `CMPMW 0(R1), 0(R2), 3`. -/
theorem test_vectors_extended_and_decimal :
    goes base [(0#3, 0xAAAAAA10#32), (1#3, 0xBBBBBBBB#32), (2#3, 0x10#32)] [(0x1000#32, [0xCE,
      0x24, 0x10])]
      (fun t => t.pc == 0x1003#32 && t.reg 0#3 == 0xAAAAAA00#32 && t.reg 1#3 == 0xBBBBBB01#32
        && t.psr == 0x0#16)
    && goes base [(0#3, 0x64#32), (2#3, 0x7#32)] [(0x1000#32, [0xCE, 0x2D, 0x10])]
      (fun t => t.pc == 0x1003#32 && t.reg 0#3 == 0x2#32 && t.reg 1#3 == 0xE#32 && t.psr == 0x0#16)
    && goes base [(0#3, 0x99#32), (1#3, 0x1#32)] [(0x1000#32, [0x4E, 0x3C, 0x08])]
      (fun t => t.pc == 0x1003#32 && t.reg 0#3 == 0x0#32 && t.psr == 0x1#16)
    && goes base [(1#3, 0x1#32)] [(0x1000#32, [0x4E, 0x2C, 0x08])]
      (fun t => t.pc == 0x1003#32 && t.reg 0#3 == 0x99#32 && t.psr == 0x1#16)
    && goes ({ base with sp0 := 0x7FFC#32 }) [] [(0x1000#32, [0xC5, 0xBD]), (0x7FFC#32, [0x01, 0x00,
      0x02, 0x00])]
      (fun t => t.pc == 0x1002#32 && t.sp0 == 0x8000#32 && t.psr == 0x0#16)
    && goes base [(0#3, 0x1#32)] [(0x1000#32, [0x9C, 0x07])]
      (fun t => t.pc == 0x1002#32 && t.psr == 0x4#16)
    && goes base [(1#3, 0x2000#32), (2#3, 0x3000#32)] [(0x1000#32, [0xCE, 0x85, 0x4A, 0x00, 0x00,
      0x04]), (0x2000#32, [0x01, 0x00, 0x02, 0x00, 0x03, 0x00]), (0x3000#32, [0x01, 0x00, 0xFF, 0xFF, 0x09, 0x00])]
      (fun t => t.pc == 0x1006#32 && t.psr == 0x80#16)
    = true := by
  decide +kernel

/-- V301 `ANDB $0x0F, R0`; V302 `ORW R1, R0`; V303 `BICD R1, R0`; V305 `XORB R0, 0(R1)`; V307 `COMB R0, R1`; V309
`NOTB R0, R1`; V312 `SLTB R1 with Z = 1`; V313 `SHIW TOS with L = 1`; V316 `LSHD $-4, R0`; V325 `ASHB $1, R0
(overflow, V = 1)`; V330 `ROTW $-4, R0`. -/
theorem test_vectors_logic :
    goes base [(0#3, 0x123456AB#32)] [(0x1000#32, [0x28, 0xA0, 0x0F])]
      (fun t => t.pc == 0x1003#32 && t.reg 0#3 == 0x1234560B#32 && t.psr == 0x0#16)
    && goes base [(0#3, 0x1200#32), (1#3, 0xFFFF0034#32)] [(0x1000#32, [0x19, 0x08])]
      (fun t => t.pc == 0x1002#32 && t.reg 0#3 == 0x1234#32 && t.psr == 0x0#16)
    && goes base [(0#3, 0xFFFFFFFF#32), (1#3, 0xFF00#32)] [(0x1000#32, [0x0B, 0x08])]
      (fun t => t.pc == 0x1002#32 && t.reg 0#3 == 0xFFFF00FF#32 && t.psr == 0x0#16)
    && goes base [(0#3, 0xFF#32), (1#3, 0x2000#32)] [(0x1000#32, [0x78, 0x02, 0x00]), (0x2000#32,
      [0x0F, 0x77])]
      (fun t => t.pc == 0x1003#32 && t.psr == 0x0#16 && holds t 0x2000#32 [0xF0])
    && goes base [(0#3, 0xF#32)] [(0x1000#32, [0x4E, 0x74, 0x00])]
      (fun t => t.pc == 0x1003#32 && t.reg 1#3 == 0xF0#32 && t.psr == 0x0#16)
    && goes base [(0#3, 0xFE#32)] [(0x1000#32, [0x4E, 0x64, 0x00])]
      (fun t => t.pc == 0x1003#32 && t.reg 1#3 == 0xFF#32 && t.psr == 0x0#16)
    && goes ({ base with psr := 0x40#16 }) [(1#3, 0xFFFFFFFF#32)] [(0x1000#32, [0x3C, 0x0E])]
      (fun t => t.pc == 0x1002#32 && t.reg 1#3 == 0xFFFFFF00#32 && t.psr == 0x40#16)
    && goes ({ base with psr := 0x4#16 }) [] [(0x1000#32, [0x3D, 0xBA])]
      (fun t => t.pc == 0x1002#32 && t.sp0 == 0x7FFE#32 && t.psr == 0x4#16
        && holds t 0x7FFE#32 [0x01])
    && goes base [(0#3, 0x12345678#32)] [(0x1000#32, [0x4E, 0x17, 0xA0, 0xFC])]
      (fun t => t.pc == 0x1004#32 && t.reg 0#3 == 0x1234567#32 && t.psr == 0x0#16)
    && goes ({ base with intbase := 0x400#32, psr := 0x10#16, cfg := 0x1F0#32 }) [(0#3,
      0x40#32)] [(0x434#32, [0x00, 0x50, 0x00, 0x00]), (0x1000#32, [0x4E, 0x04, 0xA0, 0x01])]
      (fun t => t.pc == 0x5000#32 && t.reg 0#3 == 0x80#32 && t.sp0 == 0x7FF8#32 && t.psr == 0x0#16
        && holds t 0x7FF8#32 [0x04, 0x10] && holds t 0x7FFE#32 [0x10])
    && goes base [(0#3, 0xAAAA1234#32)] [(0x1000#32, [0x4E, 0x01, 0xA0, 0xFC])]
      (fun t => t.pc == 0x1004#32 && t.reg 0#3 == 0xAAAA4123#32 && t.psr == 0x0#16)
    = true := by
  decide +kernel

/-- V333 `TBITD $-1, 0(R2)`; V336 `SBITW $10, 0(R2)`; V337 `SBITIB $0, @0x2000`; V339 `CBITD $5, R0`; V340 `CBITIB
$7, 0(R1)`; V342 `IBITB $-8, 0(R1)`; V346 `FFSB R0, R1 (search from bit 1)`; V347 `FFSB R0, R1 (offset 8 = past the
end)`. -/
theorem test_vectors_bits :
    goes base [(2#3, 0x2001#32)] [(0x1000#32, [0xB7, 0xA2, 0xFF, 0xFF, 0xFF, 0xFF, 0x00]),
      (0x2000#32, [0x80, 0x00])]
      (fun t => t.pc == 0x1007#32 && t.psr == 0x20#16)
    && goes base [(2#3, 0x2000#32)] [(0x1000#32, [0x4E, 0x99, 0xA2, 0x00, 0x0A, 0x00])]
      (fun t => t.pc == 0x1006#32 && t.psr == 0x0#16 && holds t 0x2001#32 [0x04])
    && goes base [] [(0x1000#32, [0x4E, 0x5C, 0xA5, 0x00, 0xC0, 0x00, 0x20, 0x00])]
      (fun t => t.pc == 0x1008#32 && t.psr == 0x0#16 && holds t 0x2000#32 [0x01])
    && goes base [(0#3, 0xFFFFFFFF#32)] [(0x1000#32, [0x4E, 0x0B, 0xA0, 0x00, 0x00, 0x00, 0x05])]
      (fun t => t.pc == 0x1007#32 && t.reg 0#3 == 0xFFFFFFDF#32 && t.psr == 0x20#16)
    && goes base [(1#3, 0x2000#32)] [(0x1000#32, [0x4E, 0x4C, 0xA2, 0x07, 0x00]), (0x2000#32, [0xFF])]
      (fun t => t.pc == 0x1005#32 && t.psr == 0x20#16 && holds t 0x2000#32 [0x7F])
    && goes base [(1#3, 0x2001#32)] [(0x1000#32, [0x4E, 0x78, 0xA2, 0xF8, 0x00]), (0x2000#32, [0x00,
      0x55])]
      (fun t => t.pc == 0x1005#32 && t.psr == 0x0#16 && holds t 0x2000#32 [0x01])
    && goes base [(0#3, 0x81#32), (1#3, 0x1#32)] [(0x1000#32, [0x6E, 0x44, 0x00])]
      (fun t => t.pc == 0x1003#32 && t.reg 1#3 == 0x7#32 && t.psr == 0x0#16)
    && goes base [(0#3, 0xFF#32), (1#3, 0x8#32)] [(0x1000#32, [0x6E, 0x44, 0x00])]
      (fun t => t.pc == 0x1003#32 && t.reg 1#3 == 0x0#32 && t.psr == 0x20#16)
    = true := by
  decide +kernel

/-- V402 `EXTD R0, 0(R1), R2, 32 (offset -3: 5 bytes from R1 - 1)`; V407 `INSW R0, R2, 0(R1), 3 (only 3 low bits of
src used)`; V410 `EXTSW 0(R1), R2, 7, 16 (3 bytes)`; V412 `INSSW $5, R1, 3, 4`; V415 `CVTP R3, @0x100, R0`; V418
`CHECKB R0, 4(SB), R2 (above)`; V422 `CHECKD R1, 0(R2), R3 (signed bounds -5..5)`; V425 `INDEXB R2, $0xFF, R1
(unsigned: 255 + 1)`; V430 `MOVSD with R0 = 0`; V437 `CMPSB (signed against unsigned: 80 and 01)`. -/
theorem test_vectors_fields_and_arrays :
    goes base [(0#3, 0xFFFFFFFD#32), (1#3, 0x2001#32)] [(0x1000#32, [0x2E, 0x83, 0x48, 0x00,
      0x20]), (0x2000#32, [0xE0, 0xFF, 0x00, 0xFF, 0x1F])]
      (fun t => t.pc == 0x1005#32 && t.reg 2#3 == 0xFFF807FF#32 && t.psr == 0x0#16)
    && goes base [(0#3, 0x7#32), (1#3, 0x2000#32), (2#3, 0xFFFD#32)] [(0x1000#32, [0xAE, 0x41, 0x12,
      0x00, 0x03]), (0x2000#32, [0x00, 0x00])]
      (fun t => t.pc == 0x1005#32 && t.psr == 0x0#16 && holds t 0x2000#32 [0x80, 0x02])
    && goes base [(1#3, 0x2000#32), (2#3, 0xFFFFFFFF#32)] [(0x1000#32, [0xCE, 0x8D, 0x48, 0x00,
      0xEF]), (0x2000#32, [0x80, 0x00, 0x01])]
      (fun t => t.pc == 0x1005#32 && t.reg 2#3 == 0xFFFF0201#32 && t.psr == 0x0#16)
    && goes base [(1#3, 0xFFFFFFFF#32)] [(0x1000#32, [0xCE, 0x49, 0xA0, 0x00, 0x05, 0x63])]
      (fun t => t.pc == 0x1006#32 && t.reg 1#3 == 0xFFFFFFAF#32 && t.psr == 0x0#16)
    && goes base [(3#3, 0x7#32)] [(0x1000#32, [0x6E, 0x1B, 0xA8, 0x81, 0x00])]
      (fun t => t.pc == 0x1005#32 && t.reg 0#3 == 0x807#32 && t.psr == 0x0#16)
    && goes ({ base with sb := 0x3000#32 }) [(2#3, 0xA#32)] [(0x1000#32, [0xEE, 0x80, 0xD0, 0x04]),
      (0x3004#32, [0x09, 0x01])]
      (fun t => t.pc == 0x1004#32 && t.reg 0#3 == 0x9#32 && t.psr == 0x20#16)
    && goes base [(2#3, 0x2000#32), (3#3, 0xFFFFFFFE#32)] [(0x1000#32, [0xEE, 0xCB, 0x50, 0x00]),
      (0x2000#32, [0x05, 0x00, 0x00, 0x00, 0xFB, 0xFF, 0xFF, 0xFF])]
      (fun t => t.pc == 0x1004#32 && t.reg 1#3 == 0x3#32 && t.psr == 0x0#16)
    && goes base [(1#3, 0x80#32), (2#3, 0x2#32)] [(0x1000#32, [0x2E, 0x54, 0xA0, 0xFF])]
      (fun t => t.pc == 0x1004#32 && t.reg 2#3 == 0x280#32 && t.psr == 0x0#16)
    && goes ({ base with psr := 0x20#16 }) [(1#3, 0x2000#32), (2#3, 0x3000#32)] [(0x1000#32, [0x0E,
      0x03, 0x00]), (0x2000#32, [0x41, 0x42, 0x43])]
      (fun t => t.pc == 0x1003#32 && t.psr == 0x0#16)
    && goes base [(0#3, 0x1#32), (1#3, 0x2000#32), (2#3, 0x3000#32)] [(0x1000#32, [0x0E, 0x04, 0x00]),
      (0x2000#32, [0x80]), (0x3000#32, [0x01])]
      (fun t => t.pc == 0x1003#32 && t.psr == 0x4#16)
    = true := by
  decide +kernel

/-- V502 `JUMP 0(4(SB)) (pointer read)`; V517 `BLO +8`; V526 `CASEW 4(PC)[R1:W]`; V527 `CASEB R0`; V529 `ACBD -1,
R0, -4`; V532 `ACBB 1, R2, -10 (overflow, V = 1: return address is the branch target)`. -/
theorem test_vectors_jumps :
    goes ({ base with sb := 0x3000#32 }) [] [(0x1000#32, [0x7F, 0x92, 0x04, 0x00]), (0x3004#32,
      [0x00, 0x60, 0x00, 0x00])]
      (fun t => t.pc == 0x6000#32 && t.psr == 0x0#16)
    && goes ({ base with psr := 0x40#16 }) [] [(0x1000#32, [0xAA, 0x08])]
      (fun t => t.pc == 0x1002#32 && t.psr == 0x40#16)
    && goes base [(1#3, 0x2#32)] [(0x1000#32, [0x7D, 0xEF, 0xD9, 0x04]), (0x1008#32, [0x40, 0x00])]
      (fun t => t.pc == 0x1040#32 && t.psr == 0x0#16)
    && goes base [(0#3, 0xF0#32)] [(0x1000#32, [0x7C, 0x07])]
      (fun t => t.pc == 0xFF0#32 && t.psr == 0x0#16)
    && goes ({ base with pc := 0x1004#32, psr := 0x21#16 }) [(0#3, 0x2#32)] [(0x1004#32, [0xCF, 0x07,
      0x7C])]
      (fun t => t.pc == 0x1000#32 && t.reg 0#3 == 0x1#32 && t.psr == 0x21#16)
    && goes ({ base with intbase := 0x400#32, psr := 0x10#16, cfg := 0x1F0#32 }) [(2#3,
      0x7F#32)] [(0x434#32, [0x00, 0x50, 0x00, 0x00]), (0x1000#32, [0xCC, 0x10, 0x76])]
      (fun t => t.pc == 0x5000#32 && t.reg 2#3 == 0x80#32 && t.sp0 == 0x7FF8#32 && t.psr == 0x0#16
        && holds t 0x7FF8#32 [0xF6, 0x0F] && holds t 0x7FFE#32 [0x10])
    = true := by
  decide +kernel

/-- V536 `JSR 0(SP) (address uses SP before the push)`; V538 `BSR -0x200`; V540 `RET 8`; V541 `CXP 1`; V542 `RXP 0
(after V541)`; V543 `CXPD 0(R1)`. -/
theorem test_vectors_calls :
    goes base [] [(0x1000#32, [0x7F, 0xCE, 0x00])]
      (fun t => t.pc == 0x8000#32 && t.sp0 == 0x7FFC#32 && t.psr == 0x0#16 && holds t 0x7FFC#32 [0x03,
        0x10])
    && goes base [] [(0x1000#32, [0x02, 0xBE, 0x00])]
      (fun t => t.pc == 0xE00#32 && t.sp0 == 0x7FFC#32 && t.psr == 0x0#16 && holds t 0x7FFC#32 [0x03,
        0x10])
    && goes ({ base with pc := 0x3000#32, sp0 := 0x7FFC#32 }) [] [(0x3000#32, [0x12, 0x08]),
      (0x7FFC#32, [0x02, 0x10, 0x00, 0x00])]
      (fun t => t.pc == 0x1002#32 && t.sp0 == 0x8008#32 && t.psr == 0x0#16)
    && goes ({ base with sb := 0x7000#32, mod := 0x20#16 }) [] [(0x20#32, [0x00, 0x70, 0x00, 0x00,
      0x00, 0x40, 0x00, 0x00]), (0x30#32, [0x00, 0x60, 0x00, 0x00]), (0x38#32, [0x00, 0x50, 0x00, 0x00]), (0x1000#32,
      [0x22, 0x01]), (0x4004#32, [0x30, 0x00, 0x10, 0x00])]
      (fun t => t.pc == 0x5010#32 && t.sp0 == 0x7FF8#32 && t.sb == 0x6000#32 && t.mod == 0x30#16 && t.psr == 0x0#16
        && holds t 0x7FF8#32 [0x02, 0x10] && holds t 0x7FFC#32 [0x20])
    && goes ({ base with pc := 0x5010#32, sp0 := 0x7FF8#32, sb := 0x6000#32, mod := 0x30#16 })
      [] [(0x20#32, [0x00, 0x70, 0x00, 0x00, 0x00, 0x40, 0x00, 0x00]), (0x30#32, [0x00, 0x60, 0x00, 0x00]), (0x38#32,
      [0x00, 0x50, 0x00, 0x00]), (0x4004#32, [0x30, 0x00, 0x10, 0x00]), (0x5010#32, [0x32, 0x00]), (0x7FF8#32, [0x02,
      0x10, 0x00, 0x00, 0x20, 0x00, 0x00, 0x00])]
      (fun t => t.pc == 0x1002#32 && t.sp0 == 0x8000#32 && t.sb == 0x7000#32 && t.mod == 0x20#16
        && t.psr == 0x0#16)
    && goes ({ base with sb := 0x7000#32, mod := 0x20#16 }) [(1#3, 0x4004#32)] [(0x20#32, [0x00, 0x70,
      0x00, 0x00, 0x00, 0x40, 0x00, 0x00]), (0x30#32, [0x00, 0x60, 0x00, 0x00]), (0x38#32, [0x00, 0x50, 0x00, 0x00]),
      (0x1000#32, [0x7F, 0x48, 0x00]), (0x4004#32, [0x30, 0x00, 0x10, 0x00])]
      (fun t => t.pc == 0x5010#32 && t.sp0 == 0x7FF8#32 && t.sb == 0x6000#32 && t.mod == 0x30#16 && t.psr == 0x0#16
        && holds t 0x7FF8#32 [0x03, 0x10] && holds t 0x7FFC#32 [0x20])
    = true := by
  decide +kernel

/-- V545 `SVC (Direct-Exception mode, from user mode)`; V547 `FLAG with F = 1`; V548 `BPT (T = 1: saved PSR keeps P
= 1)`; V550 `RETT 4 (Direct-Exception mode)`; V551 `RETT 0 (modular)`; V552 `RETT 0 in user mode`; V553 `RETI
(non-vectored, Direct-Exception mode)`; V554 `ENTER [R0,R1], 8`; V555 `EXIT [R0,R1] (after V554)`; V557 `SAVE
[R0,R1]`; V559 `RESTORE [R0,R1] (after V557)`. -/
theorem test_vectors_traps_and_returns :
    goes ({ base with sp1 := 0x9000#32, intbase := 0x400#32, psr := 0xB21#16, cfg := 0x1F0#32 })
      [] [(0x414#32, [0x00, 0x50, 0x00, 0x00]), (0x1000#32, [0xE2])]
      (fun t => t.pc == 0x5000#32 && t.sp0 == 0x7FF8#32 && t.psr == 0x821#16 && holds t 0x7FF9#32 [0x10]
        && holds t 0x7FFE#32 [0x21, 0x0B])
    && goes ({ base with intbase := 0x400#32, psr := 0x20#16, cfg := 0x1F0#32 }) [] [(0x41C#32, [0x00,
      0x50, 0x00, 0x00]), (0x1000#32, [0xD2])]
      (fun t => t.pc == 0x5000#32 && t.sp0 == 0x7FF8#32 && t.psr == 0x20#16 && holds t 0x7FF9#32 [0x10]
        && holds t 0x7FFE#32 [0x20])
    && goes ({ base with intbase := 0x400#32, psr := 0x2#16, cfg := 0x1F0#32 }) [] [(0x420#32, [0x00,
      0x50, 0x00, 0x00]), (0x1000#32, [0xF2])]
      (fun t => t.pc == 0x5000#32 && t.sp0 == 0x7FF8#32 && t.psr == 0x0#16 && holds t 0x7FF9#32 [0x10]
        && holds t 0x7FFE#32 [0x02, 0x04])
    && goes ({ base with pc := 0x5000#32, sp0 := 0x7FF8#32, sp1 := 0x9000#32, intbase := 0x400#32, cfg := 0x1F0#32 })
      [] [(0x5000#32, [0x42, 0x04]), (0x7FF8#32, [0x03, 0x10, 0x00, 0x00, 0xEE, 0xEE, 0x20, 0x0B])]
      (fun t => t.pc == 0x1003#32 && t.sp0 == 0x8000#32 && t.sp1 == 0x9004#32 && t.psr == 0xB20#16)
    && goes ({ base with pc := 0x5000#32, sp0 := 0x7FF8#32, sb := 0x6000#32, mod := 0x30#16 })
      [] [(0x20#32, [0x00, 0x70, 0x00, 0x00]), (0x5000#32, [0x42, 0x00]), (0x7FF8#32, [0x03, 0x10, 0x00, 0x00, 0x20,
      0x00, 0x00, 0x08])]
      (fun t => t.pc == 0x1003#32 && t.sp0 == 0x8000#32 && t.sb == 0x7000#32 && t.mod == 0x20#16
        && t.psr == 0x800#16)
    && goes ({ base with sp1 := 0x9000#32, intbase := 0x400#32, psr := 0x300#16, cfg := 0x1F0#32 })
      [] [(0x410#32, [0x00, 0x50, 0x00, 0x00]), (0x1000#32, [0x42, 0x00])]
      (fun t => t.pc == 0x5000#32 && t.sp0 == 0x7FF8#32 && t.psr == 0x0#16 && holds t 0x7FF9#32 [0x10]
        && holds t 0x7FFF#32 [0x03])
    && goes ({ base with pc := 0x5000#32, sp0 := 0x7FF8#32, intbase := 0x400#32, cfg := 0x1F0#32, icuReplies := [0x0#8] })
      [] [(0x5000#32, [0x52]), (0x7FF8#32, [0x34, 0x12, 0x00, 0x00, 0x00, 0x00, 0x00, 0x08])]
      (fun t => t.pc == 0x1234#32 && t.sp0 == 0x8000#32 && t.psr == 0x800#16)
    && goes ({ base with fp := 0x9000#32 }) [(0#3, 0x11111111#32), (1#3, 0x22222222#32)] [(0x1000#32,
      [0x82, 0x03, 0x08])]
      (fun t => t.pc == 0x1003#32 && t.sp0 == 0x7FEC#32 && t.fp == 0x7FFC#32 && t.psr == 0x0#16
        && holds t 0x7FEC#32 [0x22, 0x22, 0x22, 0x22, 0x11, 0x11, 0x11, 0x11]
        && holds t 0x7FFD#32 [0x90])
    && goes ({ base with sp0 := 0x7FEC#32, fp := 0x7FFC#32 }) [] [(0x1000#32, [0x92, 0xC0]),
      (0x7FEC#32, [0x22, 0x22, 0x22, 0x22, 0x11, 0x11, 0x11, 0x11]), (0x7FFC#32, [0x00, 0x90, 0x00, 0x00])]
      (fun t => t.pc == 0x1002#32 && t.reg 0#3 == 0x11111111#32 && t.reg 1#3 == 0x22222222#32 && t.sp0 == 0x8000#32
        && t.fp == 0x9000#32 && t.psr == 0x0#16)
    && goes base [(0#3, 0x11111111#32), (1#3, 0x22222222#32)] [(0x1000#32, [0x62, 0x03])]
      (fun t => t.pc == 0x1002#32 && t.sp0 == 0x7FF8#32 && t.psr == 0x0#16 && holds t 0x7FF8#32 [0x22, 0x22, 0x22,
        0x22, 0x11, 0x11, 0x11, 0x11])
    && goes ({ base with sp0 := 0x7FF8#32 }) [] [(0x1000#32, [0x72, 0xC0]), (0x7FF8#32, [0x22, 0x22,
      0x22, 0x22, 0x11, 0x11, 0x11, 0x11])]
      (fun t => t.pc == 0x1002#32 && t.reg 0#3 == 0x11111111#32 && t.reg 1#3 == 0x22222222#32 && t.sp0 == 0x8000#32
        && t.psr == 0x0#16)
    = true := by
  decide +kernel

/-- V605 `LPRD CFG, $0xB03`; V611 `LPRB UPSR, $0xFF in user mode (allowed)`; V615 `SPRD SP,
TOS (value before the push)`; V618 `SPRB UPSR, R0`. -/
theorem test_vectors_registers :
    goes base [] [(0x1000#32, [0x6F, 0xA6, 0x00, 0x00, 0x0B, 0x03])]
      (fun t => t.pc == 0x1006#32 && t.psr == 0x0#16 && t.cfg == 0xBF3#32)
    && goes ({ base with sp1 := 0x9000#32, psr := 0x300#16 }) [] [(0x1000#32, [0x6C, 0xA0, 0xFF])]
      (fun t => t.pc == 0x1003#32 && t.psr == 0x3F7#16)
    && goes base [] [(0x1000#32, [0xAF, 0xBC])]
      (fun t => t.pc == 0x1002#32 && t.sp0 == 0x7FFC#32 && t.psr == 0x0#16
        && holds t 0x7FFD#32 [0x80])
    && goes ({ base with psr := 0x821#16 }) [(0#3, 0xFFFFFFFF#32)] [(0x1000#32, [0x2C, 0x00])]
      (fun t => t.pc == 0x1002#32 && t.reg 0#3 == 0xFFFFFF21#32 && t.psr == 0x821#16)
    = true := by
  decide +kernel

/-- V625 `BISPSRW $0xF008 (unimplemented bits stay 0)`; V627 `BISPSRB $0x20 in user mode (allowed)`; V629 `BICPSRW
$0x800`; V630 `BICPSRW $0x300 (S cleared: SP now names SP0)`; V631 `ADJSPB $-4`; V634 `ADJSPD TOS (pop, then
adjust)`; V637 `SETCFG [C,F,I]`. -/
theorem test_vectors_status :
    goes base [] [(0x1000#32, [0x7D, 0xA3, 0xF0, 0x08])]
      (fun t => t.pc == 0x1004#32 && t.psr == 0x0#16)
    && goes ({ base with sp1 := 0x9000#32, psr := 0x300#16 }) [] [(0x1000#32, [0x7C, 0xA3, 0x20])]
      (fun t => t.pc == 0x1003#32 && t.psr == 0x320#16)
    && goes ({ base with psr := 0x800#16 }) [] [(0x1000#32, [0x7D, 0xA1, 0x08, 0x00])]
      (fun t => t.pc == 0x1004#32 && t.psr == 0x0#16)
    && goes ({ base with sp1 := 0x9000#32, psr := 0x200#16 }) [] [(0x1000#32, [0x7D, 0xA1, 0x03, 0x00])]
      (fun t => t.pc == 0x1004#32 && t.psr == 0x0#16)
    && goes ({ base with sp0 := 0x7FFC#32 }) [] [(0x1000#32, [0x7C, 0xA5, 0xFC])]
      (fun t => t.pc == 0x1003#32 && t.sp0 == 0x8000#32 && t.psr == 0x0#16)
    && goes ({ base with sp0 := 0x7FFC#32 }) [] [(0x1000#32, [0x7F, 0xBD]), (0x7FFC#32, [0x10, 0x00,
      0x00, 0x00])]
      (fun t => t.pc == 0x1002#32 && t.sp0 == 0x7FF0#32 && t.psr == 0x0#16)
    && goes base [] [(0x1000#32, [0x0E, 0x8B, 0x05])]
      (fun t => t.pc == 0x1003#32 && t.psr == 0x0#16 && t.cfg == 0xFB#32)
    = true := by
  decide +kernel

/-- V640 `NOP`; V641 `WAIT`; V642 `DIA`; V643 `CINV [A,D,I], R3`; V645 `CINV [A,D,I], R3 in user mode`; V647 `MOVSUB
0(R1), 0(R2)`; V648 `MOVUSD 0(R1), 0(R2)`; V700 `ADDF F0, F1 with CFG.F = 0`; V704 `LCR 3, R0 with CFG.C = 0 in user
mode (UND, not ILL)`; V705 `first byte 7E (Format 10)`; V709 `Format 2 op 111 is Format 3; Format 3 op 1000
(undefined)`; V806 `vectored INT, ICU answers 11`; V808 `NMI and INT together: NMI first (vector 1), I cleared so
INT waits`. -/
theorem test_vectors_system :
    goes ({ base with psr := 0xE5#16 }) [] [(0x1000#32, [0xA2])]
      (fun t => t.pc == 0x1001#32 && t.psr == 0xE5#16)
    && goes base [] [(0x1000#32, [0xB2])]
      (fun t => t.pc == 0x1001#32 && t.psr == 0x0#16 && t.op == .waiting)
    && goes base [] [(0x1000#32, [0xC2])]
      (fun t => t.pc == 0x1000#32 && t.psr == 0x0#16)
    && goes base [(3#3, 0x12345678#32)] [(0x1000#32, [0x1E, 0xA7, 0x1B])]
      (fun t => t.pc == 0x1003#32 && t.psr == 0x0#16)
    && goes ({ base with sp1 := 0x9000#32, intbase := 0x400#32, psr := 0x300#16, cfg := 0x1F0#32 })
      [] [(0x410#32, [0x00, 0x50, 0x00, 0x00]), (0x1000#32, [0x1E, 0xA7, 0x1B])]
      (fun t => t.pc == 0x5000#32 && t.sp0 == 0x7FF8#32 && t.psr == 0x0#16 && holds t 0x7FF9#32 [0x10]
        && holds t 0x7FFF#32 [0x03])
    && goes base [(1#3, 0x2000#32), (2#3, 0x3000#32)] [(0x1000#32, [0xAE, 0x8C, 0x4A, 0x00, 0x00]),
      (0x2000#32, [0x5A])]
      (fun t => t.pc == 0x1005#32 && t.psr == 0x0#16 && holds t 0x3000#32 [0x5A])
    && goes base [(1#3, 0x2000#32), (2#3, 0x3000#32)] [(0x1000#32, [0xAE, 0x9F, 0x4A, 0x00, 0x00]),
      (0x2000#32, [0x01, 0x02, 0x03, 0x04])]
      (fun t => t.pc == 0x1005#32 && t.psr == 0x0#16 && holds t 0x3000#32 [0x01, 0x02, 0x03, 0x04])
    && goes ({ base with intbase := 0x400#32, cfg := 0x1F0#32 }) [] [(0x428#32, [0x00, 0x50, 0x00,
      0x00]), (0x1000#32, [0xBE, 0x41, 0x00])]
      (fun t => t.pc == 0x5000#32 && t.sp0 == 0x7FF8#32 && t.psr == 0x0#16
        && holds t 0x7FF9#32 [0x10])
    && goes ({ base with sp1 := 0x9000#32, intbase := 0x400#32, psr := 0x300#16, cfg := 0x1F0#32 })
      [] [(0x428#32, [0x00, 0x50, 0x00, 0x00]), (0x1000#32, [0x16, 0x8B, 0x01])]
      (fun t => t.pc == 0x5000#32 && t.sp0 == 0x7FF8#32 && t.psr == 0x0#16 && holds t 0x7FF9#32 [0x10]
        && holds t 0x7FFF#32 [0x03])
    && goes ({ base with intbase := 0x400#32, cfg := 0x1F0#32 }) [] [(0x428#32, [0x00, 0x50, 0x00,
      0x00]), (0x1000#32, [0x7E, 0x00, 0x00])]
      (fun t => t.pc == 0x5000#32 && t.sp0 == 0x7FF8#32 && t.psr == 0x0#16
        && holds t 0x7FF9#32 [0x10])
    && goes ({ base with intbase := 0x400#32, cfg := 0x1F0#32 }) [] [(0x428#32, [0x00, 0x50, 0x00,
      0x00]), (0x1000#32, [0x7F, 0x04])]
      (fun t => t.pc == 0x5000#32 && t.sp0 == 0x7FF8#32 && t.psr == 0x0#16
        && holds t 0x7FF9#32 [0x10])
    && goes ({ base with intbase := 0x400#32, psr := 0x800#16, cfg := 0x1F1#32, intLow := true, icuReplies := [0x11#8] })
      [] [(0x444#32, [0x00, 0x50, 0x00, 0x00]), (0x1000#32, [0xA2])]
      (fun t => t.pc == 0x5000#32 && t.sp0 == 0x7FF8#32 && t.psr == 0x0#16 && holds t 0x7FF9#32 [0x10]
        && holds t 0x7FFF#32 [0x08])
    && goes ({ base with intbase := 0x400#32, psr := 0x800#16, cfg := 0x1F0#32, intLow := true, nmiLatch := true, icuReplies := [0x0#8] })
      [] [(0x400#32, [0x00, 0x50, 0x00, 0x00, 0x00, 0x60, 0x00, 0x00]), (0x1000#32, [0xA2])]
      (fun t => t.pc == 0x6000#32 && t.sp0 == 0x7FF8#32 && t.psr == 0x0#16 && holds t 0x7FF9#32 [0x10]
        && holds t 0x7FFF#32 [0x08])
    = true := by
  decide +kernel

/-- W02 `ROUNDFB F2, R0`; W03 `MOVLF 0(R1), F3`; W04 `SFSR R5`; W08 `MOVFL F1, 0(R2)`; W09 `CMPF 0(R1), F1`; W11
`ADDF F0, F1, slave reports an exception`; W13 `CCAL0Q 0(R1), 0(R2)`. -/
theorem test_vectors_slave :
    goes ({ base with cfg := 0xF2#32, slaveReplies := [.done 0xFFFFFF85#32 0x0#32] }) [(0#3,
      0xAAAAAAAA#32)] [(0x1000#32, [0x3E, 0x24, 0x10])]
      (fun t => t.pc == 0x1003#32 && t.reg 0#3 == 0xAAAAAA85#32 && t.psr == 0x0#16)
    && goes ({ base with cfg := 0xF2#32, slaveReplies := [.done 0x0#32 0x0#32] }) [(1#3,
      0x2000#32)] [(0x1000#32, [0x3E, 0xD6, 0x48, 0x00]), (0x2000#32, [0x00, 0x00, 0x00, 0x00, 0x00, 0x00, 0xF0, 0x3F])]
      (fun t => t.pc == 0x1004#32 && t.psr == 0x0#16)
    && goes ({ base with cfg := 0xF2#32, slaveReplies := [.done 0x1F#32 0x0#32] }) [] [(0x1000#32,
      [0x3E, 0x77, 0x01])]
      (fun t => t.pc == 0x1003#32 && t.reg 5#3 == 0x1F#32 && t.psr == 0x0#16)
    && goes ({ base with cfg := 0xF2#32, slaveReplies := [.done 0x11111111#32 0x22222222#32] }) [(2#3,
      0x3000#32)] [(0x1000#32, [0x3E, 0x9B, 0x0A, 0x00])]
      (fun t => t.pc == 0x1004#32 && t.psr == 0x0#16 && holds t 0x3000#32 [0x11, 0x11, 0x11, 0x11, 0x22, 0x22, 0x22,
        0x22])
    && goes ({ base with psr := 0x21#16, cfg := 0xF2#32, slaveReplies := [.status 0x80#32] }) [(1#3,
      0x2000#32)] [(0x1000#32, [0xBE, 0x49, 0x48, 0x00]), (0x2000#32, [0x00, 0x00, 0x80, 0x3F])]
      (fun t => t.pc == 0x1004#32 && t.psr == 0xA1#16)
    && goes ({ base with intbase := 0x400#32, cfg := 0x1F2#32, slaveReplies := [.status 0x1#32] })
      [] [(0x40C#32, [0x00, 0x50, 0x00, 0x00]), (0x1000#32, [0xBE, 0x41, 0x00])]
      (fun t => t.pc == 0x5000#32 && t.sp0 == 0x7FF8#32 && t.psr == 0x0#16
        && holds t 0x7FF9#32 [0x10])
    && goes ({ base with cfg := 0xF8#32, slaveReplies := [.done 0xAAAAAAAA#32 0xBBBBBBBB#32] }) [(1#3,
      0x2000#32), (2#3, 0x3000#32)] [(0x1000#32, [0xB6, 0x80, 0x4A, 0x00, 0x00]), (0x2000#32, [0x01, 0x00, 0x00,
      0x00, 0x02, 0x00, 0x00, 0x00]), (0x3000#32, [0x03, 0x00, 0x00, 0x00, 0x04, 0x00, 0x00, 0x00])]
      (fun t => t.pc == 0x1005#32 && t.psr == 0x0#16 && holds t 0x3000#32 [0xAA, 0xAA, 0xAA, 0xAA, 0xBB, 0xBB, 0xBB,
        0xBB])
    = true := by
  decide +kernel

/-! ### Steps worked out by hand from the rules -/

-- MOVSB, the first of three elements (R421, R422): the PC stays, the string instruction is half done.
theorem test_string_element : goes base [(0#3, 3#32), (1#3, 0x2000#32), (2#3, 0x3000#32)]
    [(0x1000#32, [0x0E, 0x00, 0x00]), (0x2000#32, [0x41, 0x42, 0x43])]
    (fun t => t.pc == 0x1000#32 && t.midString && t.reg 0#3 == 2#32 && t.reg 1#3 == 0x2001#32
      && t.reg 2#3 == 0x3001#32 && holds t 0x3000#32 [0x41, 0x00]) = true := by decide +kernel

-- SKPST U on an entry that translates to the one looked for (R427): it stops with F set, R0 and R1 as they were.
theorem test_string_translated : goes base [(0#3, 4#32), (1#3, 0x2001#32), (3#3, 0x4000#32), (4#3, 0x2E#32)]
    [(0x1000#32, [0x0E, 0x8C, 0x06]), (0x2001#32, [0x02]), (0x4002#32, [0x2E])]
    (fun t => t.pc == 0x1003#32 && t.reg 0#3 == 4#32 && t.reg 1#3 == 0x2001#32 && t.psr == 0x20#16) = true := by
  decide +kernel

-- A read that ends in a bus error (R624): vector 11, return to the instruction, TOS not popped.
theorem test_restartable_bus_error :
    goes { base with
        intbase := 0x400#32, cfg := 0x1F0#32
        platform := [⟨0x8000, 4, .ram, true, false, false, false, true⟩] } []
      [(0x1000#32, [0x17, 0xB8]), (0x42C#32, [0x00, 0x50])]
      (fun t => t.pc == 0x5000#32 && t.sp0 == 0x7FF8#32 && holds t 0x7FF8#32 [0x00, 0x10]) = true := by decide +kernel

-- A bus error while the frame is pushed halts the CPU (R626).
theorem test_fatal_bus_error :
    goes { base with platform := [⟨0x7FF0, 16, .ram, false, true, false, false, true⟩] } [] [(0x1000#32, [0xE2])]
      (fun t => t.op == .halted) = true := by decide +kernel

-- RST (R700): R0 holds the PC.
theorem test_reset_input :
    goes { base with psr := 0x0B21#16, inputs := [⟨true, false, false, false, [], []⟩] } [] []
      (fun t => t.reg 0#3 == 0x1000#32 && t.pc == 0#32 && t.psr == 0#16 && t.cfg == 0xF0#32 && t.op == .reset)
      = true := by decide +kernel

-- Trap (DBG) before NMI before INT (R645).
theorem test_debug_first :
    goes { base with intbase := 0x400#32, cfg := 0x1F0#32, psr := 0x0800#16, intLow := true, nmiLatch := true, dbgLatch := true }
      [] [(0x438#32, [0x00, 0x70])]
      (fun t => t.pc == 0x7000#32 && t.nmiLatch && !t.dbgLatch && t.dsr.getLsbD 29) = true := by decide +kernel

-- The PC-match condition (R683): after the NOP at BPC Trap (DBG) is pending and DSR.BPC is set.
theorem test_pc_match :
    goes { base with dcr := 0x00D80000#32, bpc := 0x1000#32 } [] [(0x1000#32, [0xA2])]
      (fun t => t.dbgPending && t.dsr == 0x40000000#32) = true := by decide +kernel

-- An overwritten byte may still be fetched (R105, U8) until a serializing operation (R110), here LPRB UPSR.
theorem test_stale_code :
    (match exec (.mov .b (.mode (.imm 0xA2#64)) (.mode (.abs (.d14 0x1001#14)))) base with
      | .next t => t.fetchUnit == ⟨[(0x1001#32, 0x00#8)], [], .unstarted⟩
        && (match exec (.lpr .b .upsr (.mode (.imm 0#64))) t with
          | .next u => u.fetchUnit == .empty
          | _ => false)
      | _ => false) = true := by decide +kernel

-- The data cache (R134, R137): a read fills the line, and the cached byte stays when another master writes the memory.
theorem test_data_cache :
    goes { base with cfg := 0x2F0#32 } [] [(0x1000#32, [0x57, 0xA8, 0xC0, 0x00, 0x20, 0x00]), (0x2000#32, [0x11, 0x22, 0x33, 0x44])]
      (fun t => t.reg 1#3 == 0x44332211#32
        && dcByte (externalWrites t [(0x2000#32, 0x99#8)]) 0x2000#32 == some 0x11#8) = true := by decide +kernel

-- The slave that never answers (R524).
theorem test_silent_slave :
    exec (.addf .std 0#1 (.mode (.reg 0#3)) (.mode (.reg 1#3))) { base with cfg := 0xF2#32, slaveReplies := [.silent] }
      = .fault .slaveSilent := rfl

-- A free value goes on (U19): LSHD $33 advances the PC and keeps every flag.
theorem test_undefined_shift : goes { base with psr := 0x61#16 } [(0#3, 1#32)] [(0x1000#32, [0x4E, 0x17, 0xA0, 0x21])]
    (fun t => t.pc == 0x1004#32 && t.psr == 0x61#16) = true := by decide +kernel

-- The instruction placed by withFetchWord is the one the step runs: ADDB R1, R2.
theorem test_fetch_word :
    (match step ((base.setReg 1#3 5#32).withFetchWord 16 0x0880) with
      | .next t => t.reg 2#3 == 5#32 && t.pc == 0x1002#32
      | _ => false) = true := by decide +kernel

-- Memory keeps the canonical form: writing the default removes the cell.
theorem test_memory_canonical : memSet (memSet [] 5 1#8) 5 0#8 = [] ∧ memSet [(5, 1#8)] 3 2#8 = [(3, 2#8), (5, 1#8)] := by
  decide

/-! ### Witnesses: a state and operands that meet the hypotheses of each obligation, each clause at a boundary -/

/-- A register operand. -/
def gReg (k : RegNum) : Gen := .mode (.reg k)
/-- A memory operand: 4(R1). -/
def gMem : Gen := .mode (.regRel 1#3 (.d7 4#7))
/-- The top of the stack. -/
def gTos : Gen := .mode .tos
/-- An immediate. -/
def gImm (v : Quad) : Gen := .mode (.imm v)
/-- The longest displacement: 1FFFFFFF. -/
def dMax : Disp := .d30 0x1FFFFFFF#30
/-- A displacement that has the reserved first byte E0. -/
def dBad : Disp := .d30 0x20000000#30
/-- `base` in user mode. -/
def userState : State := { base with psr := 0x0300#16 }
/-- `base` with both slave sets enabled and a slave that is done. -/
def slaveState : State := { base with cfg := 0xFA#32, slaveReplies := [.done 1#32 2#32] }

theorem exists_next {o : Out} (h : (match o with | .next _ => true | _ => false) = true) : ∃ t, o = .next t := by
  cases o with
  | next t => exact ⟨t, rfl⟩
  | fault _ => cases h
  | refused _ => cases h

theorem witness_DecodeOfEncode :
    ([.mov .d (gImm 0xFFFFFFFF#64) (.mode (.ext dMax dMax)), .addf .long 1#1 (gImm 0xFFFFFFFFFFFFFFFF#64) .reserved,
      .nop] : List Instr).all Instr.wf = true := by decide

theorem witness_EncodeOfDecode : decode [0xA2#8, 0x05#8] = .ok (.nop, [0x05#8]) := by rfl

theorem witness_DecodeTotal : 25 ≤ (List.replicate 25 0#8 : List Byte).length := by decide

/-- `base` with a NOP at the PC. -/
def nopState : State := { base with mem := [(0x1000, 0xA2#8)] }

theorem witness_StepRunsDecoded :
    nopState.inputs = [] ∧ nopState.op = .executing ∧ nopState.pendingError = false ∧ pendingEvent nopState = none
    ∧ pendingTrace nopState = none
    ∧ decode (fetchFrom (begin nopState) nopState.pc maxLength) = .ok (.nop, List.replicate 24 0#8)
    ∧ anyFrom reservedAddress nopState.pc (neededBytes (begin nopState) 0xA2#8 1) = false
    ∧ fetchError (begin nopState) nopState.pc (neededBytes (begin nopState) 0xA2#8 1) = false :=
  ⟨rfl, rfl, rfl, rfl, rfl, rfl, rfl, rfl⟩

theorem witness_StepRunsMemory :
    nopState.plain = true ∧ nopState.cfgIC = false ∧ nopState.fetchUnit.prefetched = [] ∧ nopState.inputs = []
    ∧ nopState.op = .executing ∧ pendingEvent nopState = none ∧ pendingTrace nopState = none ∧ Instr.nop.wf = true
    ∧ bytesFrom (fun x => memGet nopState.mem x.toNat) nopState.pc (encode .nop).length = encode .nop
    ∧ anyFrom reservedAddress nopState.pc (encode .nop).length = false :=
  ⟨rfl, rfl, rfl, rfl, rfl, rfl, rfl, rfl, rfl, rfl⟩

theorem witness_StepKeepsInvariant : nopState.inv = true ∧ ∃ t, step nopState = .next t :=
  ⟨rfl, exists_next (by decide +kernel)⟩

/-- An input with everything at once. -/
def busyInput (rst : Bool) : Input := ⟨rst, true, true, true, [(0#32, 1#8)], [⟨true, true, true, none⟩]⟩

theorem witness_ResetValues :
    base.plain = true ∧ base.flagU = false ∧ base.inv = true ∧ legal .write gTos = true
    ∧ (let s := (base.setReg 1#3 0x0B#32).setReg 2#3 0xFB#32
      s.reg 1#3 &&& 0xFFFFFF0F#32 = s.reg 2#3 &&& 0xFFFFFF0F#32 ∧ s.reg 1#3 ≠ s.reg 2#3
        ∧ s.reg 1#3 &&& 0xFFFFE004#32 = 0#32)
    ∧ (0b1011#4 : BitVec 4).getLsbD 2 = false := by decide

theorem witness_ResetInput :
    let busy (rst : Bool) (op : OpState) : State := { base with op := op, inputs := [busyInput rst] }
    ((busy true .halted).inputs = [busyInput true] ∧ (busyInput true).rst = true ∧ (busy true .halted).op ≠ .reset
      ∧ (busy true .halted).midString = false)
    ∧ (∃ s : State, s.op = .reset ∧ s.inputs = [])
    ∧ ((busy true .reset).inputs = [busyInput true] ∧ (busy true .reset).op = .reset)
    ∧ ((busy false .reset).inputs = [busyInput false] ∧ (busy false .reset).op = .reset
      ∧ (busyInput false).rst = false)
    ∧ base.fetchUnit = .empty ∧ icByte base 0#32 = none :=
  ⟨by decide, ⟨{ base with op := .reset }, by decide⟩, by decide, by decide, rfl, rfl⟩

theorem witness_EventPriority :
    (∃ s : State, s.inputs = [] ∧ s.op = .halted)
    ∧ (∃ s : State, s.inputs = [] ∧ s.op = .waiting ∧ s.pendingError = true)
    ∧ (∃ s : State, s.inputs = [] ∧ s.pendingError = false ∧ s.op = .waiting ∧ pendingEvent s = none)
    ∧ (∃ s : State, s.inputs = [] ∧ s.pendingError = false ∧ s.op = .waiting ∧ (settle s).dbgPending = true)
    ∧ (∃ s : State, s.inputs = [] ∧ s.pendingError = false ∧ s.op = .executing ∧ s.midString = true
        ∧ s.dbgPending = false ∧ (settle s).dbgPending = true)
    ∧ (∃ s : State, s.inputs = [] ∧ s.pendingError = false ∧ s.op = .executing ∧ s.dbgLatch = true)
    ∧ (∃ s : State, s.inputs = [] ∧ s.pendingError = false ∧ s.op = .executing ∧ (settle s).dbgPending = false
        ∧ s.dbgLatch = false ∧ s.nmiLatch = true)
    ∧ (∃ s : State, s.inputs = [] ∧ s.pendingError = false ∧ s.op = .waiting ∧ (settle s).dbgPending = false
        ∧ s.dbgLatch = false ∧ s.nmiLatch = false ∧ s.intLow = true ∧ s.flagI = true)
    ∧ (∃ s : State, s.inputs = [] ∧ s.pendingError = false ∧ s.op = .executing ∧ (settle s).dbgPending = false
        ∧ s.dbgLatch = false ∧ s.nmiLatch = false ∧ s.flagI = false ∧ s.flagP = true ∧ s.midString = false) :=
  ⟨⟨{ base with op := .halted }, by decide⟩,
    ⟨{ base with op := .waiting, writeBuffer := [⟨0#32, [0#8], true⟩] }, by decide⟩,
    ⟨{ base with op := .waiting }, rfl, rfl, rfl, rfl⟩,
    ⟨{ base with op := .waiting, dbgPending := true }, by decide⟩,
    ⟨{ base with midString := true, dcr := 0x00C800A1#32, elementRefs := [.mem stData 0#32 1 true false false 0#64] },
      by decide +kernel⟩,
    ⟨{ base with dbgLatch := true }, by decide⟩, ⟨{ base with nmiLatch := true }, by decide⟩,
    ⟨{ base with op := .waiting, intLow := true, psr := 0x0800#16 }, by decide⟩,
    ⟨{ base with intLow := true, psr := 0x0400#16 }, by decide⟩⟩

theorem witness_ExceptionEntry : base.plain = true := by decide

theorem witness_ExceptionFrame :
    base.plain = true ∧ Memory.wf base.mem = true ∧ base.cfgDE = false ∧ 8 ≤ ((0x8000#32 : Word) - (base.sp0 - 8#32)).toNat
    ∧ 8 ≤ ((0x7FF7#32 : Word) - (base.sp0 - 8#32)).toNat := by decide

/-- `base` with a board on which reads and writes of one byte end in a bus error. -/
def errorAt (a : Nat) : State := { base with platform := [⟨a, 1, .ram, true, true, false, false, true⟩] }

/-- The premises of `FatalBusError` on the board, and bus errors at one byte of each reference of an entry with vector
5: the last of each push, the first of the dispatch-table entry, of the two reads of the module descriptor, the
acknowledge cycles of NMI and INT; and a cascaded unit at address 0. -/
theorem witness_FatalBusError :
    (∀ a ∈ [0x7FFF, 0x7FFB, 0x14, 0x7FFD, 8, 0, 0xFFFFFF00, 0xFFFFFE00], let s := errorAt a
      s.platform.all (·.kind == .ram) = true ∧ s.cfgDC = false ∧ s.busReplies = [] ∧ s.pendingError = false
      ∧ s.cfgDE = false ∧ s.flagU = false ∧ anyFrom (fun x => (regionAt s.platform x).readError) (BitVec.ofNat 32 a) 1 = true
      ∧ anyFrom (fun x => (regionAt s.platform x).writeError) (BitVec.ofNat 32 a) 1 = true)
    ∧ ((entryPushed false 0#16 base).load32 (base.intbase + 4#32 * 5#32)) = 0#32
    ∧ (let s : State := { errorAt 0 with cfg := 0xF1#32, icuReplies := [0xF0#8] }
      s.cfgI = true ∧ (0xF0#8 : Byte).extractLsb' 4 4 = 0xF#4 ∧ s.load32 (s.intbase + 4#32 * (0xF0#8).signExtend 32) = 0#32)
    ∧ (∃ s : State, s.op = .halted ∧ s.inputs = [])
    ∧ ∃ s : State, s.op = .halted ∧ s.inputs = [busyInput false] ∧ (busyInput false).rst = false :=
  ⟨by decide +kernel, by decide +kernel, by decide +kernel, ⟨{ base with op := .halted }, by decide⟩,
    ⟨{ base with op := .halted, inputs := [busyInput false] }, by decide⟩⟩

theorem witness_TrapInstructions : base.plain = true ∧ ({ base with psr := 0x20#16 } : State).flagF = true := by decide

theorem witness_PrivilegedInUserMode :
    userState.plain = true ∧ userState.flagU = true ∧ Size.d ≠ .u ∧ Size.d ≠ .b
    ∧ Operand.illegal ⟨gImm 5#64, .read, 0⟩ = false ∧ Operand.illegal ⟨gTos, .write, 0⟩ = false
    ∧ Operand.illegal ⟨gMem, .addr, 0⟩ = false ∧ Operand.illegal ⟨gTos, .addr, 0⟩ = false ∧ aregPrivileged .psr = true
    ∧ ({ userState with cfg := 0xF8#32 } : State).cfgC = true ∧ (3#2 : BitVec 2) ≠ 2#2 := by decide

theorem witness_IllegalOperandTraps :
    base.plain = true ∧ userState.plain = true ∧ Operand.illegal ⟨.reserved, .read, 0⟩ = true
    ∧ Operand.illegal ⟨.idxBad .b 1#3 0b11100#5, .read, 0⟩ = true
    ∧ Operand.illegal ⟨.idx .b 1#3 (.imm 0#64), .read, 0⟩ = true ∧ Operand.illegal ⟨gImm 0#64, .write, 0⟩ = true
    ∧ Operand.illegal ⟨gImm 0#64, .addr, 0⟩ = true ∧ (6#3 : BitVec 3).setWidth 2 = 2#2 := by decide

theorem witness_ReservedEncodingsRefused :
    base.plain = true ∧ base.flagU = false ∧ Size.w ≠ .u ∧ Size.w ≠ .d ∧ legal .read gTos = true
    ∧ legal .write gTos = true ∧ legal .addr gTos = true
    ∧ blockOk .w (.d7 15#7) = false ∧ blockOk .w (.d7 1#7) = false ∧ blockOk .w (.d7 127#7) = false
    ∧ (7#3 : RegNum).getLsbD 0 = true ∧ lengthOk (.d7 0#7) = false ∧ lengthOk (.d7 33#7) = false
    ∧ (Disp.d7 33#7).wf = true ∧ aregReserved .res7 = true ∧ aregReserved .psr = false ∧ Size.d ≠ aregSize .psr
    ∧ dBad.wf = false ∧ (4#4 : BitVec 4).getLsbD 2 = true ∧ Size.w ≠ .b ∧ (0b1011#4 : BitVec 4).getLsbD 2 = false
    ∧ (base.setReg 1#3 4#32).reg 1#3 &&& 0xFFFFE004#32 ≠ 0#32
    ∧ (1#6 : BitVec 6) ≠ 0#6 ∧ (16#5 : BitVec 5) ≠ 0#5 ∧ (4#3 : BitVec 3) ≠ 0#3 ∧ (5#3 : BitVec 3).setWidth 2 ≠ 2#2
    ∧ legal .rmw gTos = true ∧ slaveState.plain = true ∧ slaveState.cfgF = true ∧ slaveState.cfgC = true
    ∧ (let s : State := { base with pc := 0xFF800000#32 }
      s.plain = true ∧ s.inputs = [] ∧ s.op = .executing ∧ (pendingEvent s).isNone = true
      ∧ (pendingTrace s).isNone = true ∧ reservedAddress s.pc = true) := by decide +kernel

/-- `base` in Direct-Exception mode with a board whose byte at 2000 ends a bus cycle in an error. -/
def byteError (read : Bool) : State :=
  { base with cfg := 0x1F0#32, platform := [⟨0x2000, 1, .ram, read, !read, false, false, true⟩] }

theorem byteError_region (read : Bool) (a : Word) :
    (regionAt (byteError read).platform a).readError = (if read then decide (a = 0x2000#32) else false)
    ∧ (regionAt (byteError read).platform a).writeError = (if read then false else decide (a = 0x2000#32))
    ∧ (regionAt (byteError read).platform a).kind = .ram := by
  by_cases h : a = 0x2000#32
  · subst h
    cases read <;> decide
  · have h' : ¬(8192 ≤ a.toNat ∧ a.toNat < 8193) := by
      intro hh
      exact h (BitVec.eq_of_toNat_eq (by simpa using (show a.toNat = 8192 by omega)))
    simp [byteError, regionAt, h', h, defaultRegion]

/-- A board whose byte at `a` cannot be read, in Direct-Exception mode or not. -/
def unreadable (de : Bool) (a : Nat) : State :=
  { base with
    cfg := if de then 0x1F0#32 else 0xF0#32, mem := [(0x1000, 0xA2#8)]
    platform := [⟨a, 1, .ram, true, false, false, false, true⟩] }

/-- Whether one of `n` bytes of that board cannot be read. -/
def noRead (s : State) (a : Word) (n : Nat) : Bool := anyFrom (fun x => (regionAt s.platform x).readError) a n

/-- The premises of `RestartableBusError` on the board. -/
def entryReadable (s : State) : Bool :=
  let m := (entryPushed true (setP false s.psr) s).load32 (s.intbase + 44#32) &&& 0xFFFF#32
  s.platform.all (fun r => r.kind == .ram && !r.writeError) && !s.cfgDC && s.busReplies.isEmpty && !s.pendingError
    && !noRead s (s.intbase + 44#32) 4 && (s.cfgDE || (!noRead s (m + 8#32) 4 && !noRead s m 4))

theorem witness_RestartableBusError :
    (∀ de ∈ [false, true],
      (entryReadable (unreadable de 0x2003) = true ∧ noRead (unreadable de 0x2003) (Disp.d30 0x2000#30).value 4 = true)
      ∧ (entryReadable (unreadable de 0x8000) = true ∧ noRead (unreadable de 0x8000) base.sp 4 = true)
      ∧ noRead (unreadable de 0x2003) 0x2003#32 1 = true
      ∧ entryReadable (((unreadable de 0x2003).setReg 0#3 1#32).setReg 1#3 0x2003#32) = true)
    ∧ Size.d ≠ .u ∧ (Disp.d30 0x2000#30).wf = true
    ∧ (⟨.none, false, 0#6⟩ : StrOpts).uw ≠ .unassigned ∧ (⟨.none, false, 0#6⟩ : StrOpts).pad = 0#6 := by
  decide +kernel

theorem witness_RestartableBusError_fetch :
    (unreadable true 0x1000).inputs = [] ∧ (unreadable true 0x1000).op = .executing
    ∧ pendingEvent (unreadable true 0x1000) = none ∧ pendingTrace (unreadable true 0x1000) = none
    ∧ (unreadable true 0x1000).cfgIC = false
    ∧ decode (fetchFrom (begin (unreadable true 0x1000)) 0x1000#32 maxLength) = .ok (.nop, List.replicate 24 0#8)
    ∧ anyFrom reservedAddress 0x1000#32 1 = false ∧ noRead (unreadable true 0x1000) 0x1000#32 1 = true
    ∧ entryReadable (unreadable true 0x1000) = true :=
  ⟨rfl, rfl, rfl, rfl, rfl, rfl, rfl, rfl, by decide +kernel⟩

theorem witness_NonRestartableBusError :
    Memory.wf (byteError false).mem = true ∧ (byteError false).busReplies = [] ∧ (byteError false).cfgDC = false
    ∧ (byteError false).cfgDE = true ∧ Size.d ≠ .u ∧ (Disp.d30 0x2000#30).wf = true
    ∧ (∀ a : Word, (regionAt (byteError false).platform a).writeError = decide (a = (Disp.d30 0x2000#30).value)
        ∧ (regionAt (byteError false).platform a).readError = false
        ∧ (regionAt (byteError false).platform a).kind = .ram)
    ∧ (∀ x : Nat, x < 8 → (byteError false).sp0 - 8#32 + BitVec.ofNat 32 x ≠ (Disp.d30 0x2000#30).value)
    ∧ (∀ x : Nat, x < 4 → 8 ≤ ((byteError false).intbase + 48#32 + BitVec.ofNat 32 x - ((byteError false).sp0 - 8#32)).toNat)
    ∧ ({ byteError false with writeBuffer := [⟨0x2000#32, [0#8], true⟩] } : State).pendingError = true :=
  ⟨rfl, rfl, by decide, by decide, by decide, by decide,
    fun a => ⟨(byteError_region false a).2.1, (byteError_region false a).1, (byteError_region false a).2.2⟩, by decide,
    by decide, by decide⟩

theorem witness_InterruptsAndDebugTraps :
    (∃ s : State, s.plain = true ∧ s.icuReplies = [0x10#8] ∧ s.cfgI = false)
    ∧ (∃ s : State, s.plain = true ∧ s.icuReplies = [0x7F#8] ∧ s.cfgI = true ∧ (0x7F#8 : Byte).getLsbD 7 = false)
    ∧ (∃ s : State, s.plain = true ∧ s.icuReplies = [0xF0#8, 0x20#8] ∧ s.cfgI = true
        ∧ (0xF0#8 : Byte).extractLsb' 4 4 = 0xF#4)
    ∧ (∃ s : State, s.plain = true ∧ s.icuReplies = [0xEF#8] ∧ s.cfgI = true ∧ (0xEF#8 : Byte).getLsbD 7 = true
        ∧ (0xEF#8 : Byte).extractLsb' 4 4 ≠ 0xF#4) :=
  ⟨⟨{ base with icuReplies := [0x10#8] }, by decide⟩,
    ⟨{ base with cfg := 0xF1#32, icuReplies := [0x7F#8] }, by decide⟩,
    ⟨{ base with cfg := 0xF1#32, icuReplies := [0xF0#8, 0x20#8] }, by decide⟩,
    ⟨{ base with cfg := 0xF1#32, icuReplies := [0xEF#8] }, by decide⟩⟩

theorem witness_PushedStateComesBack :
    ∃ s : State, s.plain = true ∧ Memory.wf s.mem = true ∧ s.cfgDE = true ∧ s.psr &&& ~~~psrMask = 0#16
      ∧ s.dcr.getLsbD 23 = false ∧ (∃ t, takeTrap s .ill s = .next t) ∧ (∃ t, exec (.save 0xFF#8) s = .next t)
      ∧ ∃ t, exec (.cxp dMax) s = .next t :=
  ⟨{ base with cfg := 0x1F0#32, psr := 0x0BF7#16 }, by decide, by decide, by decide, by decide, by decide,
    exists_next (by decide +kernel), exists_next (by decide +kernel), exists_next (by decide +kernel)⟩

theorem witness_Conditions : dMax.wf = true ∧ base.pendingError = false ∧ Size.b ≠ .u ∧ base.plain = true ∧ legal .write gTos = true := by decide

theorem witness_Moves :
    Size.w ≠ .u ∧ Size.w ≠ .d ∧ base.plain = true ∧ legal .write gTos = true ∧ legal .write gMem = true
    ∧ legal .read (gImm 0#64) = true ∧ legal .addr gTos = true ∧ addrOf base gTos = some 0x8000#32
    ∧ (Disp.d7 14#7).wf = true ∧ blockOk .w (.d7 14#7) = true ∧ blockOk .w (.d7 0#7) = true
    ∧ addrOf base gMem = some 4#32 ∧ legal .addr gMem = true := by decide

theorem witness_UnaryOperations :
    Size.b ≠ .u ∧ base.plain = true ∧ legal .read gTos = true ∧ legal .write gTos = true := by decide

theorem witness_LogicalOperations :
    Size.w ≠ .u ∧ base.plain = true ∧ legal .read gTos = true ∧ legal .rmw gTos = true := by decide

theorem witness_AddAndSubtract :
    Size.d ≠ .u ∧ base.plain = true ∧ legal .read (gImm 0xFFFFFFFF#64) = true ∧ legal .rmw gMem = true := by decide

theorem witness_MultiplyAndDivide :
    Size.b ≠ .u ∧ base.plain = true ∧ legal .read (gImm 0xFF#64) = true ∧ legal .rmw (gReg 0#3) = true
    ∧ (src base Size.b.bytes (gImm 0xFF#64)).setWidth Size.b.bits ≠ 0#Size.b.bits := by decide

theorem witness_DivideByZero :
    Size.d ≠ .u ∧ base.plain = true ∧ legal .read gTos = true ∧ legal .rmw (gReg 6#3) = true
    ∧ src base Size.d.bytes gTos = 0#64 ∧ oddRegister (gReg 6#3) = false := by decide

theorem witness_ExtendedIntegers :
    let s := base.setReg 7#3 6#32
    Size.b ≠ .u ∧ s.plain = true ∧ legal .read (gImm 7#64) = true ∧ legal .rmw (gReg 6#3) = true
    ∧ oddRegister (gReg 6#3) = false ∧ oddRegister gTos = false
    ∧ 0 < (src s Size.b.bytes (gImm 7#64)).toNat
    ∧ (0 + 2 ^ Size.b.bits * (doubleValue s Size.b.bytes (genLoc s (gReg 6#3))).2.toNat)
        / (src s Size.b.bytes (gImm 7#64)).toNat < 2 ^ Size.b.bits := by decide

theorem witness_PackedDecimal :
    let s := base.setReg 0#3 0x99#32
    (99 : Nat) < 10 ^ 2 ∧ Size.b ≠ .u ∧ s.plain = true ∧ legal .read (gImm 0x99#64) = true
    ∧ legal .rmw (gReg 0#3) = true ∧ bcdValid (Size.b.bits / 4) (src s Size.b.bytes (gImm 0x99#64)).toNat = true
    ∧ bcdValid (Size.b.bits / 4) (dest s Size.b.bytes (gImm 0x99#64) Size.b.bytes (gReg 0#3)).toNat = true := by decide

theorem witness_Comparisons :
    Size.w ≠ .u ∧ base.plain = true ∧ legal .read gTos = true ∧ legal .read (gImm 0#64) = true
    ∧ legal .addr gMem = true ∧ legal .addr gTos = true ∧ (Disp.d7 14#7).wf = true ∧ blockOk .w (.d7 14#7) = true
    ∧ addrOf base gMem = some 4#32 ∧ addrOf base gTos = some 0x8000#32 := by decide

/-- The shift count an immediate byte is. -/
def countOf (v : Quad) : Int := ((src base 1 (gImm v)).setWidth 8).toInt

theorem witness_Shifts :
    Size.b ≠ .u ∧ base.plain = true ∧ legal .read (gImm 8#64) = true ∧ legal .rmw (gReg 0#3) = true
    ∧ (0 ≤ countOf 0#64 ∧ countOf 0#64 ≤ Size.b.bits) ∧ (0 ≤ countOf 8#64 ∧ countOf 8#64 ≤ Size.b.bits)
    ∧ (countOf 0xFF#64 < 0 ∧ -(Size.b.bits : Int) ≤ countOf 0xFF#64)
    ∧ (countOf 0xF8#64 < 0 ∧ -(Size.b.bits : Int) ≤ countOf 0xF8#64)
    ∧ (-(Size.b.bits : Int) < countOf 7#64 ∧ countOf 7#64 < Size.b.bits)
    ∧ (-(Size.b.bits : Int) < countOf 0xF9#64 ∧ countOf 0xF9#64 < Size.b.bits) := by decide

theorem witness_UndefinedResultsGoOn :
    Size.b ≠ .u ∧ base.plain = true ∧ legal .read (gImm 0x7F#64) = true ∧ legal .rmw (gReg 6#3) = true
    ∧ oddRegister (gReg 6#3) = false ∧ src base Size.b.bytes (gImm 0x7F#64) ≠ 0#64
    ∧ (Disp.d7 32#7).wf = true ∧ lengthOk (.d7 32#7) = true ∧ lengthOk (.d7 1#7) = true ∧ legal .write gTos = true
    ∧ legal .regaddr gMem = true
    ∧ insideBase (baseOf base gMem) (base.reg 0#3).toInt 32 = true := by decide

theorem witness_BitInstructions :
    Size.d ≠ .u ∧ base.plain = true ∧ legal .read (gImm 31#64) = true ∧ legal .regaddr (gReg 0#3) = true
    ∧ insideBase (baseOf base (gReg 0#3)) ((src base 4 (gImm 31#64)).setWidth 32).toInt 1 = true
    ∧ insideBase (baseOf base (gReg 0#3)) 0 1 = true
    ∧ legal .regaddr gMem = true
    ∧ insideBase (baseOf base gMem) ((src base 4 (gImm 0x80000000#64)).setWidth 32).toInt 1 = true := by decide

theorem witness_FindFirstSet :
    let s := base.setReg 1#3 7#32
    Size.b ≠ .u ∧ s.plain = true ∧ legal .read (gImm 0x80#64) = true ∧ legal .rmw (gReg 1#3) = true
    ∧ (dest s 1 (gImm 0x80#64) 1 (gReg 1#3)).toNat ≤ 7 ∧ 7 < Size.b.bits
    ∧ (src s 1 (gImm 0x80#64)).getLsbD 7 = true
    ∧ (∀ j, j < 7 → (dest s 1 (gImm 0x80#64) 1 (gReg 1#3)).toNat ≤ j → (src s 1 (gImm 0x80#64)).getLsbD j = false)
    ∧ (∀ j, j < Size.b.bits → (dest s 1 (gImm 0x7F#64) 1 (gReg 1#3)).toNat ≤ j →
        (src s 1 (gImm 0x7F#64)).getLsbD j = false) := by decide

theorem witness_BitFields :
    Size.d ≠ .u ∧ base.plain = true ∧ (Disp.d7 32#7).wf = true ∧ lengthOk (.d7 32#7) = true ∧ lengthOk (.d7 1#7) = true
    ∧ legal .regaddr (gReg 0#3) = true ∧ legal .write gTos = true
    ∧ insideBase (baseOf base (gReg 0#3)) (base.reg 2#3).toInt 32 = true
    ∧ insideBase (baseOf base (gReg 0#3)) 7 25 = true ∧ insideBase (baseOf base gMem) (-1) 32 = true
    ∧ legal .read (gImm 0#64) = true ∧ legal .regaddr gMem = true ∧ 32 ≤ Size.d.bits
    ∧ insideBase (baseOf base (gReg 0#3)) (shortOffset 0x1F#8) (shortLength 0x1F#8) = true := by decide

theorem witness_FieldIsItsBits : (1 : Nat) ≤ 1 ∧ (1 : Nat) ≤ 32 ∧ (32 : Nat) ≤ 32 := by decide

theorem witness_ArrayInstructions :
    Size.b ≠ .u ∧ base.plain = true ∧ legal .addr gMem = true ∧ legal .write gTos = true
    ∧ addrOf base gMem = some 4#32 ∧ legal .read gTos = true ∧ legal .read (gImm 0xFF#64) = true := by decide

theorem witness_StringElements :
    Size.w ≠ .u ∧ base.plain = true
    ∧ (⟨.untilMatch, true, 0#6⟩ : StrOpts).uw ≠ .unassigned ∧ (⟨.untilMatch, true, 0#6⟩ : StrOpts).pad = 0#6 := by decide

theorem witness_JumpsAndSubroutines :
    Size.w ≠ .u ∧ base.plain = true ∧ dMax.wf = true ∧ legal .addr gTos = true ∧ addrOf base gTos = some 0x8000#32
    ∧ legal .read gTos = true ∧ legal .rmw gTos = true := by decide

theorem witness_ExternalProcedures :
    base.plain = true ∧ dMax.wf = true ∧ legal .addr gMem = true ∧ addrOf base gMem = some 4#32 := by decide

theorem witness_PlainControl : base.pendingError = false ∧ base.flagF = false := by decide

theorem witness_Returns : base.plain = true ∧ dMax.wf = true ∧ base.flagU = false := by decide

theorem witness_RegisterLists : base.plain = true ∧ dMax.wf = true := by decide

theorem witness_LoadDedicatedRegister :
    base.plain = true ∧ legal .read gTos = true ∧ aregOk .d .dcr = true ∧ aregOk .w .psr = true ∧ aregOk .b .upsr = true
    ∧ base.flagU = false ∧ userState.plain = true ∧ aregPrivileged .upsr = false ∧ AReg.upsr ≠ .dcr
    ∧ aregOk .d .cfg = true ∧ AReg.cfg ≠ .dcr ∧ (src base 4 (gImm 0x1FFB#64)).setWidth 32 &&& 0xFFFFE004#32 = 0#32
    ∧ (src base 4 (gImm 0xA00#64)).setWidth 32 &&& 0xFFFFE004#32 = 0#32
    ∧ (src base 4 (gImm 0x2000#64)).setWidth 32 &&& 0xFFFFE004#32 ≠ 0#32
    ∧ (src base 4 (gImm 4#64)).setWidth 32 &&& 0xFFFFE004#32 ≠ 0#32 := by decide

theorem witness_StoreDedicatedRegister :
    base.plain = true ∧ legal .write gTos = true ∧ aregOk .d .dsr = true ∧ base.flagU = false ∧ aregPrivileged .sp = false := by
  decide

theorem witness_StatusAndStackAdjust :
    userState.plain = true ∧ legal .read gTos = true ∧ base.plain = true ∧ base.flagU = false ∧ Size.d ≠ .u := by decide

theorem witness_ConfigurationAndCaches :
    base.plain = true ∧ base.flagU = false ∧ legal .read gTos = true ∧ (0b1011#4 : BitVec 4).getLsbD 2 = false := by decide

theorem witness_UserSpaceMoves :
    Size.b ≠ .u ∧ base.plain = true ∧ base.flagU = false ∧ legal .addr gMem = true ∧ legal .addr gTos = true
    ∧ addrOf base gMem = some 4#32 ∧ addrOf base gTos = some 0x8000#32 := by decide

theorem witness_SlaveMoves :
    Size.b ≠ .u ∧ slaveState.plain = true ∧ legal .read gTos = true ∧ legal .write gTos = true
    ∧ slaveState.slaveReplies = [.done 1#32 2#32] ∧ slaveState.cfgF = true ∧ slaveState.cfgC = true
    ∧ (7#3 : BitVec 3).setWidth 2 ≠ 2#2 := by decide

theorem witness_SlaveArithmetic :
    slaveState.plain = true ∧ legal .read (gReg 7#3) = true ∧ legal .rmw gTos = true ∧ legal .read gTos = true
    ∧ slaveState.slaveReplies = [.done 1#32 2#32] ∧ slaveState.cfgF = true ∧ slaveState.cfgC = true := by decide

theorem witness_SlaveRegisters :
    slaveState.plain = true ∧ slaveState.slaveReplies = [.done 1#32 2#32] ∧ (3#3 : BitVec 3).setWidth 2 ≠ 2#2
    ∧ (0#2 : BitVec 2) ≠ 2#2 ∧ legal .read gTos = true
    ∧ legal .write gTos = true ∧ slaveState.cfgF = true ∧ slaveState.cfgC = true ∧ slaveState.flagU = false := by decide

theorem witness_SlaveSlots :
    slaveState.plain = true ∧ legal .read gTos = true ∧ legal .write gTos = true
    ∧ slaveState.slaveReplies = [.done 1#32 2#32] ∧ slaveState.cfgF = true ∧ slaveState.cfgC = true := by decide

theorem witness_SlaveStatus :
    slaveState.plain = true ∧ legal .read gTos = true ∧ slaveState.cfgF = true ∧ slaveState.cfgC = true
    ∧ legal .write gTos = true ∧ Size.b ≠ .u ∧ (7#3 : BitVec 3).setWidth 2 ≠ 2#2 ∧ (3#2 : BitVec 2) ≠ 2#2
    ∧ slaveState.flagU = false
    ∧ ({ slaveState with slaveReplies := [.status 3#32] } : State).slaveReplies = [.status 3#32]
    ∧ ({ slaveState with slaveReplies := [.silent] } : State).slaveReplies = [.silent]
    ∧ (0xFFFFFFFE#32 : Word).getLsbD 0 = false ∧ (0x00000003#32 : Word).getLsbD 0 = true := by decide

theorem witness_SlaveDisabled : base.plain = true ∧ base.cfgF = false ∧ base.cfgC = false := by decide

/-- A data cache in which every double-word of the addresses 0 to 1FF is valid. -/
def cachedState : State :=
  { base with
    cfg := 0x2F0#32
    dcache := Vector.replicate 32
      { way0 := { tag := 0#23, valid := 0xF#4, data := Vector.replicate 4 0x44332211#32 }, way1 := emptyLine, lru := false } }

theorem witness_StoredBytesReadBack :
    (8 : Nat) ≤ 8 ∧ ((0x6#32 : Word) - 0xFFFFFFFF#32).toNat < 8 ∧ 8 ≤ ((0x7#32 : Word) - 0xFFFFFFFF#32).toNat
    ∧ Memory.wf cachedState.mem = true ∧ cachedState.platform.all (·.kind == .ram) = true ∧ cachedState.cfgDC = true
    ∧ dcByte cachedState 0x1FF#32 = some 0x44#8 ∧ dcByte cachedState 0x200#32 = none
    ∧ (RefKind.mk stData false false true).cached = true ∧ cachedState.pendingError = false
    ∧ (∀ y : Nat, y < 8 → (dcByte cachedState (0x1F8#32 + BitVec.ofNat 32 y)).isSome = true)
    ∧ cachedState.busReplies = [] ∧ cachedState.cfgLDC = false ∧ cacheable cachedState (0x200#32 &&& 0xFFFFFFFC#32) = true
    ∧ dwordError cachedState (0x200#32 &&& 0xFFFFFFFC#32) = false
    ∧ (regionAt cachedState.platform 0x200#32).kind = .ram := by decide +kernel

/-- `base` with the instruction cache on, in which the addresses 0 to 1FF are valid. -/
def codeState : State :=
  { base with
    cfg := 0x8F0#32
    icache := Vector.replicate 32 { tag := 0#23, valid := 0xF#4, data := Vector.replicate 4 0xA2A2A2A2#32 } }

theorem witness_InstructionFetch :
    icByte codeState 0x200#32 = none ∧ (staleBytes codeState).isEmpty = true ∧ icByte codeState 0x1FF#32 = some 0xA2#8
    ∧ codeState.cfgIC = true ∧ codeState.cfgLIC = false ∧ cacheable codeState (0x200#32 &&& 0xFFFFFFFC#32) = true
    ∧ dwordError codeState (0x200#32 &&& 0xFFFFFFFC#32) = false ∧ (regionAt codeState.platform 0x200#32).kind = .ram
    ∧ memGet codeState.mem (0x200#32 : Word).toNat ≠ 1#8 ∧ codeState.plain = true ∧ codeState.flagU = false
    ∧ (let rom : State := { codeState with platform := [⟨0, 0x200, .rom, false, false, false, false, true⟩] }
      icByte rom 0x1FF#32 = some 0xA2#8 ∧ (staleBytes rom).isEmpty = true ∧ (regionAt rom.platform 0x1FF#32).kind ≠ .ram)
    ∧ codeState.fetchUnit.cached = [] ∧ base.plain = true ∧ base.cfgIC = false
    ∧ codeState.reg 0#3 &&& 0xFFFFE004#32 = 0#32 ∧ codeState.fetchUnit.sequence ≠ .running
    ∧ (fetched 1 base).fetchUnit.sequence = .running ∧ (Disp.d7 0#7).wf = true := by decide +kernel

/-- Whether a byte of address `x` is selected in a state (R682). -/
def selects (s : State) (x : Word) : Bool :=
  x.extractLsb' 2 30 == s.car.extractLsb' 2 30 && s.dcr.getLsbD (x.extractLsb' 0 2).toNat

/-- In supervisor mode with SD, in user mode with UD, in user mode with SD only, with both for MOVSUi and MOVUSi, and a PC
match. -/
theorem witness_AddressCompare :
    let d : Disp := .d30 0x2003#30
    let super : State := { base with dcr := 0x00C000E8#32, car := 0x2000#32 }
    let user : State := { userState with dcr := 0x00A000E8#32, car := 0x2000#32 }
    let both : State := { base with dcr := 0x00E000E8#32, car := 0x2000#32 }
    let pc : State := { base with dcr := 0x00D00000#32, bpc := base.pc }
    d.wf = true
    ∧ (super.plain = true ∧ super.flagU = false ∧ super.dcr.getLsbD 23 = true ∧ super.dcr.getLsbD 22 = true
      ∧ super.dcr.getLsbD 7 = true ∧ super.dcr.getLsbD 6 = true ∧ super.dcr.getLsbD 5 = true
      ∧ anyFrom (selects super) d.value 1 = true)
    ∧ (user.plain = true ∧ user.flagU = true ∧ user.dcr.getLsbD 23 = true ∧ user.dcr.getLsbD 21 = true
      ∧ anyFrom (selects user) d.value 1 = true)
    ∧ ({ user with dcr := 0x00C000E8#32 } : State).dcr.getLsbD 21 = false
    ∧ (both.flagU = false ∧ both.dcr.getLsbD 22 = true ∧ both.dcr.getLsbD 21 = true)
    ∧ pc.plain = true ∧ pc.dcr.getLsbD 22 = true ∧ pc.dcr.getLsbD 20 = true ∧ pc.pc = pc.bpc := by decide +kernel

/-- `MOVB` from an Immediate under Scaled Index: illegal (R202), but with its extension (R186). -/
theorem test_indexed_immediate :
    decode [0x14#8, 0xE0#8, 0xA1#8, 0x55#8, 0xA2#8]
      = .ok (.mov .b (.idx .b 1#3 (.imm 0x55#64)) (.mode (.reg 0#3)), [0xA2#8]) := by rfl

theorem witness_UserModeIsolation :
    userState.inv = true ∧ userState.inputs = [] ∧ userState.flagU = true ∧ userState.flagS = true
    ∧ (∃ t, step userState = .next t) ∧ ∃ t, step { userState with nmiLatch := true } = .next t :=
  ⟨by decide, rfl, by decide, by decide, exists_next (by decide +kernel), exists_next (by decide +kernel)⟩

/-- A bus reply for each bus cycle (R9): an operand that crosses a double-word takes two, of which the second ends in a
bus error, and the exception's own reads follow. -/
theorem test_reply_per_cycle :
    let r (e : Bool) (bs : List (Word × Byte)) : BusReply := ⟨e, false, false, bs⟩
    let s : State := { base with
      platform := [⟨0x2000, 8, .device, false, false, false, false, true⟩]
      busReplies := [r false [(0x2003#32, 0x11#8)], r false [(0x2004#32, 0x22#8)], r true []] }
    (match memRead 0x2003#32 2 s with
      | .ok v t => decide (v = 0x2211#64 ∧ t.busReplies.length = 1)
      | .error _ _ => false) = true := by decide +kernel

/-- Status codes (R140): `MOVD EXT(2)+3, R0` at 1002, the first instruction after reset, is fetched by a non-sequential
and a sequential cycle; its two pointers (R275) and its operand are read, and after `BR *` the next fetch is
non-sequential. -/
theorem test_status_codes :
    (match step { (withBytes base [(0x1002#32, [0x17, 0xB0, 0x02, 0x03])]) with pc := 0x1002#32 } with
      | .next t => t.refs.map (fun r => match r with
          | .fetch st a _ => (st, a)
          | .mem st a _ _ _ _ _ => (st, a)
          | .slaveWrite st w => (st, w)
          | .slaveRead st w => (st, w))
        == [(0b01001#5, 0x1002#32), (0b01000#5, 0x1004#32), (0b01100#5, 4#32), (0b01100#5, 8#32),
            (0b01010#5, 3#32)]
        && t.fetchUnit.sequence == .running
        && goes t [] [(0x1006#32, [0xEA, 0x00])] (fun u => u.refs == [.fetch 0b01000#5 0x1004#32 false]
          && u.fetchUnit.sequence == .broken)
      | _ => false) = true := by decide +kernel

/-- Memory Relative (R273): `MOVD 1(0(FP)), R0` reads four bytes at FP + 0, then its operand at 1 past the pointer. -/
theorem test_pointer_read :
    goes { base with fp := 0x2000#32 } [] [(0x1000#32, [0x17, 0x80, 0x00, 0x01]), (0x2000#32, [0x00, 0x30])]
      (fun t => t.refs.map (fun r => match r with
          | .fetch _ a _ => (a, 0)
          | .mem _ a n _ _ _ _ => (a, n)
          | .slaveWrite _ w => (w, 0)
          | .slaveRead _ w => (w, 0))
        == [(0x1000#32, 0), (0x2000#32, 4), (0x3001#32, 4)]) = true := by decide +kernel

/-- IODEC is ignored in a cycle that ends in a bus error (R154): the read does not wait for the store; without the error
it does (R107). -/
theorem test_iodec_with_error :
    let s (e : Bool) : State :=
      { base with writeBuffer := [⟨0x3000#32, [0#8], false⟩], busReplies := [⟨e, false, true, []⟩] }
    (match memRead 0x2000#32 4 (s true) with
      | .ok _ _ => false
      | .error _ t => t.writeBuffer.length == 1)
    && (match memRead 0x2000#32 4 (s false) with
      | .ok _ t => t.writeBuffer.length == 0
      | .error _ _ => false) = true := by decide +kernel

/-- IODEC makes an End-of-Interrupt cycle wait for a store, an acknowledge not (R107, R633). -/
theorem test_acknowledge_iodec :
    let s : State :=
      { base with writeBuffer := [⟨0x3000#32, [0#8], false⟩], icuReplies := [1#8], busReplies := [⟨false, false, true, []⟩] }
    let left (status : BitVec 5) : Nat := match icuRead status 0xFFFFFE00#32 s with
      | .ok _ t => t.writeBuffer.length
      | .error _ _ => 9
    left 0b00100#5 = 1 ∧ left 0b00110#5 = 0 := by decide +kernel

/-- What another master writes before the first fetch after reset is what is fetched (R702): a NOP at address 0. -/
theorem test_write_before_first_fetch :
    goes { State.reset with inputs := [⟨false, false, false, false, [(0#32, 0xA2#8)], []⟩] } [] []
      (fun t => t.pc == 1#32 && t.fetchUnit.prefetched.isEmpty) = true := by decide +kernel

/-- RST low over two inputs (R70): reset is recognized once, so R0 still holds the PC of that moment. -/
theorem test_reset_once :
    let low : Input := ⟨true, false, false, false, [], []⟩
    let s := applyInput (applyInput { base with inputs := [low, low] })
    s.reg 0#3 = 0x1000#32 ∧ s.op = .reset := by decide +kernel

/-- DSR Note 2 (R49, R690): MOVSB with a write hit in its first element and a read hit in its second, DCR.TR clear, ends
with DSR.BCA set and DSR.RD clear. -/
theorem test_string_read_and_write :
    (match step { (withRegs (withBytes base [(0x1000#32, [0x0E, 0x00, 0x00]), (0x2000#32, [0x11, 0x22])])
        [(0#3, 2#32), (1#3, 0x2000#32), (2#3, 0x2001#32)]) with dcr := 0x00C000E2#32, car := 0x2000#32 } with
      | .next t => t.midString && t.dsr == 0#32
        && (match step t with
          | .next u => !u.midString && u.dsr == 0x10000000#32
          | _ => false)
      | _ => false) = true := by decide +kernel

/-- INVSET with INVIC (log 43): set 1 of the instruction cache loses its contents, set 2 keeps them, and so does the
data cache; a request without CINVE does nothing. -/
theorem test_invalidate_set :
    let l : Line := { tag := 0#23, valid := 15#4, data := Vector.replicate 4 0#32 }
    let s : State := { State.reset with
      icache := Vector.replicate 32 l
      dcache := Vector.replicate 32 { way0 := l, way1 := l, lru := false }
      inputs := [⟨false, false, false, false, [], [⟨true, true, false, some 1#5⟩, ⟨false, true, true, none⟩]⟩] }
    let t := applyInput s
    (t.icache[1]).valid = 0#4 ∧ (t.icache[2]).valid = 15#4 ∧ (t.dcache[1]).way0.valid = 15#4 := by
  decide +kernel

end Sys2Proof.Tests
end

section
/-! SUPPORT. What instructions that are not privileged can do to the state: a property that the primitive actions
keep is kept by all actions of every such instruction, and in user mode by every instruction (R480). -/

namespace Sys2Proof.Machine

/-! ### Values that actions answer -/

section Yields

variable {α β : Type} {p : State → Prop}

/-- Every value that the action answers has the property. -/
def Yields (q : α → Prop) (m : M α) : Prop := ∀ s a t, m s = .ok a t → q a

theorem Yields.pure {q : α → Prop} {a : α} (h : q a) : Yields q (Pure.pure a : M α) := by
  intro s b t e
  cases e
  exact h

theorem Yields.stop {q : α → Prop} (e : Stop) : Yields q (Machine.stop e : M α) := by
  intro s b t h
  cases h

theorem Yields.bind {q : β → Prop} {m : M α} {k : α → M β} (h : ∀ a, Yields q (k a)) : Yields q (m >>= k) := by
  intro s b t e
  cases hm : m s with
  | ok a u =>
    have e' : (m >>= k) s = k a u := by simp [Bind.bind, EStateM.bind, hm]
    exact h a u b t (e'.symm.trans e)
  | error x u =>
    have e' : (m >>= k) s = .error x u := by simp [Bind.bind, EStateM.bind, hm]
    cases e'.symm.trans e

theorem Yields.ite {q : α → Prop} {c : Prop} [Decidable c] {m m' : M α} (h : Yields q m) (h' : Yields q m') :
    Yields q (if c then m else m') := by
  split
  · exact h
  · exact h'

/-- What follows an action need keep the property only for the values the action answers. -/
theorem Keeps.bind_yields {q : α → Prop} {m : M α} {k : α → M β} (h : Keeps p m) (hq : Yields q m)
    (hk : ∀ a, q a → Keeps p (k a)) : Keeps p (m >>= k) := by
  intro s hs
  have h1 := h s hs
  cases hm : m s with
  | ok a t =>
    rw [hm] at h1
    have e : (m >>= k) s = k a t := by simp [Bind.bind, EStateM.bind, hm]
    rw [e]
    exact hk a (hq s a t hm) t h1
  | error x t =>
    rw [hm] at h1
    have e : (m >>= k) s = .error x t := by simp [Bind.bind, EStateM.bind, hm]
    rw [e]
    exact h1

end Yields

/-! ### Changes of the flags in PSR[7:0] -/

/-- Every bit of PSR but the flags that an instruction which is not privileged may change (R32). -/
def systemBits : Half := 0xFF08#16

/-- A change of PSR that reaches, in a status word without unimplemented bits, only the flags of PSR[7:0]. -/
def FlagsOnly (f : Half → Half) : Prop := ∀ p : Half, p &&& ~~~psrMask = 0#16 → f p &&& systemBits = p &&& systemBits

theorem implemented_of_systemBits {p q : Half} (h : q &&& systemBits = p &&& systemBits)
    (hp : p &&& ~~~psrMask = 0#16) :
    q &&& ~~~psrMask = 0#16 := by
  have hm : (~~~psrMask : Half) = systemBits &&& ~~~psrMask := by decide
  rw [hm, ← BitVec.and_assoc, h, BitVec.and_assoc, ← hm, hp]

theorem FlagsOnly.id : FlagsOnly id := fun _ _ => rfl

theorem FlagsOnly.comp {f g : Half → Half} (hf : FlagsOnly f) (hg : FlagsOnly g) : FlagsOnly fun p => f (g p) :=
  fun p hp => (hf _ (implemented_of_systemBits (hg p hp) hp)).trans (hg p hp)

theorem setBit_and {m : Half} {k : Nat} (p : Half) (b : Bool) (hk : m.getLsbD k = false) :
    setBit p k b &&& m = p &&& m := by
  ext i hi
  by_cases hik : i = k
  · subst hik
    rw [BitVec.getLsbD_eq_getElem hi] at hk
    simp [hk]
  · have hbit : (1#16 <<< k)[i] = false := by
      rw [BitVec.getElem_shiftLeft]
      simp
      omega
    cases b <;> simp [setBit, -BitVec.getElem_shiftLeft, hbit]

theorem bit_eq_of_and_eq {p q m : Half} (h : p &&& m = q &&& m) {k : Nat} (hk : m.getLsbD k = true) :
    p.getLsbD k = q.getLsbD k := by
  have hbit := congrArg (fun x => x.getLsbD k) h
  simpa only [BitVec.getLsbD_and, hk, Bool.and_true] using hbit

theorem setBit_flagsOnly {k : Nat} (b : Bool) (hk : systemBits.getLsbD k = false) : FlagsOnly fun p => setBit p k b :=
  fun p _ => setBit_and p b hk

theorem setCF_flagsOnly (c f : Bool) : FlagsOnly (setCF c f) :=
  (setBit_flagsOnly f (by decide)).comp (setBit_flagsOnly c (by decide))

theorem setF_flagsOnly (f : Bool) : FlagsOnly (setF f) := setBit_flagsOnly f (by decide)

theorem setZNL_flagsOnly (z n l : Bool) : FlagsOnly (setZNL z n l) :=
  (setBit_flagsOnly l (by decide)).comp ((setBit_flagsOnly n (by decide)).comp (setBit_flagsOnly z (by decide)))

theorem compareFlags_flagsOnly {n : Nat} (a b : BitVec n) : FlagsOnly (compareFlags a b) := setZNL_flagsOnly _ _ _

theorem and_eq_self_of_and_not {w : Nat} {x m : BitVec w} (h : x &&& ~~~m = 0#w) : x &&& m = x := by
  ext i hi
  have hbit : (x &&& ~~~m)[i] = false := by rw [h]; simp
  rw [BitVec.getElem_and, BitVec.getElem_not] at hbit
  rw [BitVec.getElem_and]
  revert hbit
  cases x[i] <;> cases m[i] <;> simp

/-- A change that keeps PSR[15:8] reaches only flags once the unimplemented bits are masked (R33). -/
theorem low_flagsOnly {f : Half → Half} (h : ∀ p, f p &&& 0xFF00#16 = p &&& 0xFF00#16) :
    FlagsOnly fun p => f p &&& psrMask := by
  intro p hp
  calc f p &&& psrMask &&& systemBits
      = f p &&& 0xFF00#16 &&& (psrMask &&& systemBits) := by
        rw [BitVec.and_assoc, BitVec.and_assoc]
        rfl
    _ = p &&& psrMask &&& systemBits := by
        rw [h, BitVec.and_assoc, BitVec.and_assoc]
        rfl
    _ = p &&& systemBits := by rw [and_eq_self_of_and_not hp]

theorem orLow_flagsOnly (v : Half) : FlagsOnly fun p => (p ||| (v &&& 0x00FF#16)) &&& psrMask := by
  refine low_flagsOnly fun p => ?_
  ext i hi
  interval_cases i <;> simp

theorem clearLow_flagsOnly (v : Half) : FlagsOnly fun p => (p &&& ~~~(v &&& 0x00FF#16)) &&& psrMask := by
  refine low_flagsOnly fun p => ?_
  ext i hi
  interval_cases i <;> simp

theorem loadLow_flagsOnly (v : Half) :
    FlagsOnly fun p => ((p &&& 0xFF00#16) ||| (v &&& 0x00FF#16)) &&& psrMask := by
  refine low_flagsOnly fun p => ?_
  ext i hi
  interval_cases i <;> simp

/-! ### The primitive actions -/

/-- The primitive actions that instructions which are not privileged are made of, all of which keep the property. -/
structure UserPrimitives (p : State → Prop) : Prop where
  draws : BlindToDraws p
  settle : ∀ f, Keeps p (settleWrites f)
  read : ∀ k a n, Keeps p (readRef k a n)
  write : ∀ k a n v, Keeps p (writeRef k a n v)
  discard : ∀ s, p s → p (discardPrefetched s)
  refs : ∀ s rs, p s → p { s with refs := rs }
  slave : ∀ s rs, p s → p { s with slaveReplies := rs }
  reg : ∀ s n v, p s → p (s.setReg n v)
  sp : ∀ s v, p s → p (s.setSp v)
  fp : ∀ s v, p s → p { s with fp := v }
  sb : ∀ s v, p s → p { s with sb := v }
  mod : ∀ s v, p s → p { s with mod := v }
  flags : ∀ s f, FlagsOnly f → p s → p { s with psr := f s.psr }
  waiting : ∀ s, p s → p { s with op := .waiting }

/-- An action that computes a result keeps the property, and the result changes no bit of PSR but flags. -/
def Computes (p : State → Prop) {w : Nat} (m : M (Result w)) : Prop := Keeps p m ∧ Yields (fun r => FlagsOnly r.psr) m

namespace UserPrimitives

variable {p : State → Prop} (hp : UserPrimitives p)
include hp

/-! ### References, stack, operands -/

theorem keeps_updPsr {f : Half → Half} (hf : FlagsOnly f) : Keeps p (updPsr f) :=
  Keeps.updPsr fun s h => hp.flags s f hf h

theorem keeps_drain : Keeps p drain := hp.settle _

theorem keeps_serialize : Keeps p serialize := hp.keeps_drain.bind fun _ => Keeps.upd hp.discard

theorem keeps_memRead (a : Word) (n : Nat) : Keeps p (memRead a n) :=
  fun s h => hp.read ⟨stData, s.flagU, false, true⟩ a n s h

theorem keeps_memReadRmw (a : Word) (n : Nat) : Keeps p (memReadRmw a n) :=
  fun s h => hp.read ⟨stRmw, s.flagU, false, true⟩ a n s h

theorem keeps_memReadPtr (st : BitVec 5) (a : Word) : Keeps p (memReadPtr st a) := by
  intro s h
  have hr := hp.read ⟨st, s.flagU, false, true⟩ a 4 s h
  unfold memReadPtr
  cases he : readRef ⟨st, s.flagU, false, true⟩ a 4 s <;> rw [he] at hr <;> exact hr

theorem keeps_memWrite (a : Word) (n : Nat) (v : Quad) : Keeps p (memWrite a n v) :=
  fun s h => hp.write ⟨stData, s.flagU, false, false⟩ a n v s h

theorem keeps_memRead32 (a : Word) : Keeps p (memRead32 a) := (hp.keeps_memRead a 4).bind fun _ => Keeps.pure _

theorem keeps_memReadLocked (a : Word) : Keeps p (memReadLocked a) :=
  hp.keeps_drain.bind fun _ => Keeps.getS.bind fun _ => hp.read _ a 1

theorem keeps_memWriteLocked (a : Word) (v : Quad) : Keeps p (memWriteLocked a v) :=
  Keeps.getS.bind fun _ => (hp.write _ a 1 v).bind fun _ => hp.keeps_serialize

theorem keeps_setReg (n : RegNum) (f : State → Word) : Keeps p (upd fun s => s.setReg n (f s)) :=
  Keeps.upd fun s h => hp.reg s n (f s) h

theorem keeps_setSp (f : State → Word) : Keeps p (upd fun s => s.setSp (f s)) := Keeps.upd fun s h => hp.sp s (f s) h

theorem keeps_push (n : Nat) (v : Quad) : Keeps p (push n v) :=
  (hp.keeps_setSp _).bind fun _ => Keeps.getS.bind fun _ => hp.keeps_memWrite _ n v

theorem keeps_pop (n : Nat) : Keeps p (pop n) :=
  Keeps.getS.bind fun _ => (hp.keeps_memRead _ n).bind fun _ => (hp.keeps_setSp _).bind fun _ => Keeps.pure _

theorem keeps_enterModule (m : Half) : Keeps p (enterModule m) :=
  (Keeps.upd fun s h => hp.mod s m h).bind fun _ => (hp.keeps_memRead32 _).bind fun sb => Keeps.upd fun s h =>
    hp.sb s sb h

theorem keeps_locMode (m : Mode) : Keeps p (locMode m) := by
  cases m with
  | reg n => exact Keeps.pure _
  | regRel n d => exact Keeps.getS.bind fun _ => Keeps.pure _
  | memRel r d1 d2 => exact Keeps.getS.bind fun _ => (hp.keeps_memReadPtr _ _).bind fun _ => Keeps.pure _
  | imm v => exact Keeps.pure _
  | abs d => exact Keeps.pure _
  | ext d1 d2 =>
    exact Keeps.getS.bind fun _ => (hp.keeps_memReadPtr _ _).bind fun _ => (hp.keeps_memReadPtr _ _).bind fun _ =>
      Keeps.pure _
  | tos => exact Keeps.pure _
  | space r d => exact Keeps.getS.bind fun _ => Keeps.pure _

theorem keeps_locGen (g : Gen) : Keeps p (locGen g) := by
  cases g with
  | mode m => exact hp.keeps_locMode m
  | idx sc n m => exact (hp.keeps_locMode m).bind fun _ => Keeps.getS.bind fun _ => Keeps.pure _
  | reserved => exact Keeps.stop _
  | idxBad sc n c => exact Keeps.stop _

theorem keeps_readLoc (n : Nat) (l : Loc) : Keeps p (readLoc n l) := by
  cases l with
  | reg k => exact Keeps.getS.bind fun _ => Keeps.pure _
  | imm v => exact Keeps.pure _
  | mem a => exact hp.keeps_memRead a n
  | tos => exact hp.keeps_pop n

theorem keeps_readRmw (n : Nat) (l : Loc) : Keeps p (readRmw n l) := by
  cases l with
  | reg k => exact Keeps.getS.bind fun _ => Keeps.pure _
  | imm v => exact Keeps.pure _
  | mem a => exact hp.keeps_memReadRmw a n
  | tos => exact Keeps.getS.bind fun _ => hp.keeps_memReadRmw _ n

theorem keeps_writeReg (n : Nat) (k : RegNum) (v : Quad) : Keeps p (writeReg n k v) := hp.keeps_setReg k _

theorem keeps_writeLoc (n : Nat) (v : Quad) (l : Loc) : Keeps p (writeLoc n v l) := by
  cases l with
  | reg k => exact hp.keeps_writeReg n k v
  | imm w => exact Keeps.stop _
  | mem a => exact hp.keeps_memWrite a n v
  | tos => exact hp.keeps_push n v

theorem keeps_writeRmw (n : Nat) (v : Quad) (l : Loc) : Keeps p (writeRmw n v l) := by
  cases l with
  | reg k => exact hp.keeps_writeReg n k v
  | imm w => exact Keeps.stop _
  | mem a => exact hp.keeps_memWrite a n v
  | tos => exact Keeps.getS.bind fun _ => hp.keeps_memWrite _ n v

theorem keeps_readOp (g : Gen) (n : Nat) : Keeps p (readOp g n) :=
  (hp.keeps_locGen g).bind fun l => hp.keeps_readLoc n l

theorem keeps_readInt (i : Size) (g : Gen) : Keeps p (readInt i g) := (hp.keeps_readOp g _).bind fun _ => Keeps.pure _

theorem keeps_addrOp (g : Gen) : Keeps p (addrOp g) := by
  refine (hp.keeps_locGen g).bind fun l => ?_
  cases l with
  | reg n => exact Keeps.stop _
  | imm v => exact Keeps.stop _
  | mem a => exact Keeps.pure _
  | tos => exact Keeps.getS.bind fun _ => Keeps.pure _

theorem keeps_baseOp (g : Gen) : Keeps p (baseOp g) := by
  refine (hp.keeps_locGen g).bind fun l => ?_
  cases l with
  | reg n => exact Keeps.pure _
  | imm v => exact Keeps.stop _
  | mem a => exact Keeps.pure _
  | tos => exact Keeps.getS.bind fun _ => Keeps.pure _

/-! ### Two general operands -/

theorem keeps_readModify {n1 n2 w1 w2 : Nat} {g1 g2 : Gen} {f : State → BitVec w2 → BitVec w1 → M (Result w2)}
    (hf : ∀ s b a, Computes p (f s b a)) : Keeps p (readModify n1 n2 w1 w2 g1 g2 f) := by
  refine (hp.keeps_readOp g1 n1).bind fun a => (hp.keeps_locGen g2).bind fun l =>
    (hp.keeps_readRmw n2 l).bind fun b =>
    Keeps.getS.bind fun s => (hf s _ _).1.bind_yields (hf s _ _).2 fun r hr => ?_
  exact (hp.keeps_writeRmw n2 _ l).bind fun _ => (hp.keeps_updPsr hr).bind fun _ => Keeps.pure _

theorem keeps_readWrite {n1 n2 w1 w2 : Nat} {g1 g2 : Gen} {f : BitVec w1 → Result w2}
    (hf : ∀ a, FlagsOnly (f a).psr) :
    Keeps p (readWrite n1 n2 w1 w2 g1 g2 fun a => pure (f a)) := by
  refine (hp.keeps_readOp g1 n1).bind fun a => (hp.keeps_locGen g2).bind fun l =>
    (Keeps.pure _).bind_yields (q := fun r => FlagsOnly r.psr) (Yields.pure (hf _)) fun r hr => ?_
  exact (hp.keeps_writeLoc n2 _ l).bind fun _ => (hp.keeps_updPsr hr).bind fun _ => Keeps.pure _

end UserPrimitives

end Sys2Proof.Machine
end

section
/-! SUPPORT. The instructions one by one: each is its checks and actions that keep what the primitive actions keep. -/

namespace Sys2Proof.Machine

/-- From every state the instruction is its checks and actions that keep the property up to its end. -/
def RunsKeeping (p : State → Prop) (f : State → Out) : Prop :=
  ∀ s, ∃ sh body, f s = run sh body s ∧ Keeps p (checked sh body)

/-- Two ways to a value, and what follows them both. -/
theorem Keeps.join {p : State → Prop} {α β : Type} {c : Prop} [Decidable c] {m m' : M α} {k : α → M β} (h : Keeps p m)
    (h' : Keeps p m') (hk : ∀ a, Keeps p (k a)) : Keeps p (if c then m >>= k else m' >>= k) :=
  Keeps.ite (h.bind hk) (h'.bind hk)

section Checks

variable {p : State → Prop} {sh : Shape} {body : M Done}

theorem Keeps.checked (h : Keeps p body) : Keeps p (Machine.checked sh body) := by
  intro s hs
  unfold Machine.checked
  cases sh.check s with
  | some e => exact hs
  | none => exact h s hs

/-- A privileged instruction does nothing in user mode (R480). -/
theorem check_privileged (h : sh.privileged = true) {s : State} (hu : s.flagU = true) : ∃ e, sh.check s = some e := by
  unfold Shape.check
  rw [h, hu]
  split
  · exact ⟨_, rfl⟩
  · split
    · exact ⟨_, rfl⟩
    · split
      · exact ⟨_, rfl⟩
      · exact ⟨_, rfl⟩

theorem Keeps.checked_privileged (hu : ∀ s, p s → s.flagU = true) (h : sh.privileged = true) :
    Keeps p (Machine.checked sh body) := by
  intro s hs
  obtain ⟨e, he⟩ := check_privileged h (hu s hs)
  unfold Machine.checked
  rw [he]
  exact hs

theorem RunsKeeping.run (h : Keeps p body) : RunsKeeping p (run sh body) := fun _ => ⟨sh, body, rfl, h.checked⟩

theorem RunsKeeping.runNext {body : Word → M Done} (h : ∀ next, Keeps p (body next)) :
    RunsKeeping p (runNext sh body) :=
  fun s => ⟨sh, body (s.pc + BitVec.ofNat 32 sh.length), rfl, (h _).checked⟩

theorem RunsKeeping.privileged (hu : ∀ s, p s → s.flagU = true) (h : sh.privileged = true) :
    RunsKeeping p (Machine.run sh body) := fun _ => ⟨sh, body, rfl, Keeps.checked_privileged hu h⟩

end Checks

namespace UserPrimitives

variable {p : State → Prop} (hp : UserPrimitives p)
include hp

theorem keeps_drawWord : Keeps p drawWord := Keeps.drawWord hp.draws
theorem keeps_drawBool : Keeps p drawBool := Keeps.drawBool hp.draws

/-! ### Moves, arithmetic and logic -/

theorem runs_binary {basic : Nat} {i : Size} {g1 g2 : Gen}
    {f : State → BitVec i.bits → BitVec i.bits → M (Result i.bits)}
    (hf : ∀ s b a, Computes p (f s b a)) :
    RunsKeeping p (binary basic i g1 g2 f) := RunsKeeping.run (hp.keeps_readModify hf)

/-- An operation that computes its result and its flags without an action of its own. -/
theorem runs_binary_pure {basic : Nat} {i : Size} {g1 g2 : Gen}
    {f : State → BitVec i.bits → BitVec i.bits → Result i.bits}
    (hf : ∀ s b a, FlagsOnly (f s b a).psr) : RunsKeeping p (binary basic i g1 g2 fun s b a => pure (f s b a)) :=
  hp.runs_binary fun s b a => ⟨Keeps.pure _, Yields.pure (hf s b a)⟩

theorem runs_unary {i : Size} {g1 g2 : Gen} {f : BitVec i.bits → Result i.bits} (hf : ∀ a, FlagsOnly (f a).psr) :
    RunsKeeping p (unary i g1 g2 fun a => pure (f a)) := RunsKeeping.run (hp.keeps_readWrite hf)

theorem runs_division {basic : Nat} {i : Size} {g1 g2 : Gen} {f : BitVec i.bits → BitVec i.bits → Result i.bits}
    (hf : ∀ b a, FlagsOnly (f b a).psr) : RunsKeeping p (binary basic i g1 g2 fun _ => dividing f) :=
  hp.runs_binary fun _ b a =>
    ⟨Keeps.ite (Keeps.stop _) (Keeps.pure _), Yields.ite (Yields.stop _) (Yields.pure (hf b a))⟩

theorem computes_addPacked {n : Nat} (b a : BitVec n) (c : Bool) :
    Computes p (addPacked b a c) :=
  ⟨Keeps.ite (Keeps.pure _)
      (hp.keeps_drawWord.bind fun _ => hp.keeps_drawBool.bind fun _ => hp.keeps_drawBool.bind fun _ => Keeps.pure _),
    Yields.ite (Yields.pure (setCF_flagsOnly _ _)) (Yields.bind fun _ => Yields.bind fun _ => Yields.bind fun _ =>
      Yields.pure (setCF_flagsOnly _ _))⟩

theorem computes_subPacked {n : Nat} (b a : BitVec n) (c : Bool) :
    Computes p (subPacked b a c) :=
  ⟨Keeps.ite (Keeps.pure _)
      (hp.keeps_drawWord.bind fun _ => hp.keeps_drawBool.bind fun _ => hp.keeps_drawBool.bind fun _ => Keeps.pure _),
    Yields.ite (Yields.pure (setCF_flagsOnly _ _)) (Yields.bind fun _ => Yields.bind fun _ => Yields.bind fun _ =>
      Yields.pure (setCF_flagsOnly _ _))⟩

theorem runs_shift {i : Size} {g1 g2 : Gen} {f : BitVec i.bits → Byte → M (Result i.bits)}
    (hf : ∀ b c, Computes p (f b c)) :
    RunsKeeping p (shift i g1 g2 f) := RunsKeeping.run (hp.keeps_readModify fun _ b c => hf b c)

theorem computes_logicalShift {n : Nat} (b : BitVec n) (c : Byte) :
    Computes p (logicalShift b c) :=
  ⟨Keeps.ite (Keeps.pure _) (hp.keeps_drawWord.bind fun _ => Keeps.pure _),
    Yields.ite (Yields.pure FlagsOnly.id) (Yields.bind fun _ => Yields.pure FlagsOnly.id)⟩

theorem computes_arithmeticShift {n : Nat} (b : BitVec n) (c : Byte) :
    Computes p (arithmeticShift b c) :=
  ⟨Keeps.ite (Keeps.pure _) (hp.keeps_drawWord.bind fun _ => hp.keeps_drawBool.bind fun _ => Keeps.pure _),
    Yields.ite (Yields.pure FlagsOnly.id) (Yields.bind fun _ => Yields.bind fun _ => Yields.pure FlagsOnly.id)⟩

theorem computes_rotate {n : Nat} (b : BitVec n) (c : Byte) :
    Computes p (rotate b c) :=
  ⟨Keeps.ite (Keeps.pure _) (hp.keeps_drawWord.bind fun _ => Keeps.pure _),
    Yields.ite (Yields.pure FlagsOnly.id) (Yields.bind fun _ => Yields.pure FlagsOnly.id)⟩

theorem runs_ffs (i : Size) (pad : BitVec 3) (g1 g2 : Gen) : RunsKeeping p (execFfs i pad g1 g2) := by
  refine RunsKeeping.run (hp.keeps_readModify fun _ o b => ?_)
  cases findSet b o.toNat (i.bits - o.toNat) with
  | some k => exact ⟨Keeps.pure _, Yields.pure (setF_flagsOnly _)⟩
  | none => exact ⟨Keeps.pure _, Yields.pure (setF_flagsOnly _)⟩

theorem runs_movq (i : Size) (q : BitVec 4) (g : Gen) : RunsKeeping p (execMovq i q g) :=
  RunsKeeping.run ((hp.keeps_locGen g).bind fun l => (hp.keeps_writeLoc _ _ l).bind fun _ => Keeps.pure _)

theorem keeps_moveElements (n : Nat) (a1 a2 : Word) (k : Nat) : Keeps p (moveElements n a1 a2 k) := by
  induction k generalizing a1 a2 with
  | zero => exact Keeps.pure _
  | succ k ih => exact (hp.keeps_memRead a1 n).bind fun v => (hp.keeps_memWrite a2 n v).bind fun _ => ih _ _

theorem runs_movm (i : Size) (g1 g2 : Gen) (d : Disp) : RunsKeeping p (execMovm i g1 g2 d) :=
  RunsKeeping.run ((hp.keeps_addrOp g1).bind fun _ => (hp.keeps_addrOp g2).bind fun _ =>
    (hp.keeps_moveElements _ _ _ _).bind fun _ => Keeps.pure _)

theorem runs_addr (i : Size) (g1 g2 : Gen) : RunsKeeping p (execAddr i g1 g2) :=
  RunsKeeping.run ((hp.keeps_addrOp g1).bind fun _ => (hp.keeps_locGen g2).bind fun l =>
    (hp.keeps_writeLoc _ _ l).bind fun _ => Keeps.pure _)

theorem runs_addq (i : Size) (q : BitVec 4) (g : Gen) : RunsKeeping p (execAddq i q g) :=
  RunsKeeping.run ((hp.keeps_locGen g).bind fun l => (hp.keeps_readRmw _ l).bind fun _ =>
    (hp.keeps_writeRmw _ _ l).bind fun _ =>
    (hp.keeps_updPsr (setCF_flagsOnly _ _)).bind fun _ => Keeps.pure _)

theorem keeps_readDouble (n : Nat) (l : Loc) : Keeps p (readDouble n l) := by
  cases l with
  | reg k => exact Keeps.getS.bind fun _ => Keeps.pure _
  | imm v => exact Keeps.pure _
  | mem a => exact (hp.keeps_memReadRmw a _).bind fun _ => Keeps.pure _
  | tos => exact Keeps.getS.bind fun _ => (hp.keeps_memReadRmw _ _).bind fun _ => Keeps.pure _

theorem keeps_writeDouble (n : Nat) (lo hi : Quad) (l : Loc) : Keeps p (writeDouble n lo hi l) := by
  cases l with
  | reg k => exact (hp.keeps_writeReg n k lo).bind fun _ => hp.keeps_writeReg n _ hi
  | imm v => exact Keeps.stop _
  | mem a => exact hp.keeps_memWrite a _ _
  | tos => exact Keeps.getS.bind fun _ => hp.keeps_memWrite _ _ _

theorem runs_mei (i : Size) (g1 g2 : Gen) : RunsKeeping p (execMei i g1 g2) :=
  RunsKeeping.run ((hp.keeps_readInt i g1).bind fun _ => (hp.keeps_locGen g2).bind fun l =>
    (hp.keeps_readDouble _ l).bind fun _ =>
    (hp.keeps_writeDouble _ _ _ l).bind fun _ => Keeps.pure _)

theorem runs_dei (i : Size) (g1 g2 : Gen) : RunsKeeping p (execDei i g1 g2) := by
  refine RunsKeeping.run ((hp.keeps_readInt i g1).bind fun _ => (hp.keeps_locGen g2).bind fun l =>
    (hp.keeps_readDouble _ l).bind fun _ => ?_)
  refine Keeps.ite (Keeps.stop _) (Keeps.ite ?_ ?_)
  · exact hp.keeps_drawWord.bind fun _ => hp.keeps_drawWord.bind fun _ => (hp.keeps_writeDouble _ _ _ l).bind fun _ =>
    Keeps.pure _
  · exact (hp.keeps_writeDouble _ _ _ l).bind fun _ => Keeps.pure _

theorem runs_cmp (i : Size) (g1 g2 : Gen) : RunsKeeping p (execCmp i g1 g2) :=
  RunsKeeping.run ((hp.keeps_readInt i g1).bind fun _ => (hp.keeps_readInt i g2).bind fun _ =>
    (hp.keeps_updPsr (compareFlags_flagsOnly _ _)).bind fun _ => Keeps.pure _)

theorem runs_cmpq (i : Size) (q : BitVec 4) (g : Gen) : RunsKeeping p (execCmpq i q g) :=
  RunsKeeping.run ((hp.keeps_readInt i g).bind fun _ => (hp.keeps_updPsr (compareFlags_flagsOnly _ _)).bind fun _ =>
    Keeps.pure _)

theorem keeps_compareElements (i : Size) (a1 a2 : Word) (k : Nat) : Keeps p (compareElements i a1 a2 k) := by
  induction k generalizing a1 a2 with
  | zero => exact Keeps.pure _
  | succ k ih =>
    exact (hp.keeps_memRead a1 _).bind fun _ => (hp.keeps_memRead a2 _).bind fun _ =>
      Keeps.ite (ih _ _) (hp.keeps_updPsr (compareFlags_flagsOnly _ _))

theorem runs_cmpm (i : Size) (g1 g2 : Gen) (d : Disp) : RunsKeeping p (execCmpm i g1 g2 d) :=
  RunsKeeping.run ((hp.keeps_addrOp g1).bind fun _ => (hp.keeps_addrOp g2).bind fun _ =>
    (hp.keeps_updPsr (setZNL_flagsOnly _ _ _)).bind fun _ => (hp.keeps_compareElements _ _ _ _).bind fun _ =>
      Keeps.pure _)

theorem runs_scond (i : Size) (c : Cond) (g : Gen) : RunsKeeping p (execScond i c g) :=
  RunsKeeping.run ((hp.keeps_locGen g).bind fun l => Keeps.getS.bind fun _ => (hp.keeps_writeLoc _ _ l).bind fun _ =>
    Keeps.pure _)

/-! ### Bits, fields, arrays -/

theorem keeps_registerBit (w : Word) (o : Int) : Keeps p (registerBit w o) :=
  Keeps.ite (Keeps.pure _) hp.keeps_drawBool

theorem keeps_registerWithBit (w : Word) (o : Int) (f : Bool → Bool) : Keeps p (registerWithBit w o f) :=
  Keeps.ite (Keeps.pure _) hp.keeps_drawWord

theorem runs_tbit (i : Size) (g1 g2 : Gen) : RunsKeeping p (execTbit i g1 g2) := by
  refine RunsKeeping.run ((hp.keeps_readInt i g1).bind fun _ => (hp.keeps_baseOp g2).bind fun b => ?_)
  cases b with
  | reg k =>
    exact Keeps.getS.bind fun _ => (hp.keeps_registerBit _ _).bind fun _ =>
      (hp.keeps_updPsr (setF_flagsOnly _)).bind fun _ => Keeps.pure _
  | mem a => exact (hp.keeps_memRead _ 1).bind fun _ => (hp.keeps_updPsr (setF_flagsOnly _)).bind fun _ =>
    Keeps.pure _

theorem runs_testBit (locked : Bool) (f : Bool → Bool) (i : Size) (g1 g2 : Gen) :
    RunsKeeping p (testBit locked f i g1 g2) := by
  refine RunsKeeping.run ((hp.keeps_readInt i g1).bind fun _ => (hp.keeps_baseOp g2).bind fun b => ?_)
  cases b with
  | reg k =>
    exact Keeps.getS.bind fun _ => (hp.keeps_registerBit _ _).bind fun _ =>
      (hp.keeps_registerWithBit _ _ f).bind fun _ =>
      (hp.keeps_setReg k _).bind fun _ => (hp.keeps_updPsr (setF_flagsOnly _)).bind fun _ => Keeps.pure _
  | mem a =>
    cases locked with
    | true =>
      exact (hp.keeps_memReadLocked _).bind fun _ => (hp.keeps_memWriteLocked _ _).bind fun _ =>
        (hp.keeps_updPsr (setF_flagsOnly _)).bind fun _ => Keeps.pure _
    | false =>
      exact (hp.keeps_memReadRmw _ 1).bind fun _ => (hp.keeps_memWrite _ 1 _).bind fun _ =>
        (hp.keeps_updPsr (setF_flagsOnly _)).bind fun _ => Keeps.pure _

theorem keeps_fieldRead (b : Base) (o : Int) (len : Nat) : Keeps p (fieldRead b o len) := by
  cases b with
  | reg k => exact Keeps.getS.bind fun _ => Keeps.ite (Keeps.pure _) (hp.keeps_drawWord.bind fun _ => Keeps.pure _)
  | mem a => exact (hp.keeps_memRead _ _).bind fun _ => Keeps.pure _

theorem keeps_fieldWrite (b : Base) (o : Int) (len : Nat) (v : Quad) : Keeps p (fieldWrite b o len v) := by
  cases b with
  | reg k => exact Keeps.getS.bind fun _ => Keeps.ite (hp.keeps_setReg k _) (hp.keeps_drawWord.bind fun _ =>
    hp.keeps_setReg k _)
  | mem a => exact (hp.keeps_memReadRmw _ _).bind fun _ => hp.keeps_memWrite _ _ _

theorem runs_extf (i : Size) (r : RegNum) (g1 g2 : Gen) (d : Disp) : RunsKeeping p (execExtf i r g1 g2 d) :=
  RunsKeeping.run ((hp.keeps_baseOp g1).bind fun b => (hp.keeps_locGen g2).bind fun l => Keeps.getS.bind fun _ =>
    (hp.keeps_fieldRead b _ _).bind fun _ => (hp.keeps_writeLoc _ _ l).bind fun _ => Keeps.pure _)

theorem keeps_insertSource (i : Size) (v : BitVec i.bits) (len : Nat) : Keeps p (insertSource i v len) :=
  Keeps.ite (Keeps.pure _) (hp.keeps_drawWord.bind fun _ => Keeps.pure _)

theorem runs_ins (i : Size) (r : RegNum) (g1 g2 : Gen) (d : Disp) : RunsKeeping p (execIns i r g1 g2 d) :=
  RunsKeeping.run ((hp.keeps_readInt i g1).bind fun _ => (hp.keeps_baseOp g2).bind fun b => Keeps.getS.bind fun _ =>
    (hp.keeps_insertSource i _ _).bind fun _ => (hp.keeps_fieldWrite b _ _ _).bind fun _ => Keeps.pure _)

theorem runs_exts (i : Size) (g1 g2 : Gen) (c : Byte) : RunsKeeping p (execExts i g1 g2 c) :=
  RunsKeeping.run ((hp.keeps_baseOp g1).bind fun b => (hp.keeps_locGen g2).bind fun l =>
    (hp.keeps_fieldRead b _ _).bind fun _ => (hp.keeps_writeLoc _ _ l).bind fun _ => Keeps.pure _)

theorem runs_inss (i : Size) (g1 g2 : Gen) (c : Byte) : RunsKeeping p (execInss i g1 g2 c) :=
  RunsKeeping.run ((hp.keeps_readInt i g1).bind fun _ => (hp.keeps_baseOp g2).bind fun b =>
    (hp.keeps_fieldWrite b _ _ _).bind fun _ => Keeps.pure _)

theorem runs_cvtp (i : Size) (r : RegNum) (g1 g2 : Gen) : RunsKeeping p (execCvtp i r g1 g2) :=
  RunsKeeping.run ((hp.keeps_addrOp g1).bind fun _ => (hp.keeps_locGen g2).bind fun l => Keeps.getS.bind fun _ =>
    (hp.keeps_writeLoc _ _ l).bind fun _ => Keeps.pure _)

theorem runs_check (i : Size) (r : RegNum) (g1 g2 : Gen) : RunsKeeping p (execCheck i r g1 g2) :=
  RunsKeeping.run ((hp.keeps_addrOp g1).bind fun _ => (hp.keeps_memRead _ _).bind fun _ =>
    (hp.keeps_memRead _ _).bind fun _ =>
    (hp.keeps_readInt i g2).bind fun _ => (hp.keeps_setReg r _).bind fun _ =>
      (hp.keeps_updPsr (setF_flagsOnly _)).bind fun _ => Keeps.pure _)

theorem runs_index (i : Size) (r : RegNum) (g1 g2 : Gen) : RunsKeeping p (execIndex i r g1 g2) :=
  RunsKeeping.run ((hp.keeps_readInt i g1).bind fun _ => (hp.keeps_readInt i g2).bind fun _ =>
    (hp.keeps_setReg r _).bind fun _ => Keeps.pure _)

/-! ### Strings -/

theorem keeps_advance (n : Nat) (back two : Bool) : Keeps p (advance n back two) := by
  cases two with
  | true => exact (hp.keeps_setReg _ _).bind fun _ => (hp.keeps_setReg _ _).bind fun _ => hp.keeps_setReg _ _
  | false => exact (hp.keeps_setReg _ _).bind fun _ => hp.keeps_setReg _ _

theorem keeps_iteration {n : Nat} {translate two : Bool} {o : StrOpts} {before : M Unit} {step : Quad → M Bool}
    (hb : Keeps p before) (hs : ∀ e, Keeps p (step e)) : Keeps p (iteration n translate two o before step) := by
  refine (hp.keeps_updPsr (setF_flagsOnly _)).bind fun _ => hb.bind fun _ => Keeps.getS.bind fun s =>
    Keeps.ite (Keeps.pure _) ((hp.keeps_memRead _ n).bind fun e0 => ?_)
  refine Keeps.join (hp.keeps_memRead _ 1) (Keeps.pure _) fun e => ?_
  refine Keeps.ite ((hp.keeps_updPsr (setF_flagsOnly _)).bind fun _ => Keeps.pure _) ((hs e).bind fun stopped => ?_)
  exact Keeps.ite (Keeps.pure _) ((hp.keeps_advance n _ two).bind fun _ => Keeps.pure _)

theorem runs_string {i : Size} {translate two : Bool} {o : StrOpts} {before : M Unit} {step : Quad → M Bool}
    (hb : Keeps p before) (hs : ∀ e, Keeps p (step e)) : RunsKeeping p (string i translate two o before step) :=
  RunsKeeping.run (hp.keeps_iteration hb hs)

theorem keeps_moveStep (n : Nat) (e : Quad) : Keeps p (moveStep n e) :=
  Keeps.getS.bind fun _ => (hp.keeps_memWrite _ n e).bind fun _ => Keeps.pure _

theorem keeps_compareStep (i : Size) (e : Quad) : Keeps p (compareStep i e) :=
  Keeps.getS.bind fun _ => (hp.keeps_memRead _ _).bind fun _ =>
    Keeps.ite (Keeps.pure _) ((hp.keeps_updPsr (compareFlags_flagsOnly _ _)).bind fun _ => Keeps.pure _)

theorem keeps_equalFlags : Keeps p equalFlags := hp.keeps_updPsr (setZNL_flagsOnly _ _ _)

/-! ### Control -/

omit hp in
theorem runs_branch (c : Cond) (d : Disp) : RunsKeeping p (branch c d) :=
  RunsKeeping.run (Keeps.getS.bind fun _ => Keeps.pure _)

theorem runs_jump (i : Size) (g : Gen) : RunsKeeping p (execJump i g) :=
  RunsKeeping.run ((hp.keeps_addrOp g).bind fun _ => Keeps.pure _)

theorem runs_casei (i : Size) (g : Gen) : RunsKeeping p (execCasei i g) :=
  RunsKeeping.run ((hp.keeps_readInt i g).bind fun _ => Keeps.getS.bind fun _ => Keeps.pure _)

theorem runs_acb (i : Size) (q : BitVec 4) (g : Gen) (d : Disp) : RunsKeeping p (execAcb i q g d) :=
  RunsKeeping.run ((hp.keeps_locGen g).bind fun l => (hp.keeps_readRmw _ l).bind fun _ =>
    (hp.keeps_writeRmw _ _ l).bind fun _ =>
    Keeps.getS.bind fun _ => Keeps.pure _)

theorem runs_jsr (i : Size) (g : Gen) : RunsKeeping p (execJsr i g) :=
  RunsKeeping.runNext fun _ => (hp.keeps_addrOp g).bind fun _ => (hp.keeps_push _ _).bind fun _ => Keeps.pure _

theorem runs_bsr (d : Disp) : RunsKeeping p (execBsr d) :=
  RunsKeeping.runNext fun _ => (hp.keeps_push _ _).bind fun _ => Keeps.getS.bind fun _ => Keeps.pure _

theorem runs_ret (d : Disp) : RunsKeeping p (execRet d) :=
  RunsKeeping.run ((hp.keeps_pop _).bind fun _ => (hp.keeps_setSp _).bind fun _ => Keeps.pure _)

theorem keeps_callModule (desc next : Word) : Keeps p (callModule desc next) :=
  Keeps.getS.bind fun _ => (hp.keeps_push _ _).bind fun _ => (hp.keeps_push _ _).bind fun _ =>
    (hp.keeps_enterModule _).bind fun _ =>
    (hp.keeps_memRead32 _).bind fun _ => Keeps.pure _

theorem runs_cxp (d : Disp) : RunsKeeping p (execCxp d) :=
  RunsKeeping.runNext fun _ => Keeps.getS.bind fun _ => (hp.keeps_memRead32 _).bind fun _ =>
    (hp.keeps_memRead32 _).bind fun _ =>
    hp.keeps_callModule _ _

theorem runs_cxpd (i : Size) (g : Gen) : RunsKeeping p (execCxpd i g) :=
  RunsKeeping.runNext fun _ => (hp.keeps_addrOp g).bind fun _ => (hp.keeps_memRead32 _).bind fun _ =>
    hp.keeps_callModule _ _

theorem runs_rxp (d : Disp) : RunsKeeping p (execRxp d) :=
  RunsKeeping.run ((hp.keeps_pop _).bind fun _ => (hp.keeps_pop _).bind fun _ =>
    (hp.keeps_enterModule _).bind fun _ =>
    (hp.keeps_setSp _).bind fun _ => Keeps.pure _)

omit hp in
theorem runs_flag : RunsKeeping p execFlag :=
  RunsKeeping.run (Keeps.getS.bind fun _ => Keeps.ite (Keeps.stop _) (Keeps.pure _))

theorem keeps_saveRegs (m : Byte) (l : List RegNum) : Keeps p (saveRegs m l) := by
  induction l with
  | nil => exact Keeps.pure _
  | cons n rest ih =>
    exact Keeps.ite (Keeps.getS.bind fun _ => (hp.keeps_push _ _).bind fun _ => ih) ih

theorem keeps_restoreRegs (m : Byte) (l : List RegNum) : Keeps p (restoreRegs m l) := by
  induction l with
  | nil => exact Keeps.pure _
  | cons n rest ih =>
    exact Keeps.ite ((hp.keeps_pop _).bind fun _ => (hp.keeps_setReg _ _).bind fun _ => ih) ih

theorem runs_save (m : Byte) : RunsKeeping p (execSave m) :=
  RunsKeeping.run ((hp.keeps_saveRegs m _).bind fun _ => Keeps.pure _)

theorem runs_restore (m : Byte) : RunsKeeping p (execRestore m) :=
  RunsKeeping.run ((hp.keeps_restoreRegs m _).bind fun _ => Keeps.pure _)

theorem runs_enter (m : Byte) (d : Disp) : RunsKeeping p (execEnter m d) :=
  RunsKeeping.run (Keeps.getS.bind fun _ => (hp.keeps_push _ _).bind fun _ => (Keeps.upd fun s h =>
    hp.fp s _ h).bind fun _ =>
    (hp.keeps_setSp _).bind fun _ => (hp.keeps_saveRegs m _).bind fun _ => Keeps.pure _)

theorem runs_exit (m : Byte) : RunsKeeping p (execExit m) :=
  RunsKeeping.run ((hp.keeps_restoreRegs m _).bind fun _ => (hp.keeps_setSp _).bind fun _ =>
    (hp.keeps_pop _).bind fun _ =>
    (Keeps.upd fun s h => hp.fp s _ h).bind fun _ => Keeps.pure _)

/-! ### Slave instructions -/

theorem keeps_slaveSend (st : BitVec 5) (w : Word) : Keeps p (slaveSend st w) := Keeps.upd fun s h => hp.refs s _ h

theorem keeps_slaveRead (st : BitVec 5) (w : Word) : Keeps p (slaveRead st w) := Keeps.upd fun s h => hp.refs s _ h

theorem keeps_sendAll (ws : List Word) : Keeps p (sendAll ws) := by
  induction ws with
  | nil => exact Keeps.pure _
  | cons w rest ih => exact (hp.keeps_slaveSend _ w).bind fun _ => ih

theorem keeps_slaveAnswer (i : Instr) (sent : List Word) : Keeps p (slaveAnswer i sent) :=
  fun s h => hp.draws _ (s.freeCount + 1) (hp.slave s s.slaveReplies.tail h)

theorem keeps_statusWord (sw : Word) : Keeps p (statusWord sw) :=
  (hp.keeps_slaveRead _ sw).bind fun _ => Keeps.ite (Keeps.stop _) (hp.keeps_updPsr (setZNL_flagsOnly _ _ _))

theorem keeps_transact (i : Instr) (sent : List Word) (n : Nat) : Keeps p (transact i sent n) := by
  refine (hp.keeps_slaveSend _ _).bind fun _ => (hp.keeps_sendAll sent).bind fun _ =>
    (hp.keeps_slaveAnswer i sent).bind fun r => ?_
  cases r with
  | done lo hi =>
    refine Keeps.ite (Keeps.pure _) ((hp.keeps_slaveRead _ lo).bind fun _ => ?_)
    exact Keeps.ite ((hp.keeps_slaveRead _ hi).bind fun _ => Keeps.pure _) (Keeps.pure _)
  | status sw => exact (hp.keeps_statusWord sw).bind fun _ => Keeps.pure _
  | silent => exact Keeps.stop _

theorem keeps_sourceWords (t : SlaveType) (g : Gen) : Keeps p (sourceWords t g) :=
  Keeps.ite (Keeps.pure _) ((hp.keeps_readOp g _).bind fun _ => Keeps.pure _)

theorem keeps_rmwWords (t : SlaveType) (g : Gen) (l : Loc) : Keeps p (rmwWords t g l) :=
  Keeps.ite (Keeps.pure _) ((hp.keeps_readRmw _ l).bind fun _ => Keeps.pure _)

section Slave

variable {set : SlaveSet} {i : Instr} {r : Option Refusal} {t1 t2 : SlaveType} {g1 g2 : Gen}

theorem runs_likeAdd : RunsKeeping p (likeAdd set i r t1 g1 t2 g2) := by
  refine RunsKeeping.run ((hp.keeps_sourceWords t1 g1).bind fun _ => (hp.keeps_locGen g2).bind fun l =>
    (hp.keeps_rmwWords t2 g2 l).bind fun _ => (hp.keeps_transact i _ _).bind fun v => ?_)
  cases v with
  | some v => exact (hp.keeps_writeRmw _ v l).bind fun _ => Keeps.pure _
  | none => exact Keeps.pure _

theorem runs_likeMov {size : Size} : RunsKeeping p (likeMov size set i r t1 g1 t2 g2) := by
  refine RunsKeeping.run ((hp.keeps_sourceWords t1 g1).bind fun _ => (hp.keeps_locGen g2).bind fun l =>
    (hp.keeps_transact i _ _).bind fun v => ?_)
  cases v with
  | some v => exact (hp.keeps_writeLoc _ v l).bind fun _ => Keeps.pure _
  | none => exact Keeps.pure _

theorem runs_likeCmp : RunsKeeping p (likeCmp set i r t1 g1 t2 g2) :=
  RunsKeeping.run ((hp.keeps_sourceWords t1 g1).bind fun _ => (hp.keeps_sourceWords t2 g2).bind fun _ =>
    (hp.keeps_transact i _ _).bind fun _ => Keeps.pure _)

theorem runs_slot {note : SlotNote} : RunsKeeping p (slot note set i r t1 g1 g2) := by
  cases note with
  | likeMov => exact hp.runs_likeMov
  | likeAdd => exact hp.runs_likeAdd
  | likeCmp => exact hp.runs_likeCmp

theorem runs_slaveLoad {priv : Bool} {b : BitVec 2} : RunsKeeping p (slaveLoad set priv b i r g1) :=
  RunsKeeping.run ((hp.keeps_sourceWords _ g1).bind fun _ => (hp.keeps_transact i _ _).bind fun _ => Keeps.pure _)

theorem runs_slaveStore {priv : Bool} {b : BitVec 2} : RunsKeeping p (slaveStore set priv b i r g1) := by
  refine RunsKeeping.run ((hp.keeps_locGen g1).bind fun l => (hp.keeps_transact i _ _).bind fun v => ?_)
  cases v with
  | some v => exact (hp.keeps_writeLoc _ v l).bind fun _ => Keeps.pure _
  | none => exact Keeps.pure _

end Slave

/-! ### Processor registers and the rest -/

/-- A register that every mode may load (R480). -/
theorem keeps_loadAReg {r : AReg} (hr : aregPrivileged r = false) (v : Quad) : Keeps p (loadAReg r v) := by
  cases r with
  | upsr => exact (hp.keeps_updPsr (loadLow_flagsOnly _)).bind fun _ => hp.keeps_serialize
  | fp => exact Keeps.upd fun s h => hp.fp s _ h
  | sp => exact hp.keeps_setSp _
  | sb => exact Keeps.upd fun s h => hp.sb s _ h
  | mod => exact Keeps.upd fun s h => hp.mod s _ h
  | res5 | res6 | res7 => exact Keeps.pure _
  | psr | intbase | usp | cfg | dcr | bpc | dsr | car => simp [aregPrivileged] at hr

theorem keeps_withReserved (v mask : Word) : Keeps p (withReserved v mask) :=
  hp.keeps_drawWord.bind fun _ => Keeps.pure _

theorem keeps_readAReg (r : AReg) : Keeps p (readAReg r) := by
  refine Keeps.getS.bind fun s => ?_
  cases r with
  | dcr | dsr => exact hp.keeps_withReserved _ _
  | upsr | fp | sp | sb | usp | mod | cfg | psr | intbase | car | bpc | res5 | res6 | res7 => exact Keeps.pure _

theorem runs_spr (i : Size) (r : AReg) (g : Gen) : RunsKeeping p (execSpr i r g) :=
  RunsKeeping.run ((hp.keeps_readAReg r).bind fun _ => (hp.keeps_locGen g).bind fun l =>
    (hp.keeps_writeLoc _ _ l).bind fun _ =>
    Keeps.pure _)

theorem runs_adjsp (i : Size) (g : Gen) : RunsKeeping p (execAdjsp i g) :=
  RunsKeeping.run ((hp.keeps_readInt i g).bind fun _ => (hp.keeps_setSp _).bind fun _ => Keeps.pure _)

theorem runs_wait : RunsKeeping p execWait :=
  RunsKeeping.run (hp.keeps_drain.bind fun _ => (Keeps.upd hp.waiting).bind fun _ => Keeps.pure _)

theorem runs_dia : RunsKeeping p execDia :=
  RunsKeeping.run (hp.keeps_serialize.bind fun _ => Keeps.getS.bind fun _ => Keeps.pure _)

theorem runs_lpr (hu : ∀ s, p s → s.flagU = true) (i : Size) (r : AReg) (g : Gen) : RunsKeeping p (execLpr i r g) :=
  by
  cases hr : aregPrivileged r with
  | true => exact RunsKeeping.privileged hu hr
  | false => exact RunsKeeping.run ((hp.keeps_readOp g _).bind fun _ => (hp.keeps_loadAReg hr _).bind fun _ =>
    Keeps.pure _)

theorem runs_bispsr (hu : ∀ s, p s → s.flagU = true) (i : Size) (g : Gen) : RunsKeeping p (execBispsr i g) := by
  by_cases hi : i = .b
  · subst hi
    exact RunsKeeping.run ((hp.keeps_readOp g _).bind fun _ => (hp.keeps_updPsr (orLow_flagsOnly _)).bind fun _ =>
      Keeps.pure _)
  · exact RunsKeeping.privileged hu (bne_iff_ne.mpr hi)

theorem runs_bicpsr (hu : ∀ s, p s → s.flagU = true) (i : Size) (g : Gen) : RunsKeeping p (execBicpsr i g) := by
  by_cases hi : i = .b
  · subst hi
    exact RunsKeeping.run ((hp.keeps_readOp g _).bind fun _ => (hp.keeps_updPsr (clearLow_flagsOnly _)).bind fun _ =>
      Keeps.pure _)
  · exact RunsKeeping.privileged hu (bne_iff_ne.mpr hi)

omit hp in
theorem runs_nop : RunsKeeping p execNop := RunsKeeping.run (Keeps.pure _)

omit hp in
theorem runs_svc : RunsKeeping p execSvc := RunsKeeping.run (Keeps.stop _)

omit hp in
theorem runs_bpt : RunsKeeping p execBpt := RunsKeeping.run (Keeps.stop _)

omit hp in
theorem runs_undefined (basic : Nat) : RunsKeeping p (undefined basic) := RunsKeeping.run (Keeps.stop _)

/-- In user mode every instruction keeps what the primitive actions keep, for the privileged ones do nothing (R480).
-/
theorem runs_exec (hu : ∀ s, p s → s.flagU = true) (i : Instr) : RunsKeeping p (exec i) := by
  cases i with
  | beq d | bne d | bcs d | bcc d | bhi d | bls d | bgt d | ble d | bfs d | bfc d | blo d | bhs d | blt d | bge d
  | br d | bnever d => exact runs_branch _ d
  | bsr d => exact hp.runs_bsr d
  | ret d => exact hp.runs_ret d
  | cxp d => exact hp.runs_cxp d
  | rxp d => exact hp.runs_rxp d
  | save m => exact hp.runs_save m
  | restore m => exact hp.runs_restore m
  | enter m d => exact hp.runs_enter m d
  | exit m => exact hp.runs_exit m
  | nop => exact runs_nop
  | svc => exact runs_svc
  | bpt => exact runs_bpt
  | wait => exact hp.runs_wait
  | dia => exact hp.runs_dia
  | flag => exact runs_flag
  | movst o => exact hp.runs_string (Keeps.pure _) (hp.keeps_moveStep _)
  | movs i o => exact hp.runs_string (Keeps.pure _) (hp.keeps_moveStep _)
  | cmpst o => exact hp.runs_string hp.keeps_equalFlags (hp.keeps_compareStep _)
  | cmps i o => exact hp.runs_string hp.keeps_equalFlags (hp.keeps_compareStep _)
  | skpst o => exact hp.runs_string (Keeps.pure _) fun _ => Keeps.pure _
  | skps i o => exact hp.runs_string (Keeps.pure _) fun _ => Keeps.pure _
  | rot i g1 g2 => exact hp.runs_shift hp.computes_rotate
  | ash i g1 g2 => exact hp.runs_shift hp.computes_arithmeticShift
  | lsh i g1 g2 => exact hp.runs_shift hp.computes_logicalShift
  | cbit i g1 g2 | cbiti i g1 g2 | sbit i g1 g2 | sbiti i g1 g2 | ibit i g1 g2 => exact hp.runs_testBit _ _ i g1 g2
  | neg i g1 g2 => exact hp.runs_unary fun _ => setCF_flagsOnly _ _
  | abs i g1 g2 => exact hp.runs_unary fun _ => setF_flagsOnly _
  | not i g1 g2 | com i g1 g2 => exact hp.runs_unary fun _ => FlagsOnly.id
  | addp i g1 g2 => exact hp.runs_binary fun _ b a => hp.computes_addPacked b a _
  | subp i g1 g2 => exact hp.runs_binary fun _ b a => hp.computes_subPacked b a _
  | movm i g1 g2 d => exact hp.runs_movm i g1 g2 d
  | cmpm i g1 g2 d => exact hp.runs_cmpm i g1 g2 d
  | inss i g1 g2 c => exact hp.runs_inss i g1 g2 c
  | exts i g1 g2 c => exact hp.runs_exts i g1 g2 c
  | movxbw i g1 g2 | movzbw i g1 g2 | movzd i g1 g2 | movxd i g1 g2 | mov i g1 g2 =>
    exact RunsKeeping.run (hp.keeps_readWrite fun _ => FlagsOnly.id)
  | mul i g1 g2 => exact hp.runs_binary_pure fun _ _ _ => FlagsOnly.id
  | mei i g1 g2 => exact hp.runs_mei i g1 g2
  | dei i g1 g2 => exact hp.runs_dei i g1 g2
  | quo i g1 g2 | rem i g1 g2 | mod i g1 g2 | div i g1 g2 => exact hp.runs_division fun _ _ => FlagsOnly.id
  | extf i r g1 g2 d => exact hp.runs_extf i r g1 g2 d
  | cvtp i r g1 g2 => exact hp.runs_cvtp i r g1 g2
  | ins i r g1 g2 d => exact hp.runs_ins i r g1 g2 d
  | check i r g1 g2 => exact hp.runs_check i r g1 g2
  | index i r g1 g2 => exact hp.runs_index i r g1 g2
  | ffs i pad g1 g2 => exact hp.runs_ffs i pad g1 g2
  | movif | movlf | movfl | roundfi | truncfi | floorfi | movf | negf | slot11at7 | slot11at9 | slot11at11 | absf
  | slot11at15 | logbf | ccv3ic | ccv5qd | ccv4dq | ccv2ci | ccv1ci | ccv0ci | cmov0 | cmov1 | cmov2 | cmov3 =>
    exact hp.runs_likeMov
  | addf | subf | slot11at6 | divf | mulf | slot11at14 | scalbf | ccal0 | ccal1 | ccal2 | ccal3 =>
    exact hp.runs_likeAdd
  | cmpf | slot11at3 | slot11at10 | polyf | dotf | ccmp0 | ccmp1 => exact hp.runs_likeCmp
  | slot12 | slot155 => exact hp.runs_slot
  | lfsr | lcsr | lcr => exact hp.runs_slaveLoad
  | sfsr | scsr | scr => exact hp.runs_slaveStore
  | addq i q g => exact hp.runs_addq i q g
  | cmpq i q g => exact hp.runs_cmpq i q g
  | spr i r g => exact hp.runs_spr i r g
  | scond i c g => exact hp.runs_scond i c g
  | acb i q g d => exact hp.runs_acb i q g d
  | movq i q g => exact hp.runs_movq i q g
  | lpr i r g => exact hp.runs_lpr hu i r g
  | cxpd i g => exact hp.runs_cxpd i g
  | bicpsr i g => exact hp.runs_bicpsr hu i g
  | jump i g => exact hp.runs_jump i g
  | bispsr i g => exact hp.runs_bispsr hu i g
  | adjsp i g => exact hp.runs_adjsp i g
  | jsr i g => exact hp.runs_jsr i g
  | casei i g => exact hp.runs_casei i g
  | add i g1 g2 | addc i g1 g2 | sub i g1 g2 | subc i g1 g2 =>
    exact hp.runs_binary_pure fun _ _ _ => setCF_flagsOnly _ _
  | and i g1 g2 | or i g1 g2 | bic i g1 g2 | xor i g1 g2 => exact hp.runs_binary_pure fun _ _ _ => FlagsOnly.id
  | cmp i g1 g2 => exact hp.runs_cmp i g1 g2
  | addr i g1 g2 => exact hp.runs_addr i g1 g2
  | tbit i g1 g2 => exact hp.runs_tbit i g1 g2
  | rett | reti | setcfg | cinv | movsu | movus => exact RunsKeeping.privileged hu rfl
  | undef5 | undef6 | undef7 | undef8sel | undef8op | undef10 | undef13 | undef14 | catst0 | catst1
  | undef150 | undef56 | undef76 | undef96 | undefD6 | undefF6 | undef16 | undef17 | undef18 => exact runs_undefined 3
  | undef19 => exact runs_undefined 1
  | undef3 => exact runs_undefined 2

end UserPrimitives

end Sys2Proof.Machine
end

section
/-! SUPPORT. What memory references and slave cycles leave alone, and what user mode cannot reach (R38, R39, R480). -/

namespace Sys2Proof.Machine

/-! ### Properties of the registers -/

/-- A property that looks at nothing a memory reference or a slave changes: only at what a suspended instruction gets
back (R602). -/
def BlindToMemory (p : State → Prop) : Prop := ∀ s t, p s → p (suspend s t)

namespace BlindToMemory

variable {p : State → Prop} (hp : BlindToMemory p)
include hp

/-- What is left of a state once memory, the caches and the bookkeeping changed. -/
theorem of_suspend {s t : State} (h : p s) (e : suspend s t = t) : p t := e ▸ hp s t h

theorem keeps_settleWrites (f : PendingStore → Bool) : Keeps p (settleWrites f) := by
  intro s h
  cases he : settleWrites f s with
  | ok u t =>
    obtain ⟨wb, rfl⟩ := settleWrites_ok he
    exact hp.of_suspend h rfl
  | error e t =>
    unfold settleWrites at he
    simp only [] at he
    split at he <;> cases he
    exact h

theorem keeps_drain : Keeps p drain := hp.keeps_settleWrites _

theorem keeps_serialize : Keeps p serialize := hp.keeps_drain.bind fun _ => Keeps.upd fun _ h => hp.of_suspend h rfl

theorem keeps_readNow (k : RefKind) (a : Word) (n : Nat) : Keeps p (readNow k a n) := by
  intro s h
  obtain ⟨dc, br, hv⟩ := dataReads_frame k.cached s a n
  unfold readNow
  rw [hv]
  simp only []
  split
  all_goals
    next heq =>
    split at heq <;> cases heq
    exact hp.of_suspend h rfl

theorem keeps_readRef (k : RefKind) (a : Word) (n : Nat) : Keeps p (readRef k a n) :=
  Keeps.getS.bind fun _ => (hp.keeps_settleWrites _).bind fun _ => hp.keeps_readNow k a n

theorem keeps_writeRef (k : RefKind) (a : Word) (n : Nat) (v : Quad) : Keeps p (writeRef k a n v) := by
  intro s h
  obtain ⟨br, hv⟩ := writeCycles_frame s a n
  unfold writeRef
  rw [hv]
  simp only []
  split
  all_goals
    next heq =>
    split at heq <;> cases heq
    exact hp.of_suspend h rfl

theorem keeps_memRead32 (a : Word) : Keeps p (memRead32 a) :=
  Keeps.bind (fun s h => hp.keeps_readRef ⟨stData, s.flagU, false, true⟩ a 4 s h) fun _ => Keeps.pure _

theorem keeps_icuRead (st : BitVec 5) (a : Word) : Keeps p (icuRead st a) := by
  refine Keeps.getS.bind fun _ => (hp.keeps_settleWrites _).bind fun _ s h => ?_
  unfold icuNow
  simp only []
  split
  all_goals
    next heq =>
    split at heq <;> cases heq
    exact hp.of_suspend h rfl

theorem keeps_interruptVector (nmi : Bool) : Keeps p (interruptVector nmi) := by
  refine Keeps.getS.bind fun s => Keeps.ite ((hp.keeps_icuRead _ _).bind fun _ =>
    Keeps.pure _) ((hp.keeps_icuRead _ _).bind fun b => ?_)
  refine Keeps.ite (Keeps.pure _) (Keeps.ite (Keeps.pure _) (Keeps.ite ?_ (Keeps.stop _)))
  exact (hp.keeps_memRead32 _).bind fun _ => hp.keeps_icuRead _ _

theorem keeps_dummyStatusRead : Keeps p dummyStatusRead := fun _ h => hp.of_suspend h rfl

end BlindToMemory

/-! ### What user mode cannot reach -/

/-- The registers that only the supervisor loads, but PSR, SP0 and the bits of DSR that debug conditions set. -/
structure Guard where
  intbase : Word
  cfg : Word
  dcr : Word
  car : Word
  bpc : Word
  dsr : Word

/-- Those of a state. -/
def State.guard (s : State) : Guard := ⟨s.intbase, s.cfg, s.dcr, s.car, s.bpc, s.dsr &&& 0x0FFFFFFF#32⟩

@[simp] theorem State.setReg_guard (s : State) (n : RegNum) (v : Word) : (s.setReg n v).guard = s.guard := rfl
@[simp] theorem State.setSp_guard (s : State) (v : Word) : (s.setSp v).guard = s.guard := by simp [State.guard]

/-- What the actions of an instruction that runs from `g` in user mode leave: the guarded registers, SP0, and of PSR
everything but the flags. -/
def Isolated (g t : State) : Prop :=
  t.guard = g.guard ∧ t.psr &&& systemBits = g.psr &&& systemBits ∧ t.sp0 = g.sp0

theorem Isolated.refl (g : State) : Isolated g g := ⟨rfl, rfl, rfl⟩

theorem Isolated.guard {g t : State} (h : Isolated g t) : t.guard = g.guard := h.1
theorem Isolated.psr {g t : State} (h : Isolated g t) : t.psr &&& systemBits = g.psr &&& systemBits := h.2.1
theorem Isolated.sp0 {g t : State} (h : Isolated g t) : t.sp0 = g.sp0 := h.2.2

theorem Isolated.flagU {g t : State} (h : Isolated g t) : t.flagU = g.flagU := bit_eq_of_and_eq h.psr rfl
theorem Isolated.flagS {g t : State} (h : Isolated g t) : t.flagS = g.flagS := bit_eq_of_and_eq h.psr rfl
theorem Isolated.flagI {g t : State} (h : Isolated g t) : t.flagI = g.flagI := bit_eq_of_and_eq h.psr rfl

/-- On the user stack every primitive action of an instruction keeps the isolation. -/
theorem isolated_primitives {g : State} (hs : g.flagS = true) (hp : g.psr &&& ~~~psrMask = 0#16) :
    UserPrimitives (Isolated g) where
  draws _ _ h := h
  settle := BlindToMemory.keeps_settleWrites fun _ _ h => h
  read := BlindToMemory.keeps_readRef fun _ _ h => h
  write := BlindToMemory.keeps_writeRef fun _ _ h => h
  discard _ h := h
  refs _ _ h := h
  slave _ _ h := h
  reg _ _ _ h := h
  sp s v h := by
    have hsp : (s.setSp v).sp0 = s.sp0 := by simp [State.setSp, h.flagS, hs]
    obtain ⟨hg, hpsr, h0⟩ := h
    exact ⟨(s.setSp_guard v).trans hg, by rwa [State.setSp_psr], hsp.trans h0⟩
  fp _ _ h := h
  sb _ _ h := h
  mod _ _ h := h
  flags s f hf h := by
    obtain ⟨hg, hpsr, h0⟩ := h
    exact ⟨hg, (hf _ (implemented_of_systemBits hpsr hp)).trans hpsr, h0⟩
  waiting _ h := h

end Sys2Proof.Machine
end

section
/-! SUPPORT. What an exception taken from user mode leaves of the registers that only the supervisor loads (R641 to
R644). -/

namespace Sys2Proof.Machine

/-! ### Actions that lead from one property to another -/

/-- From a state with `p` the action completes in one with `q` or stops in one with `e`. -/
def Leads (p q e : State → Prop) {α : Type} (m : M α) : Prop :=
  ∀ s, p s → match m s with
    | .ok _ t => q t
    | .error _ t => e t

section Leads

variable {p q r e : State → Prop} {α β : Type}

theorem Keeps.leads {m : M α} (h : Keeps p m) (he : ∀ s, p s → e s) : Leads p p e m := by
  intro s hs
  have h1 := h s hs
  cases hm : m s with
  | ok a t => rw [hm] at h1; exact h1
  | error x t => rw [hm] at h1; exact he t h1

theorem Leads.upd {f : State → State} (h : ∀ s, p s → q (f s)) : Leads p q e (Machine.upd f) := h

theorem Leads.bind {m : M α} {k : α → M β} (h : Leads p q e m) (hk : ∀ a, Leads q r e (k a)) :
    Leads p r e (m >>= k) := by
  intro s hs
  have h1 := h s hs
  cases hm : m s with
  | ok a t =>
    rw [hm] at h1
    have e : (m >>= k) s = k a t := by simp [Bind.bind, EStateM.bind, hm]
    rw [e]
    exact hk a t h1
  | error x t =>
    rw [hm] at h1
    have e : (m >>= k) s = .error x t := by simp [Bind.bind, EStateM.bind, hm]
    rw [e]
    exact h1

theorem Leads.ite {c : Prop} [Decidable c] {m m' : M α} (h : Leads p q e m) (h' : Leads p q e m') :
    Leads p q e (if c then m else m') := by
  split
  · exact h
  · exact h'

end Leads

/-! ### Entering an exception -/

/-- Inside an entry: the guarded registers, PSR and SP0. -/
def Framed (c : Guard) (q : Half) (a : Word) (t : State) : Prop := t.guard = c ∧ t.psr = q ∧ t.sp0 = a

theorem Framed.guard {c : Guard} {q : Half} {a : Word} {t : State} (h : Framed c q a t) : t.guard = c := h.1

theorem framed_blind (c : Guard) (q : Half) (a : Word) : BlindToMemory (Framed c q a) := fun _ _ h => h

section Entry

variable {c : Guard} {q : Half} {a : Word} (hq : q.getLsbD 9 = false)
include hq

theorem Framed.setSp {t : State} (v : Word) (h : Framed c q a t) : Framed c q v (t.setSp v) := by
  obtain ⟨hg, rfl, -⟩ := h
  have hs : t.flagS = false := hq
  exact ⟨(t.setSp_guard v).trans hg, t.setSp_psr v, by simp [State.setSp, hs]⟩

theorem Framed.sp {t : State} (h : Framed c q a t) : t.sp = a := by
  obtain ⟨-, rfl, rfl⟩ := h
  have hs : t.flagS = false := hq
  simp [State.sp, hs]

/-- SP0 lowered. -/
theorem lower_leads (n : Word) :
    Leads (Framed c q a) (Framed c q (a - n)) (fun t => t.guard = c) (upd fun s => s.setSp (s.sp - n)) :=
  Leads.upd fun s h => by
    rw [h.sp hq]
    exact h.setSp hq _

theorem push_leads (n : Nat) (v : Quad) :
    Leads (Framed c q a) (Framed c q (a - BitVec.ofNat 32 n)) (fun t => t.guard = c) (push n v) := by
  refine (lower_leads hq _).bind fun _ => (Keeps.getS.bind fun s => ?_).leads fun _ h => h.guard
  exact fun t h => (framed_blind c q _).keeps_writeRef ⟨stData, t.flagU, false, false⟩ s.sp n v t h

/-- The service sequence lowers SP0 by eight, in both dispatch modes (R641, R642). -/
theorem service_leads (v : Byte) (copy : Half) (ret : Word) :
    Leads (Framed c q a) (Framed c q (a - 8#32)) (fun t => t.guard = c) (service v copy ret) := by
  have hread (b x : Word) : Leads (Framed c q b) (Framed c q b) (fun t => t.guard = c) (memRead32 x) :=
    ((framed_blind c q b).keeps_memRead32 x).leads fun _ h => h.guard
  have hget (b : Word) : Leads (Framed c q b) (Framed c q b) (fun t => t.guard = c) getS :=
    Keeps.getS.leads fun _ h => h.guard
  have hpc (b x : Word) : Leads (Framed c q b) (Framed c q b) (fun t => t.guard = c) (upd fun s => { s with pc :=
    x }) :=
    fun _ h => h
  have hmod (b : Word) (x : Half) :
      Leads (Framed c q b) (Framed c q b) (fun t => t.guard = c) (upd fun s => { s with mod := x }) := fun _ h => h
  have hsb (b x : Word) :
      Leads (Framed c q b) (Framed c q b) (fun t => t.guard = c) (upd fun s => { s with sb := x }) :=
    fun _ h => h
  have htotal : a - 2#32 - 2#32 - 4#32 = a - 8#32 := by bv_omega
  have hlast : Leads (Framed c q (a - 2#32 - 2#32)) (Framed c q (a - 8#32)) (fun t => t.guard = c)
      (do push 4 (ret.setWidth 64); serialize) := by
    rw [← htotal]
    exact (push_leads hq 4 _).bind fun _ => (framed_blind c q _).keeps_serialize.leads fun _ h => h.guard
  refine (hget a).bind fun s0 => (push_leads hq 2 _).bind fun _ => (hget _).bind fun s => ?_
  refine Leads.ite ((lower_leads hq 2#32).bind fun _ => ?_) ((push_leads hq 2 _).bind fun _ => ?_)
  all_goals
    refine (hread _ _).bind fun entry => Leads.ite ((hpc _ entry).bind fun _ => hlast) ?_
    exact (hmod _ _).bind fun _ => (hread _ _).bind fun _ => (hpc _ _).bind fun _ =>
      (hread _ _).bind fun _ => (hsb _ _).bind fun _ => hlast

end Entry

/-! ### What a step from user mode may leave -/

/-- An exception has been entered from `g` (R642, R644). -/
def Entered (g t : State) : Prop :=
  t.afterException = true ∧ t.op = .executing ∧ t.flagU = false ∧ t.flagS = false ∧ t.flagT = false
    ∧ t.flagV = false ∧ t.flagP = false ∧ (t.flagI = g.flagI ∨ t.flagI = false) ∧ t.sp0 = g.sp0 - 8#32

/-- The guarded registers stay, and the program is still in user mode on its own stack, or an exception has been
entered, or the CPU has halted. -/
def Confined (g t : State) : Prop :=
  t.guard = g.guard
    ∧ ((t.flagU = true ∧ t.flagS = true ∧ t.flagI = g.flagI ∧ t.sp0 = g.sp0) ∨ Entered g t ∨ t.op = .halted)

/-- Every next state of the outcome is confined. -/
def Confines (g : State) (o : Out) : Prop := ∀ t, o = .next t → Confined g t

/-- What an entry relies on: the guarded registers, SP0 and I. -/
def Kept (g t : State) : Prop := t.guard = g.guard ∧ t.sp0 = g.sp0 ∧ t.flagI = g.flagI

theorem Kept.guard {g t : State} (h : Kept g t) : t.guard = g.guard := h.1

theorem Isolated.kept {g t : State} (h : Isolated g t) : Kept g t := ⟨h.guard, h.sp0, h.flagI⟩

theorem Confines.next {g t : State} (h : Confined g t) : Confines g (.next t) := by
  rintro _ ⟨⟩
  exact h

theorem Confines.refused (g : State) (r : Refusal) : Confines g (.refused r) := fun _ h => by cases h

theorem Confines.fault (g : State) (f : Fault) : Confines g (.fault f) := fun _ h => by cases h

theorem Confines.of_kept {g g' : State} {o : Out} (h : Kept g g') (ho : Confines g' o) : Confines g o := by
  intro t ht
  obtain ⟨hg, hsp, hi⟩ := h
  obtain ⟨hguard, hcase⟩ := ho t ht
  unfold Entered at hcase
  rw [hsp, hi] at hcase
  exact ⟨hguard.trans hg, hcase⟩

/-- Committing debug conditions changes DSR[31:28] and the pending Trap (DBG) only (R49, R686). -/
theorem commitRefs_frame (d : DebugRegs) (rs : List Ref) (b : Bool) (s : State) :
    ∃ x y, commitRefs d rs b s = { s with dsr := x, dbgPending := y }
      ∧ x &&& 0x0FFFFFFF#32 = s.dsr &&& 0x0FFFFFFF#32 := by
  obtain ⟨x, y, he, hx, -⟩ := commitDebug_eq d (rs.any (d.hit false)) (rs.any (d.hit true)) b s
  refine ⟨x, y, he, ?_⟩
  have hm : (0x0FFFFFFF#32 : Word) = 0x2FFFFFFF#32 &&& 0x0FFFFFFF#32 := by decide
  rw [hm, ← BitVec.and_assoc, hx, BitVec.and_assoc]

theorem commitRefs_guard (d : DebugRegs) (rs : List Ref) (b : Bool) (s : State) :
    (commitRefs d rs b s).guard = s.guard := by
  obtain ⟨x, y, he, hx⟩ := commitRefs_frame d rs b s
  rw [he]
  simp only [State.guard, hx]

theorem commitRefs_isolated {g s : State} (d : DebugRegs) (rs : List Ref) (b : Bool) (h : Isolated g s) :
    Isolated g (commitRefs d rs b s) := ⟨(commitRefs_guard d rs b s).trans h.guard, h.psr, h.sp0⟩

/-- The PSR copy that an entry pushes (R620, R624). -/
def entryCopy (clearP : Bool) (p : Half) : Half := if clearP then setP false p else p

/-- What an entry does until it is complete or ends in a bus error (R641). -/
def entryRun (clearP clearI : Bool) (vector : M Byte) (ret : Word) (s : State) : EStateM.Result Stop State Unit :=
  (vector >>= fun v => service v (entryCopy clearP s.psr) ret)
    { s with psr := entryPsr clearI (entryCopy clearP s.psr) }

/-- An entry goes on with its last state, or halts with the state in which it stopped (R626). -/
theorem takeException_next {s t : State} {clearP clearI : Bool} {vector : M Byte} {ret : Word}
    (h : takeException clearP clearI vector ret s = .next t) :
    (∃ u, entryRun clearP clearI vector ret s = .ok () u ∧ t = entered s.refs.length u)
      ∨ ∃ e u, entryRun clearP clearI vector ret s = .error e u
          ∧ t = { u with op := .halted, writeBuffer := u.writeBuffer.take 2 } := by
  have hrun : takeException clearP clearI vector ret s = match entryRun clearP clearI vector ret s with
      | .ok _ u => .next (entered s.refs.length u)
      | .error (.refuse r) _ => .refused r
      | .error (.fault f) _ => .fault f
      | .error _ u => .next { u with op := .halted, writeBuffer := u.writeBuffer.take 2 } := rfl
  rw [hrun] at h
  cases he : entryRun clearP clearI vector ret s with
  | ok v u =>
    rw [he] at h
    cases h
    exact .inl ⟨u, rfl, rfl⟩
  | error e u =>
    rw [he] at h
    cases e <;> cases h <;> exact .inr ⟨_, u, rfl, rfl⟩

/-- The bits of PSR that an entry clears (R644). -/
theorem entryPsr_clears (clearI : Bool) (p : Half) {k : Nat} (hk : k ∈ ([1, 4, 8, 9, 10] : List Nat)) :
    (entryPsr clearI p).getLsbD k = false := by
  simp only [List.mem_cons, List.not_mem_nil, or_false] at hk
  rcases hk with rfl | rfl | rfl | rfl | rfl <;> cases clearI <;> simp [entryPsr]

theorem entryPsr_I (clearI clearP : Bool) (p : Half) :
    (entryPsr clearI (entryCopy clearP p)).getLsbD 11 = (p.getLsbD 11 && !clearI) := by
  have hcopy : (entryCopy clearP p).getLsbD 11 = p.getLsbD 11 := by
    cases clearP with
    | false => rfl
    | true => exact bit_eq_of_and_eq (setBit_and (m := 0x0800#16) (k := 10) p false (by decide)) (by decide)
  rw [← hcopy]
  cases clearI <;> simp [entryPsr]

theorem takeException_confines {g s : State} {clearP clearI : Bool} {vector : M Byte} {ret : Word}
    (hg : s.guard = g.guard) (hsp : s.sp0 = g.sp0) (hi : clearI = true ∨ s.flagI = g.flagI)
    (hv : ∀ c q a, Keeps (Framed c q a) vector) : Confines g (takeException clearP clearI vector ret s) := by
  intro t ht
  have hclear {k : Nat} (hk : k ∈ ([1, 4, 8, 9, 10] : List Nat)) := entryPsr_clears clearI (entryCopy clearP s.psr) hk
  have hrun := ((hv s.guard _ s.sp0).leads fun _ h => h.guard).bind
    (fun v => service_leads (hclear (k := 9) (by decide)) v (entryCopy clearP s.psr) ret)
    { s with psr := entryPsr clearI (entryCopy clearP s.psr) } ⟨rfl, rfl, rfl⟩
  obtain ⟨u, he, rfl⟩ | ⟨e, u, he, rfl⟩ := takeException_next ht
  · rw [entryRun] at he
    rw [he] at hrun
    obtain ⟨hguard, hpsr, h0⟩ := hrun
    have hbit {k : Nat} (hk : k ∈ ([1, 4, 8, 9, 10] : List Nat)) :
        (entered s.refs.length u).psr.getLsbD k = false := by
      rw [← hclear hk, ← hpsr]
      rfl
    refine ⟨(commitRefs_guard _ _ _ _).trans (hguard.trans hg), .inr (.inl ⟨rfl, rfl, hbit (by decide),
      hbit (by decide), hbit (by decide), hbit (by decide), hbit (by decide), ?_, h0.trans (by rw [hsp])⟩)⟩
    have hI : (entered s.refs.length u).flagI = (s.flagI && !clearI) := by
      rw [State.flagI, State.flagI, ← entryPsr_I clearI clearP, ← hpsr]
      rfl
    rcases hi with rfl | hi
    · exact .inr (by rw [hI, Bool.not_true, Bool.and_false])
    · rw [hI, hi]
      cases clearI
      · exact .inl (Bool.and_true _)
      · exact .inr (Bool.and_false _)
  · rw [entryRun] at he
    rw [he] at hrun
    exact ⟨hrun.trans hg, .inr (.inr rfl)⟩

end Sys2Proof.Machine
end

section
/-! PROOF. A step from user mode leaves the supervisor's registers alone, unless it enters an exception. -/

namespace Sys2Proof.Machine

/-! ### The non-restartable bus error -/

/-- What freeing bytes leaves alone: everything but memory, the data cache and the counter of draws (U29). -/
theorem freeSpans_frame (xs : List (Word × Nat)) (s : State) :
    ∃ m dc fc, xs.foldl freeSpan s = { s with mem := m, dcache := dc, freeCount := fc } := by
  induction xs generalizing s with
  | nil => exact ⟨s.mem, s.dcache, s.freeCount, rfl⟩
  | cons x rest ih => exact ih (freeSpan s x)

theorem unlessChanged_same (x free : Word) : unlessChanged x x free = x := if_pos rfl

theorem unlessChanged_dsr {old new free : Word} (h : new &&& 0x0FFFFFFF#32 = 0#32) :
    unlessChanged old new (free &&& dsrMask) &&& 0x0FFFFFFF#32 = 0#32 := by
  unfold unlessChanged
  split
  · exact h
  · rw [BitVec.and_assoc]
    exact BitVec.and_zero

/-- Termination leaves the guarded registers that the instruction left, and SP0 of its start (R625, U29). -/
theorem terminate_guard {s0 s : State} (hg : s0.guard = s.guard) (hd : s.guard.dsr = 0#32) :
    (terminate s0 s).guard = s.guard ∧ (terminate s0 s).sp0 = s0.sp0 := by
  unfold terminate
  obtain ⟨dc, fc, h1⟩ := freeCopies_frame
    ((s.writeBuffer.take (Config.freeNat s.freeCount % 3)).map PendingStore.span) _
  simp only []
  rw [h1]
  obtain ⟨m, dc', fc', h2⟩ := freeSpans_frame (lostSpans s0 s) _
  rw [h2]
  have hg' := hg
  simp only [State.guard, Guard.mk.injEq] at hg'
  obtain ⟨hint, hcfg, hdcr, hcar, hbpc, -⟩ := hg'
  refine ⟨?_, rfl⟩
  have hdsr : s.dsr &&& 0x0FFFFFFF#32 = 0#32 := hd
  simp only [State.guard, hint, hcfg, hdcr, hcar, hbpc, unlessChanged_same, unlessChanged_dsr hdsr, hdsr]

theorem takeWriteError_confines {g s0 s : State} (hd : g.guard.dsr = 0#32) (h0 : Kept g s0) (hg : s.guard = g.guard) :
    Confines g (takeWriteError s0 s) := by
  obtain ⟨h0g, h0sp, -⟩ := h0
  obtain ⟨htg, htsp⟩ := terminate_guard (h0g.trans hg.symm) (hg ▸ hd)
  exact takeException_confines (htg.trans hg) (htsp.trans h0sp) (.inl rfl) fun c q a =>
    (framed_blind c q a).keeps_dummyStatusRead.bind fun _ => Keeps.pure _

/-! ### The exceptions -/

section Confinement

variable {g : State} (hd : g.guard.dsr = 0#32)
include hd

theorem enterException_confines {s0 s : State} {clearP clearI : Bool} {vector : M Byte} {ret : Word}
    {onEntry : State → State} (h0 : Kept g s0) (h : Kept g s) (he : Kept g (onEntry s))
    (hv : ∀ c q a, Keeps (Framed c q a) vector) :
    Confines g (enterException s0 clearP clearI vector ret s onEntry) := by
  unfold enterException
  split
  · exact takeWriteError_confines hd h0 h.guard
  · obtain ⟨hg, hsp, hi⟩ := he
    exact takeException_confines hg hsp (.inr hi) hv

/-- A point at which a bus error may be reported is confined where what goes on from it is, at any count of draws. -/
theorem reporting_confines {s0 s : State} {go : State → Out} (h0 : Kept g s0) (h : Kept g s)
    (hgo : ∀ n, Confines g (go { s with freeCount := n })) : Confines g (reporting s0 go s) := by
  unfold reporting
  split
  · simp only []
    split
    · exact takeWriteError_confines hd h0 h.guard
    · exact hgo _
  · exact hgo s.freeCount

omit hd in
theorem setBit32_high (w : Word) {k : Nat} (hk : k ∈ ([29, 30] : List Nat)) :
    setBit32 w k true &&& 0x0FFFFFFF#32 = w &&& 0x0FFFFFFF#32 := by
  simp only [List.mem_cons, List.not_mem_nil, or_false] at hk
  rcases hk with rfl | rfl <;> exact setBit32_and true (by decide)

omit hd in
/-- DSR with other debug bits. -/
theorem guard_withDsr {s : State} {x : Word} (h : x &&& 0x0FFFFFFF#32 = s.dsr &&& 0x0FFFFFFF#32) :
    ({ s with dsr := x } : State).guard = s.guard := by
  simp only [State.guard, h]

omit hd in
theorem debugTaken_kept {s : State} (h : Kept g s) : Kept g (debugTaken s) := by
  obtain ⟨hg, hrest⟩ := h
  have hdsr : (debugTaken s).dsr &&& 0x0FFFFFFF#32 = s.dsr &&& 0x0FFFFFFF#32 := by
    unfold debugTaken
    cases s.dbgLatch with
    | true => exact setBit32_high _ (by decide)
    | false => rfl
  exact ⟨(guard_withDsr hdsr).trans hg, hrest⟩

theorem takeDebug_confines {s0 s : State} {mark : State → State} (h0 : Kept g s0) (h : Kept g s)
    (hm : Kept g (mark s)) : Confines g (takeDebug s0 s mark) :=
  enterException_confines hd h0 h (debugTaken_kept hm) fun _ _ _ => Keeps.pure _

theorem takeInterrupt_confines {s0 s : State} (nmi : Bool) (h0 : Kept g s0) (h : Kept g s) :
    Confines g (takeInterrupt s0 nmi s) :=
  enterException_confines hd h0 h h fun c q a => (framed_blind c q a).keeps_interruptVector nmi

omit hd in
theorem settle_kept {s : State} (h : Kept g s) : Kept g (settle s) := by
  unfold settle
  split
  · obtain ⟨hg, hrest⟩ := h
    exact ⟨(commitRefs_guard _ _ _ _).trans hg, hrest⟩
  · exact h

theorem pendingEvent_confines {s : State} {o : Out} (h : Kept g s) (ho : pendingEvent s = some o) : Confines g o := by
  have hs := settle_kept h
  unfold pendingEvent at ho
  simp only [] at ho
  split at ho
  · cases ho
    exact takeDebug_confines hd h hs hs
  · split at ho
    · cases ho
      exact takeInterrupt_confines hd true h hs
    · split at ho
      · cases ho
        exact takeInterrupt_confines hd false h hs
      · cases ho

theorem pendingTrace_confines {s : State} {o : Out} (h : Kept g s) (ho : pendingTrace s = some o) : Confines g o := by
  unfold pendingTrace at ho
  split at ho
  · cases ho
    exact enterException_confines hd h h h fun _ _ _ => Keeps.pure _
  · split at ho
    · cases ho
      refine takeDebug_confines hd h h ?_
      obtain ⟨hg, hrest⟩ := h
      exact ⟨(guard_withDsr (setBit32_high s.dsr (k := 30) (by decide))).trans hg, hrest⟩
    · cases ho

/-! ### An instruction -/

theorem complete_confines {s : State} {len : Nat} {d : Done} (hu : g.flagU = true) (hs : g.flagS = true)
    (h : Isolated g s) : Confines g (complete len g d s) := by
  have hkey {t : State} (ht : Isolated g t) :
      Confines g (if d.overflow && g.flagV then takeOverflow g t else .next t) := by
    split
    · exact enterException_confines hd (Isolated.refl g).kept ht.kept ht.kept fun _ _ _ => Keeps.pure _
    · exact Confines.next ⟨ht.guard, .inl ⟨ht.flagU.trans hu, ht.flagS.trans hs, ht.flagI, ht.sp0⟩⟩
  unfold complete
  refine hkey ?_
  split
  · exact h
  · exact commitRefs_isolated _ _ _ h

theorem finish_confines {len : Nat} {body : M Done} (hu : g.flagU = true) (hs : g.flagS = true)
    (hb : Keeps (Isolated g) body) : Confines g (finish len body g) := by
  have h := hb g (Isolated.refl g)
  have hg := (Isolated.refl g).kept
  unfold finish
  cases he : body g with
  | ok d s =>
    rw [he] at h
    exact reporting_confines hd hg h.kept fun _ => complete_confines hd hu hs h
  | error e s =>
    rw [he] at h
    cases e with
    | trap k => exact enterException_confines hd hg hg hg fun _ _ _ => Keeps.pure _
    | readError => exact enterException_confines hd hg hg hg fun _ _ _ => Keeps.pure _
    | writeError => exact takeWriteError_confines hd hg h.guard
    | fatal => exact Confines.next ⟨h.guard, .inr (.inr rfl)⟩
    | refuse r => exact Confines.refused g r
    | fault f => exact Confines.fault g f

theorem exec_confines (hu : g.flagU = true) (hs : g.flagS = true) (hp : g.psr &&& ~~~psrMask = 0#16) (i : Instr) :
    Confines g (exec i g) := by
  obtain ⟨sh, body, he, hb⟩ := (isolated_primitives hs hp).runs_exec (fun s h => h.flagU.trans hu) i g
  rw [he]
  exact finish_confines hd hu hs hb

end Confinement

/-- What fetching leaves alone: everything but the instruction cache, the board's answers and the bookkeeping. -/
theorem fetched_frame (n : Nat) (s : State) : suspend s (fetched n s) = fetched n s := by
  have hviews (l : List Word) (u : State) :
      ∃ ic br, l.foldl icLookup u = { u with icache := ic, busReplies := br } := by
    induction l generalizing u with
    | nil => exact ⟨u.icache, u.busReplies, rfl⟩
    | cons x rest ih =>
      obtain ⟨ic, br, h⟩ := icLookup_frame u x
      rw [List.foldl_cons, h]
      exact ih _
  obtain ⟨ic, br, h⟩ := hviews (dwordsOf s.pc n) s
  unfold fetched afterViews
  rw [h]
  rfl

/-- The state in which an instruction begins differs only in P, memory's caches and bookkeeping (R660). -/
theorem fetched_begin (n : Nat) (s : State) :
    Kept s (fetched n (begin s)) ∧ (fetched n (begin s)).psr = setP s.flagT s.psr := by
  rw [← fetched_frame]
  have hI := setBit_and (m := 0x0800#16) (k := 10) s.psr s.flagT (by decide)
  exact ⟨⟨rfl, rfl, bit_eq_of_and_eq hI (by decide)⟩, rfl⟩

/-- A state of a program in user mode on its own stack, without unimplemented bits in PSR and DSR. -/
structure UserState (s : State) : Prop where
  user : s.flagU = true
  stack : s.flagS = true
  psr : s.psr &&& ~~~psrMask = 0#16
  dsr : s.guard.dsr = 0#32

theorem UserState.of_inv {s : State} (hi : s.inv = true) (hu : s.flagU = true) (hs : s.flagS = true) :
    UserState s := by
  simp only [State.inv, Bool.and_eq_true, beq_iff_eq] at hi
  obtain ⟨⟨⟨⟨⟨-, hpsr⟩, -⟩, -⟩, hdsr⟩, -⟩ := hi
  exact ⟨hu, hs, hpsr, hdsr⟩

theorem UserState.kept_refl (s : State) : Kept s s := (Isolated.refl s).kept

theorem runInstruction_confines {s : State} (h : UserState s) : Confines s (runInstruction s) := by
  have hstart (n : Nat) : Kept s (fetched n (begin s)) ∧ UserState (fetched n (begin s)) := by
    obtain ⟨hk, hpsr⟩ := fetched_begin n s
    have hbit {m : Half} (hm : m.getLsbD 10 = false) : (fetched n (begin s)).psr &&& m = s.psr &&& m := by
      rw [hpsr]
      exact setBit_and s.psr s.flagT hm
    exact ⟨hk, (bit_eq_of_and_eq (hbit (m := 0x0300#16) (by decide)) (by decide)).trans h.user,
      (bit_eq_of_and_eq (hbit (m := 0x0300#16) (by decide)) (by decide)).trans h.stack,
      (hbit (by decide)).trans h.psr, (congrArg Guard.dsr hk.guard).trans h.dsr⟩
  unfold runInstruction
  simp only []
  split
  · exact Confines.refused _ _
  · next i rest _ =>
    obtain ⟨hk, hf⟩ := hstart (neededBytes (begin s) ((fetchFrom (begin s) (begin s).pc maxLength).headD 0#8)
      (maxLength - rest.length))
    split
    · exact Confines.refused _ _
    · split
      · exact enterException_confines h.dsr hk hk hk fun _ _ _ => Keeps.pure _
      · exact (exec_confines hf.dsr hf.user hf.stack hf.psr i).of_kept hk

/-! ### A step -/

theorem executingStep_confines {s : State} (h : UserState s) : Confines s (executingStep s) := by
  refine reporting_confines h.dsr (UserState.kept_refl s) (UserState.kept_refl s) fun n => ?_
  have hn : Kept s { s with freeCount := n } := ⟨rfl, rfl, rfl⟩
  split
  · next o ho => exact pendingEvent_confines h.dsr hn ho
  · split
    · next o ho => exact pendingTrace_confines h.dsr hn ho
    · exact (runInstruction_confines (s := { s with freeCount := n }) ⟨h.user, h.stack, h.psr, h.dsr⟩).of_kept hn

/-- A state in which nothing but bookkeeping changes is confined. -/
theorem UserState.confined {s : State} (h : UserState s) : Confined s s := ⟨rfl, .inl ⟨h.user, h.stack, rfl, rfl⟩⟩

theorem waitingStep_confines {s : State} (h : UserState s) : Confines s (waitingStep s) := by
  refine reporting_confines h.dsr (UserState.kept_refl s) (UserState.kept_refl s) fun n => ?_
  split
  · next o ho => exact pendingEvent_confines (s := { s with freeCount := n }) h.dsr ⟨rfl, rfl, rfl⟩ ho
  · exact Confines.next h.confined

theorem step_confines {s : State} (h : UserState s) (hin : s.inputs = []) : Confines s (step s) := by
  have hinput : applyInput s = s := by simp [applyInput, hin]
  unfold step cycle
  simp only [hinput]
  cases s.op with
  | reset => exact Confines.next h.confined
  | executing => exact executingStep_confines h
  | waiting => exact waitingStep_confines h
  | halted => exact Confines.next h.confined

/-- Settles O60: every primitive action of an instruction that user mode may execute keeps the guarded registers, and
an entry lowers SP0 by its frame of eight bytes. -/
theorem userModeIsolation : Obligations.UserModeIsolation := by
  unfold Obligations.UserModeIsolation
  intro s t hinv hin hu hs hstep
  obtain ⟨hguard, hcase⟩ := step_confines (UserState.of_inv hinv hu hs) hin t hstep
  simp only [State.guard, Guard.mk.injEq] at hguard
  obtain ⟨hint, hcfg, hdcr, hcar, hbpc, hdsr⟩ := hguard
  exact ⟨hint, hcfg, hdcr, hcar, hbpc, hdsr, hcase⟩

end Sys2Proof.Machine
end

section
/-! SUPPORT. A whole instruction: its length, its checks, its completion; the caches with nothing valid; the dedicated
registers loaded. -/

namespace Sys2Proof.Machine

/-! ### Lengths -/

theorem Disp.encode_length (d : Disp) : d.encode.length = d.length := by cases d <;> rfl

theorem encodeImm_length (n : Nat) (v : Quad) : (encodeImm n v).length = n := by
  induction n with
  | zero => rfl
  | succ n ih => simp [encodeImm, ih]

theorem Mode.extBytes_length (n : Nat) (m : Mode) : (m.extBytes n).length = m.extLength n := by
  cases m <;> simp [Mode.extBytes, Mode.extLength, Disp.encode_length, encodeImm_length]

/-- The index byte and the extension of an operand are as long as execution takes them to be (R186). -/
theorem tail1_length (n : Nat) (g : Gen) : (tail1 n g).length = g.length n := by
  cases g <;> simp [tail1, Gen.head, Gen.extBytes, Gen.length, Mode.extBytes_length, Nat.add_comm]

/-- The length of a Format 2 instruction (R213). -/
theorem encQ_length (op : BitVec 3) (q : BitVec 4) (i : Size) (g : Gen) :
    (encQ op q i g).length = 2 + g.length i.bytes := by
  simp [encQ, enc2, tail1_length]
  omega

/-! ### Caches with nothing valid -/

theorem Line.hit_of_invalid {l : Line} (h : l.valid = 0#4) (a : Word) : l.hit a = false := by simp [Line.hit, h]

theorem icByte_of_invalid {s : State} (h : ∀ k : Fin 32, s.icache[k].valid = 0#4) (a : Word) : icByte s a = none := by
  simp only [icByte, Line.hit_of_invalid (h (setOf a)), Bool.and_false, Bool.false_eq_true, if_false]

theorem dcByte_of_invalid {s : State} (h : ∀ k : Fin 32, s.dcache[k].way0.valid = 0#4 ∧ s.dcache[k].way1.valid = 0#4)
    (a : Word) : dcByte s a = none := by
  obtain ⟨h0, h1⟩ := h (setOf a)
  simp only [dcByte, Line.hit_of_invalid h0, Line.hit_of_invalid h1, Bool.false_eq_true, if_false]

theorem icInvalidate_valid (ic : Vector Line 32) (k : Fin 32) : (icInvalidate ic)[k].valid = 0#4 := by
  simp [icInvalidate, Line.invalidate]

theorem dcInvalidate_valid (dc : Vector DataSet 32) (k : Fin 32) :
    (dcInvalidate dc)[k].way0.valid = 0#4 ∧ (dcInvalidate dc)[k].way1.valid = 0#4 := by
  simp [dcInvalidate, DataSet.invalidate, Line.invalidate]

/-! ### The checks of an instruction that goes through -/

theorem illegal_of_legal {o : Operand} (h : legal o.access o.gen = true) : o.illegal = false := by
  obtain ⟨g, a, n⟩ := o
  simp only [legal, Bool.and_eq_true, Bool.not_eq_true'] at h
  exact h.1

theorem reservedDisp_of_legal {o : Operand} (h : legal o.access o.gen = true) : genReservedDisp o.gen = false := by
  simp only [legal, Bool.and_eq_true, Bool.not_eq_true'] at h
  exact h.2

/-- An instruction without a slave and without a displacement of its own passes its checks (R242). -/
theorem check_none {sh : Shape} {s : State} (hslave : sh.slave = none) (hsize : sh.size ≠ .u)
    (hops : ∀ o ∈ sh.ops, legal o.access o.gen = true) (hpriv : sh.privileged = false ∨ s.flagU = false)
    (hdisp : sh.disp = none) (hres : sh.reserved = none) : sh.check s = none := by
  have hillegal : sh.ops.any Operand.illegal = false :=
    List.any_eq_false.mpr fun o ho => by simp [illegal_of_legal (hops o ho)]
  have hreserved : (sh.ops.any fun o => genReservedDisp o.gen) = false :=
    List.any_eq_false.mpr fun o ho => by simp [reservedDisp_of_legal (hops o ho)]
  have hp : (sh.privileged && s.flagU) = false := by rcases hpriv with h | h <;> simp [h]
  simp [Shape.check, Shape.reservedDisp, State.slaveDisabled, hslave, hsize, hillegal, hp, hreserved, hdisp, hres]

/-! ### Completion -/

/-- The state when an instruction completes, before its debug conditions are committed (R23). -/
def completed (len : Nat) (s : State) (d : Done) (t : State) : State :=
  { t with
    pc := d.target.getD (s.pc + BitVec.ofNat 32 len)
    midString := false
    elementRefs := []
    afterException := false
    fetchUnit := if d.target.isSome then t.fetchUnit.restart else t.fetchUnit
    freeCount := if d.debugLoaded then t.freeCount + 1 else t.freeCount }

/-- An instruction that is no element of a string and detects no overflow commits the conditions of its references. -/
theorem complete_next {s t : State} {len : Nat} {d : Done} (he : d.element = false) (hu : d.unfinished = false)
    (hv : d.overflow = false) :
    complete len s d t = .next (commitRefs (controls d s t) (t.refs.drop s.refs.length)
      ((controls d s t).pcMatch s.flagU s.pc) (completed len s d t)) := by
  simp only [complete, he, hu, hv, Bool.false_and, Bool.false_eq_true, if_false]
  rfl

/-- An instruction whose checks pass and whose actions end in a state without a pending bus error completes. -/
theorem run_complete {sh : Shape} {body : M Done} {s t : State} {d : Done} (hc : sh.check s = none)
    (hb : body s = .ok d t) (ht : t.pendingError = false) : run sh body s = complete sh.length s d t := by
  simp only [run, finish, checked, hc, hb]
  exact reporting_none _ ht

theorem run_refused {sh : Shape} {body : M Done} {s t : State} {r : Refusal} (hc : sh.check s = none)
    (hb : body s = .error (.refuse r) t) : run sh body s = .refused r := by
  simp only [run, finish, checked, hc, hb]

theorem run_congr {sh sh' : Shape} {body body' : M Done} {s : State} (hc : sh.check s = sh'.check s)
    (hl : sh.length = sh'.length) (hb : body s = body' s) : run sh body s = run sh' body' s := by
  simp only [run, finish, checked, hc, hl, hb]

theorem Sim.pendingError {u t : State} (h : Sim u t) : t.pendingError = false := by
  obtain ⟨wb, sc, fc, rf, hw, rfl⟩ := h
  exact hw

/-- What completion leaves, up to the debug bits of DSR. -/
theorem complete_sim {s u t : State} {len : Nat} {d : Done} (hs : Sim u t) (he : d.element = false)
    (hu : d.unfinished = false) (hv : d.overflow = false) :
    ∃ x b, x &&& 0x2FFFFFFF#32 = u.dsr &&& 0x2FFFFFFF#32
      ∧ ((controls d s t).dcr.getLsbD 23 = false → x = u.dsr ∧ b = u.dbgPending)
      ∧ Goes (complete len s d t) (Agrees s
        (({ u with dsr := x, dbgPending := b } : State).retired (d.target.getD (s.pc + BitVec.ofNat 32 len)))) := by
  rw [complete_next he hu hv]
  unfold commitRefs
  obtain ⟨x, b, hx, hm, hd⟩ := commitDebug_eq (controls d s t)
    ((t.refs.drop s.refs.length).any ((controls d s t).hit false))
    ((t.refs.drop s.refs.length).any ((controls d s t).hit true)) ((controls d s t).pcMatch s.flagU s.pc)
    (completed len s d t)
  rw [hx]
  obtain ⟨wb, sc, fc, rf, hw, rfl⟩ := hs
  exact ⟨x, b, hm, fun hden => hd (hit_disabled hden _ _) (hit_disabled hden _ _) (pcMatch_disabled hden _ _), _, rfl,
    rfl, rfl, fun _ => ⟨rfl, rfl⟩⟩

/-- An instruction whose checks pass and whose actions leave `u` completes. -/
theorem completes_of_reaches {I : Instr} {sh : Shape} {body : M Done} {s u : State} (hexec : exec I s = run sh body s)
    (hlen : (encode I).length = sh.length) (hs : s.plain = true) (hc : sh.check s = none)
    (hb : Reaches body s fun d u' => d = {} ∧ u' = u) : Completes I s u := by
  obtain ⟨_, _, ⟨rfl, rfl⟩, hgoes⟩ := run_agrees hs hc hb (by rintro _ _ ⟨rfl, -⟩; simp)
  unfold Completes nextPc
  rw [hlen, hexec]
  exact hgoes

/-! ### What an instruction leaves -/

theorem Goes.mono {o : Out} {p q : State → Prop} (h : Goes o p) (hpq : ∀ t, p t → q t) : Goes o q := by
  obtain ⟨t, ht, hp⟩ := h
  exact ⟨t, ht, hpq t hp⟩

/-- The debug bits of DSR and the pending Trap (DBG) may be any that debugging allows. -/
theorem Agrees.of_debug {s u t : State} {x : Word} {b : Bool} {pc : Word}
    (h : Agrees s (({ u with dsr := x, dbgPending := b } : State).retired pc) t)
    (hx : x &&& 0x2FFFFFFF#32 = u.dsr &&& 0x2FFFFFFF#32)
    (hd : s.dcr.getLsbD 23 = false → x = u.dsr ∧ b = u.dbgPending) : Agrees s (u.retired pc) t := by
  obtain ⟨he, hm, hden⟩ := h
  refine ⟨congrArg (fun w => { w with dsr := u.dsr, dbgPending := u.dbgPending }) he, hm.trans hx, fun h => ?_⟩
  obtain ⟨h1, h2⟩ := hden h
  obtain ⟨h3, h4⟩ := hd h
  exact ⟨h1.trans h3, h2.trans h4⟩

theorem Agrees.cfg {s u t : State} (h : Agrees s u t) : t.cfg = u.cfg := by
  have e := congrArg State.cfg h.1
  exact e

theorem Agrees.icache {s u t : State} (h : Agrees s u t) : t.icache = u.icache := by
  have e := congrArg State.icache h.1
  exact e

theorem Agrees.dcache {s u t : State} (h : Agrees s u t) : t.dcache = u.dcache := by
  have e := congrArg State.dcache h.1
  exact e

/-! ### Loading the dedicated registers -/

theorem afterSrc_frame (s : State) (n : Nat) (g : Gen) :
    (afterSrc s n g).dcr = s.dcr ∧ (afterSrc s n g).dsr = s.dsr ∧ (afterSrc s n g).icache = s.icache
      ∧ (afterSrc s n g).dcache = s.dcache := by
  unfold afterSrc
  cases genLoc s g <;> simp [afterRead]

theorem aregPut_dcr {r : AReg} (h : r ≠ .dcr) (v : Quad) (s : State) : (aregPut r v s).dcr = s.dcr := by
  cases r <;> simp [aregPut] at *

theorem stopIf_plain {b : Bool} (e : Stop) (u : State) (h : b = false) : Reaches (stopIf b e) u fun _ u' => u' = u := by
  subst h
  exact fun t ht => ⟨(), u, t, rfl, ht, rfl⟩

theorem loadCfg_plain (v : Word) (u : State) :
    Reaches (upd (loadCfg v)) u fun _ u' => u' = aregPut .cfg (v.setWidth 64) u := by
  rintro _ ⟨wb, sc, fc, rf, hw, rfl⟩
  have hcfg : ((v.setWidth 64).setWidth 32 : Word) = v := by simp
  have h11 : ((v &&& cfgMask) ||| 0x000000F0#32).getLsbD 11 = v.getLsbD 11 := by simp [cfgMask]
  have h9 : ((v &&& cfgMask) ||| 0x000000F0#32).getLsbD 9 = v.getLsbD 9 := by simp [cfgMask]
  refine ⟨(), _, _, rfl, ⟨wb, (loadCfg v (u.book wb sc fc rf)).fetchUnit, fc, rf, hw, ?_⟩, rfl⟩
  unfold aregPut loadCfg
  simp only [hcfg, h11, h9]
  cases v.getLsbD 11 <;> rfl

/-- A load of CFG that is refused (R46, U3; log 6). -/
def cfgRefused (r : AReg) (v : Quad) : Prop := r = .cfg ∧ (v.setWidth 32 : Word) &&& 0xFFFFE004#32 ≠ 0#32

/-- A dedicated register loaded (R482). -/
theorem loadAReg_plain {r : AReg} {v : Quad} (u : State) (h : ¬cfgRefused r v) :
    Reaches (loadAReg r v) u fun _ u' => u' = aregPut r v u := by
  have hset {f : State → State} (u' : State) (hf : ∀ wb sc fc rf, f (u.book wb sc fc rf) = u'.book wb sc fc rf) :
      Reaches (do upd f; serialize) u fun _ w => w = u' := by
    refine Reaches.bind (Reaches.upd hf (Q := fun _ w => w = u') rfl) ?_
    rintro _ _ rfl
    exact serialize_plain _
  cases r with
  | upsr | psr | intbase | dcr | dsr | car | bpc => exact hset _ fun _ _ _ _ => rfl
  | fp | sb | usp | mod => exact Reaches.upd (fun _ _ _ _ => rfl) rfl
  | sp => exact setSp_upd (fun _ => v.setWidth 32) (fun _ _ _ _ => rfl) rfl
  | cfg =>
    have hw : ((v.setWidth 32 : Word) &&& cfgReserved != 0#32) = false := by
      simpa [cfgRefused, cfgReserved] using h
    refine Reaches.bind (stopIf_plain _ u hw) ?_
    rintro _ _ rfl
    refine Reaches.bind (drain_plain _) ?_
    rintro _ _ rfl
    refine Reaches.bind (loadCfg_plain _ _) ?_
    rintro _ w rfl
    refine (serialize_plain _).mono ?_
    rintro _ _ rfl
    simp [aregPut]
  | res5 | res6 | res7 => exact Reaches.pure rfl

end Sys2Proof.Machine
end

section
/-! PROOF. LPRi: the source is read and the register put; what CFG then holds, and the caches (R42 to R46, R482). -/

namespace Sys2Proof.Machine

theorem cfg_put_loaded (w : Word) : ∀ b ∈ ([0, 1, 3, 8, 9, 10, 11, 12] : List Nat),
    ((w &&& 0x1F0B#32) ||| 0xF0#32).getLsbD b = w.getLsbD b := by
  simp

theorem cfg_put_fixed (w : Word) : ∀ b ∈ ([4, 5, 6, 7] : List Nat),
    ((w &&& 0x1F0B#32) ||| 0xF0#32).getLsbD b = true := by
  simp

theorem cfg_put_clear (w : Word) : ∀ b ∈ (2 :: List.range' 13 19),
    ((w &&& 0x1F0B#32) ||| 0xF0#32).getLsbD b = false := by
  intro b hb
  have hclear : (0x1F0B#32).getLsbD b = false ∧ (0xF0#32).getLsbD b = false := by
    revert b
    decide
  simp [hclear]

section Lpr

variable {i : Size} {r : AReg} {g : Gen} {s : State} (hs : s.plain = true) (hg : legal .read g = true)
  (hi : aregOk i r = true) (hp : aregPrivileged r = false ∨ s.flagU = false)

theorem aregSize_ne_u (r : AReg) : aregSize r ≠ .u := by cases r <;> decide

include hg hi hp in
theorem lpr_check :
    Shape.check { basic := 2, size := i, ops := [rd g i.bytes], privileged := aregPrivileged r,
                  reserved := procRegRefusal i r } s = none := by
  simp only [aregOk, Bool.and_eq_true, Bool.not_eq_true', beq_iff_eq] at hi
  obtain ⟨hres, rfl⟩ := hi
  exact check_none rfl (aregSize_ne_u r) (by simpa [rd] using hg) hp rfl (by simp [procRegRefusal, hres, refuseIf])

include hs hg hi hp

/-- The source is read and the register loaded; of the debug bits that a debug condition sets only what debugging allows
differs (R482, U25). -/
theorem lpr_completes (hr : ¬cfgRefused r (src s i.bytes g)) :
    ∃ x b, x &&& 0x2FFFFFFF#32 = (aregPut r (src s i.bytes g) (afterSrc s i.bytes g)).dsr &&& 0x2FFFFFFF#32
      ∧ (r ≠ .dcr → s.dcr.getLsbD 23 = false → x = (aregPut r (src s i.bytes g) (afterSrc s i.bytes g)).dsr
          ∧ b = (aregPut r (src s i.bytes g) (afterSrc s i.bytes g)).dbgPending)
      ∧ Completes (.lpr i r g) s
          { aregPut r (src s i.bytes g) (afterSrc s i.bytes g) with dsr := x, dbgPending := b } := by
  have hbody : Reaches (do
      let v ← readOp g i.bytes
      loadAReg r v
      return ({ debugLoaded := aregControlsDebug r } : Done)) s fun d u =>
        d = ({ debugLoaded := aregControlsDebug r } : Done) ∧ u = aregPut r (src s i.bytes g) (afterSrc s i.bytes g) := by
    refine Reaches.bind (readOp_plain (plain_ram hs) hg i.bytes) ?_
    rintro _ _ ⟨rfl, rfl⟩
    refine Reaches.bind (loadAReg_plain _ hr) ?_
    rintro _ _ rfl
    exact Reaches.pure ⟨rfl, rfl⟩
  obtain ⟨d, u, t, hok, hsim, rfl, rfl⟩ := hbody s (Sim.refl (plain_pendingError hs))
  obtain ⟨x, b, hx, hd, hgoes⟩ := complete_sim (s := s) (len := 2 + g.length i.bytes)
    (d := { debugLoaded := aregControlsDebug r }) hsim rfl rfl rfl
  refine ⟨x, b, hx, fun hne hden => hd ?_, ?_⟩
  · obtain ⟨wb, sc, fc, rf, -, rfl⟩ := hsim
    unfold controls
    split
    · split
      · exact (aregPut_dcr hne _ _ ▸ (afterSrc_frame s i.bytes g).1 ▸ hden :)
      · exact hden
    · exact hden
  · have hrun : exec (.lpr i r g) s = complete (2 + g.length i.bytes) s { debugLoaded := aregControlsDebug r } t :=
      run_complete (lpr_check hg hi hp) hok hsim.pendingError
    have hlen : (encode (.lpr i r g)).length = 2 + g.length i.bytes := encQ_length _ _ _ _
    unfold Completes nextPc
    rw [hlen, hrun]
    exact hgoes

/-- A 1 in a reserved bit of CFG is refused once the source has been read. -/
theorem lpr_refused (hr : cfgRefused r (src s i.bytes g)) : exec (.lpr i r g) s = .refused .reservedCfgBit := by
  obtain ⟨rfl, hw⟩ := hr
  obtain ⟨v, u, t, hread, -, rfl, -⟩ := readOp_plain (plain_ram hs) hg i.bytes s (Sim.refl (plain_pendingError hs))
  have hbit : (((src s i.bytes g).setWidth 32 : Word) &&& cfgReserved != 0#32) = true := by
    simpa [cfgReserved] using hw
  refine run_refused (t := t) (lpr_check hg hi hp) ?_
  simp only [bind, EStateM.bind, hread, loadAReg, stopIf, hbit, if_true]

theorem lpr_loads (hd : r ≠ .dcr) (hr : ¬cfgRefused r (src s i.bytes g)) :
    Completes (.lpr i r g) s (aregPut r (src s i.bytes g) (afterSrc s i.bytes g)) := by
  obtain ⟨x, b, hx, hfree, hgoes⟩ := lpr_completes hs hg hi hp hr
  exact hgoes.mono fun t ht => ht.of_debug hx (hfree hd)

end Lpr

section Cfg

variable {i : Size} {g : Gen} {s : State} (hs : s.plain = true) (hg : legal .read g = true) (hi : aregOk i .cfg = true)
  (hp : aregPrivileged .cfg = false ∨ s.flagU = false) (hr : ¬cfgRefused .cfg (src s i.bytes g))
include hs hg hi hp hr

theorem lpr_cfg_caches : Goes (exec (.lpr i .cfg g) s) fun t =>
    t.cfg = (((src s i.bytes g).setWidth 32 : Word) &&& 0x1F0B#32) ||| 0xF0#32
      ∧ t.icache = (if ((src s i.bytes g).setWidth 32 : Word).getLsbD 11 then s.icache else icInvalidate s.icache)
      ∧ t.dcache = if ((src s i.bytes g).setWidth 32 : Word).getLsbD 9 then s.dcache else dcInvalidate s.dcache := by
  obtain ⟨-, -, hic, hdc⟩ := afterSrc_frame s i.bytes g
  refine (lpr_loads hs hg hi hp nofun hr).mono fun t ht => ⟨ht.cfg, ?_, ?_⟩
  · rw [ht.icache, ← hic]; rfl
  · rw [ht.dcache, ← hdc]; rfl

end Cfg

/-- Settles O46: the source is read and the register put, up to the debug bits of DSR; of CFG the bits and the caches
follow from what is put. -/
theorem loadDedicatedRegister : Obligations.LoadDedicatedRegister := by
  intro i r g s hs hg hi hp u reserved
  refine ⟨lpr_refused hs hg hi hp, lpr_loads hs hg hi hp, ?_, ?_⟩
  · rintro rfl
    obtain ⟨x, b, hx, -, hgoes⟩ := lpr_completes hs hg hi hp (r := .dcr) nofun
    exact ⟨x, b, hx.trans (congrArg (· &&& 0x2FFFFFFF#32) (afterSrc_frame s i.bytes g).2.1), hgoes⟩
  · rintro rfl hr
    refine (lpr_cfg_caches hs hg hi hp hr).mono fun t ⟨hcfg, hic, hdc⟩ => ?_
    refine ⟨hcfg ▸ cfg_put_loaded _, hcfg ▸ cfg_put_fixed _, hcfg ▸ cfg_put_clear _, fun h => ?_,
      fun h => hic.trans (if_pos h), fun h => ?_, fun h => hdc.trans (if_pos h)⟩
    · have hlost : t.icache = icInvalidate s.icache := hic.trans (if_neg (ne_true_of_eq_false h))
      exact icByte_of_invalid (s := { t with cfg := 0xFFFFFFFF#32 }) fun k => hlost ▸ icInvalidate_valid _ k
    · have hlost : t.dcache = dcInvalidate s.dcache := hdc.trans (if_neg (ne_true_of_eq_false h))
      exact dcByte_of_invalid fun k => hlost ▸ dcInvalidate_valid _ k

end Sys2Proof.Machine
end

section
/-! PROOF. The reset values, and bits 7:4 of CFG (R42, R70). -/

namespace Sys2Proof.Machine

theorem and_congr_of_and {m w w' : Word} (n : Word) (h : w &&& m = w' &&& m) (hn : m &&& n = n) :
    w &&& n = w' &&& n := by
  calc w &&& n = (w &&& m) &&& n := by rw [BitVec.and_assoc, hn]
    _ = w' &&& n := by rw [h, BitVec.and_assoc, hn]

theorem cfg_put_ones (w : Word) : ((w &&& 0x1F0B#32) ||| 0xF0#32) &&& 0xF0#32 = 0xF0#32 := by
  simp only [BitVec.and_or_distrib_right, BitVec.and_assoc]
  simp

/-- Loading CFG ignores bits 7:4 of the source (R42). -/
theorem loadAReg_cfg_congr {v v' : Quad}
    (h : (v.setWidth 32 : Word) &&& 0xFFFFFF0F#32 = (v'.setWidth 32 : Word) &&& 0xFFFFFF0F#32) :
    loadAReg .cfg v = loadAReg .cfg v' := by
  have hreserved := and_congr_of_and cfgReserved h (by decide)
  have hmask := and_congr_of_and cfgMask h (by decide)
  have hload : loadCfg (v.setWidth 32) = loadCfg (v'.setWidth 32) := by
    funext s
    simp only [loadCfg, hmask]
  simp only [loadAReg, hreserved, hload]

theorem setWidth_lowBytes_four (w : Word) : ((lowBytes 4 (w.setWidth 64)).setWidth 32 : Word) = w := by
  have hones : ((0xFFFFFFFF#64).setWidth 32 : Word) = BitVec.allOnes 32 := by decide
  change ((w.setWidth 64 &&& 0xFFFFFFFF#64).setWidth 32 : Word) = w
  rw [BitVec.setWidth_and, hones, BitVec.and_allOnes]
  simp

theorem inv_cfg_ones {s : State} (h : s.inv = true) : s.cfg &&& 0xF0#32 = 0xF0#32 := by
  simp only [State.inv, Bool.and_eq_true, beq_iff_eq] at h
  obtain ⟨⟨⟨⟨⟨-, -⟩, hcfg⟩, -⟩, -⟩, -⟩ := h
  have hmask : ~~~cfgMask &&& 0xF0#32 = 0xF0#32 := by decide
  rw [← hmask, ← BitVec.and_assoc, hcfg]
  decide

section Cfg

variable {s : State} (hs : s.plain = true) (hsup : s.flagU = false)

include hsup in
theorem lpr_cfg_ignores {k j : RegNum} (h : s.reg k &&& 0xFFFFFF0F#32 = s.reg j &&& 0xFFFFFF0F#32) :
    exec (.lpr .d .cfg (.mode (.reg k))) s = exec (.lpr .d .cfg (.mode (.reg j))) s := by
  have hload := loadAReg_cfg_congr (v := lowBytes 4 ((s.reg k).setWidth 64)) (v' := lowBytes 4 ((s.reg j).setWidth 64))
    (by simpa only [setWidth_lowBytes_four] using h)
  refine run_congr ((lpr_check rfl rfl (.inr hsup)).trans (lpr_check rfl rfl (.inr hsup)).symm) rfl ?_
  exact congrArg (fun load => (load >>= fun _ => pure ({ debugLoaded := false } : Done)) s) hload

include hs hsup

theorem lpr_cfg_ones {g : Gen} (hg : legal .read g = true) (hr : ¬cfgRefused .cfg (src s 4 g)) :
    Goes (exec (.lpr .d .cfg g) s) fun t => t.cfg &&& 0xF0#32 = 0xF0#32 := by
  refine (lpr_loads (i := .d) (r := .cfg) hs hg rfl (.inr hsup) nofun hr).mono fun t ht => ?_
  rw [ht.cfg]
  exact cfg_put_ones _

theorem setcfg_completes {short : BitVec 4} (h : short.getLsbD 2 = false) :
    Completes (.setcfg .d short 0#6) s (aregPut .cfg ((short.setWidth 32 : Word).setWidth 64) s) := by
  refine completes_of_reaches (by rfl) rfl hs
    (check_none rfl (by exact nofun) (by simp) (.inr hsup) rfl (by simp only [h]; rfl)) ?_
  refine Reaches.bind (loadCfg_plain _ s) ?_
  rintro _ _ rfl
  exact Reaches.pure ⟨rfl, rfl⟩

theorem setcfg_ones {short : BitVec 4} (h : short.getLsbD 2 = false) :
    Goes (exec (.setcfg .d short 0#6) s) fun t => t.cfg &&& 0xF0#32 = 0xF0#32 := by
  refine (setcfg_completes hs hsup h).mono fun t ht => ?_
  rw [ht.cfg]
  exact cfg_put_ones _

/-- SPRD stores CFG as it was before the destination is written (R483). -/
theorem spr_cfg_completes {g : Gen} (hg : legal .write g = true) :
    Completes (.spr .d .cfg g) s (written s 4 (s.cfg.setWidth 64) (genLoc s g)) := by
  refine completes_of_reaches (by rfl) (by exact encQ_length _ _ _ _) hs
    (check_none rfl (by exact nofun) (by simpa [wr] using hg) (.inr hsup) rfl rfl) ?_
  refine Reaches.bind (P := fun v u => v = s.cfg ∧ u = s) (Reaches.getS fun _ _ _ _ => Reaches.pure ⟨rfl, rfl⟩) ?_
  rintro _ _ ⟨rfl, rfl⟩
  refine Reaches.bind (locGen_plain (plain_ram hs) hg) ?_
  rintro _ _ ⟨rfl, rfl⟩
  refine Reaches.bind (writeLoc_plain (plain_ram hs) 4 _ (genLoc_not_imm (by decide) hg)) ?_
  rintro _ _ rfl
  exact Reaches.pure ⟨rfl, rfl⟩

end Cfg

/-- Settles O8. -/
theorem resetHasInvariant : Obligations.ResetHasInvariant := by
  unfold Obligations.ResetHasInvariant
  decide

theorem reset_plain : State.reset.plain = true := by decide

/-- Settles O9: the values are those of the definition of reset; of CFG bits 7:4 are put in by every load and are part of
the invariant. -/
theorem resetValues : Obligations.ResetValues := by
  intro s k j m short
  refine ⟨rfl, rfl, rfl, rfl, rfl, rfl, rfl, rfl, fun a => ⟨?_, ?_⟩, fun hs hsup => ⟨fun h => ?_, ?_, ?_, ?_⟩, ?_⟩
  · exact icByte_of_invalid (fun k => by simp [State.reset, emptyLine]) a
  · exact dcByte_of_invalid (fun k => by simp [State.reset, emptySet, emptyLine]) a
  · refine lpr_cfg_ones hs hsup rfl fun ⟨_, hreserved⟩ => hreserved ?_
    exact (congrArg (· &&& 0xFFFFE004#32) (setWidth_lowBytes_four (s.reg k))).trans h
  · exact setcfg_ones hs hsup
  · exact lpr_cfg_ignores hsup
  · exact fun hinv hm => ⟨inv_cfg_ones hinv, spr_cfg_completes hs hsup hm⟩
  · exact spr_cfg_completes reset_plain rfl

end Sys2Proof.Machine
end

section
/-! SUPPORT. The references of an action, followed with the pure state, and the debug conditions that completion commits
for them (R49, R682, R683). -/

namespace Sys2Proof.Machine

/-! ### The references of an action -/

/-- `Reaches`, with the references that the action adds. -/
def Refers {α : Type} (m : M α) (u : State) (rs : List Ref) (P : α → State → Prop) : Prop :=
  ∀ t, Sim u t → ∃ a u' t', m t = .ok a t' ∧ Sim u' t' ∧ t'.refs = t.refs ++ rs ∧ P a u'

/-- The reference of a plain data access (R91). -/
def dataRef (a : Word) (n : Nat) (write user : Bool) (v : Quad) : Ref := .mem stData a n write user false v

theorem Refers.pure {α : Type} {a : α} {u : State} {P : α → State → Prop} (h : P a u) :
    Refers (Pure.pure a : M α) u [] P := fun t ht => ⟨a, u, t, rfl, ht, (List.append_nil _).symm, h⟩

theorem Refers.bind {α β : Type} {m : M α} {k : α → M β} {u : State} {rs rs' : List Ref} {P : α → State → Prop}
    {Q : β → State → Prop} (h : Refers m u rs P) (hk : ∀ a u', P a u' → Refers (k a) u' rs' Q) :
    Refers (m >>= k) u (rs ++ rs') Q := by
  intro t ht
  obtain ⟨a, u', t', hm, ht', hrs, hP⟩ := h t ht
  obtain ⟨b, u'', t'', hka, ht'', hrs', hQ⟩ := hk a u' hP t' ht'
  refine ⟨b, u'', t'', ?_, ht'', ?_, hQ⟩
  · simp only [Bind.bind, EStateM.bind, hm, hka]
  · rw [hrs', hrs, List.append_assoc]

/-- Nothing is referenced after the first action. -/
theorem Refers.bind_nil {α β : Type} {m : M α} {k : α → M β} {u : State} {rs : List Ref} {P : α → State → Prop}
    {Q : β → State → Prop} (h : Refers m u rs P) (hk : ∀ a u', P a u' → Refers (k a) u' [] Q) :
    Refers (m >>= k) u rs Q := List.append_nil rs ▸ Refers.bind h hk

theorem Refers.mono {α : Type} {m : M α} {u : State} {rs : List Ref} {P Q : α → State → Prop} (h : Refers m u rs P)
    (hq : ∀ a u', P a u' → Q a u') : Refers m u rs Q := by
  intro t ht
  obtain ⟨a, u', t', hm, ht', hrs, hP⟩ := h t ht
  exact ⟨a, u', t', hm, ht', hrs, hq a u' hP⟩

theorem Refers.upd {f : State → State} {u u' : State} {Q : Unit → State → Prop}
    (hf : ∀ wb sc fc rf, f (u.book wb sc fc rf) = u'.book wb sc fc rf) (h : Q () u') :
    Refers (Machine.upd f) u [] Q := by
  rintro _ ⟨wb, sc, fc, rf, hw, rfl⟩
  exact ⟨(), u', u'.book wb sc fc rf, by simp only [Machine.upd, hf], ⟨wb, sc, fc, rf, hw, rfl⟩,
    (List.append_nil _).symm, h⟩

/-- One read reference. -/
theorem readRef_refers {u : State} (h : u.ram = true) (user cached : Bool) (a : Word) (n : Nat) :
    Refers (readRef ⟨stData, user, false, cached⟩ a n) u [dataRef a n false user (u.load a n)]
      fun v u' => v = u.load a n ∧ u' = u := by
  intro t ht
  obtain ⟨v, u', t', hr, ht', rfl, rfl⟩ := readRef_plain h ⟨stData, user, false, cached⟩ a n t ht
  obtain ⟨_, _, _, rfl⟩ := readRef_ok hr
  exact ⟨_, _, _, hr, ht', rfl, rfl, rfl⟩

theorem writeRef_refs {k : RefKind} {a : Word} {n : Nat} {v : Quad} {s t : State} (h : s.ram = true)
    (hw : writeRef k a n v s = .ok () t) : t.refs = s.refs ++ [.mem k.status a n true k.user k.interlocked v] := by
  simp only [writeRef, afterViews_of_fixed (look := plainCycle) fun _ => useReply_ram h] at hw
  split at hw <;> cases hw
  rfl

/-- One write reference. -/
theorem writeRef_refers {u : State} (h : u.ram = true) (user cached : Bool) (a : Word) (n : Nat) (v : Quad) :
    Refers (writeRef ⟨stData, user, false, cached⟩ a n v) u [dataRef a n true user v] fun _ u' => u' = u.put a n v := by
  intro t ht
  obtain ⟨_, u', t', hw, ht', rfl⟩ := writeRef_plain h ⟨stData, user, false, cached⟩ a n v t ht
  have hram : t.ram = true := by
    obtain ⟨wb, sc, fc, rf, -, rfl⟩ := ht
    exact h
  exact ⟨_, _, _, hw, ht', writeRef_refs hram hw, rfl⟩

theorem memRead_refers {u : State} (h : u.ram = true) (a : Word) (n : Nat) :
    Refers (memRead a n) u [dataRef a n false u.flagU (u.load a n)] fun v u' => v = u.load a n ∧ u' = u := by
  rintro _ ⟨wb, sc, fc, rf, hw, rfl⟩
  exact readRef_refers h u.flagU true a n _ ⟨wb, sc, fc, rf, hw, rfl⟩

theorem memWrite_refers {u : State} (h : u.ram = true) (a : Word) (n : Nat) (v : Quad) :
    Refers (memWrite a n v) u [dataRef a n true u.flagU v] fun _ u' => u' = u.put a n v := by
  rintro _ ⟨wb, sc, fc, rf, hw, rfl⟩
  exact writeRef_refers h u.flagU false a n v _ ⟨wb, sc, fc, rf, hw, rfl⟩

theorem readReg_refers (u : State) (n : Nat) (k : RegNum) :
    Refers (readLoc n (.reg k)) u [] fun v u' => v = lowBytes n ((u.reg k).setWidth 64) ∧ u' = u := by
  rintro _ ⟨wb, sc, fc, rf, hw, rfl⟩
  exact ⟨_, _, _, rfl, ⟨wb, sc, fc, rf, hw, rfl⟩, (List.append_nil _).symm, rfl, rfl⟩

/-! ### The debug conditions committed -/

theorem getLsbD_setBit32 (w : Word) {k : Nat} (hk : k < 32) (b : Bool) (j : Nat) :
    (setBit32 w k b).getLsbD j = if j = k then b else w.getLsbD j := by
  unfold setBit32
  cases b <;> simp [BitVec.getLsbD_shiftLeft] <;> grind

/-- An address compare that is met (R49, R682). -/
theorem commitDebug_met {d : DebugRegs} {rd wr : Bool} (h : (rd || wr) = true) (p : Bool) (s : State) :
    (commitDebug d rd wr p s).dsr.getLsbD 28 = true ∧ (commitDebug d rd wr p s).dsr.getLsbD 31 = (rd && !wr)
      ∧ (commitDebug d rd wr p s).dbgPending = (s.dbgPending || d.trap) := by
  simp only [commitDebug, h, Bool.true_or, Bool.and_true, if_true]
  cases p <;> simp only [getLsbD_setBit32, Nat.reduceLT, Nat.reduceEqDiff, Bool.false_eq_true, if_true,
    if_false, and_self]

theorem commitDebug_unmet (d : DebugRegs) (s : State) : commitDebug d false false false s = s := by
  simp [commitDebug]

/-- What completion commits of an instruction with the references `rs`. -/
theorem run_commits {sh : Shape} {body : M Done} {s : State} {rs : List Ref} (hs : s.plain = true)
    (hc : sh.check s = none)
    (hb : Refers body s rs fun d u => d = {} ∧ u.dsr = s.dsr ∧ u.dbgPending = s.dbgPending) :
    Goes (run sh body s) fun t =>
      t.dsr = (commitRefs s.debugRegs rs (s.debugRegs.pcMatch s.flagU s.pc) s).dsr
        ∧ t.dbgPending = (commitRefs s.debugRegs rs (s.debugRegs.pcMatch s.flagU s.pc) s).dbgPending := by
  obtain ⟨_, u, t, hok, hsim, hrs, rfl, hdsr, hpending⟩ := hb s (Sim.refl (plain_pendingError hs))
  rw [run_complete hc hok hsim.pendingError, complete_next rfl rfl rfl, hrs, List.drop_left]
  obtain ⟨wb, sc, fc, rf, -, rfl⟩ := hsim
  refine ⟨_, rfl, ?_, ?_⟩
  · simp only [commitRefs, commitDebug, completed, State.book, hdsr]
    rfl
  · simp only [commitRefs, commitDebug, completed, State.book, hpending]
    rfl

end Sys2Proof.Machine
end

section
/-! PROOF. Address compares and PC match on MOVi, MOVSUi, MOVUSi and NOP (R49, R681 to R683). -/

namespace Sys2Proof.Machine

/-! ### The conditions -/

/-- Debugging is enabled for the mode of a reference (R681). -/
def DebugRegs.on (d : DebugRegs) (user : Bool) : Bool := d.dcr.getLsbD 23 && d.modeOk user

/-- An enabled address compare of a reference selects one of its bytes, whatever the direction (R681, R682). -/
def DebugRegs.selects (d : DebugRegs) (user : Bool) (a : Word) (n : Nat) : Bool :=
  d.on user && d.dcr.getLsbD 7 && anyFrom d.byteMatch a n

theorem hit_read (d : DebugRegs) (a : Word) (n : Nat) (user : Bool) (v : Quad) :
    d.hit false (dataRef a n false user v) = (d.selects user a n && d.dcr.getLsbD 6) := by
  simp only [DebugRegs.hit, dataRef, DebugRegs.selects, DebugRegs.on, DebugRegs.acEnabled]
  grind

theorem hit_write (d : DebugRegs) (a : Word) (n : Nat) (user : Bool) (v : Quad) :
    d.hit true (dataRef a n true user v) = (d.selects user a n && d.dcr.getLsbD 5) := by
  simp only [DebugRegs.hit, dataRef, DebugRegs.selects, DebugRegs.on, DebugRegs.acEnabled]
  grind

theorem hit_read_of_write (d : DebugRegs) (a : Word) (n : Nat) (user : Bool) (v : Quad) :
    d.hit false (dataRef a n true user v) = false := rfl

theorem hit_write_of_read (d : DebugRegs) (a : Word) (n : Nat) (user : Bool) (v : Quad) :
    d.hit true (dataRef a n false user v) = false := rfl

theorem pcMatch_iff (d : DebugRegs) (user : Bool) (pc : Word) :
    d.pcMatch user pc = true ↔ d.on user = true ∧ d.dcr.getLsbD 20 = true ∧ pc = d.bpc := by
  simp only [DebugRegs.pcMatch, DebugRegs.pcEnabled, DebugRegs.on, Bool.and_eq_true, beq_iff_eq]
  tauto

/-- `u` has the debug conditions of `s`. -/
def SameDebug (s u : State) : Prop := u.dsr = s.dsr ∧ u.dbgPending = s.dbgPending

/-- What an instruction shows of address compares: `rd` and `wr` say whether one of a read and of a write is met. -/
def ShowsCompare (u : Instr) (s : State) (rd wr : Bool) : Prop :=
  ((rd || wr) = true → Goes (exec u s) fun t =>
    t.dsr.getLsbD 28 = true ∧ t.dsr.getLsbD 31 = (rd && !wr) ∧ t.dbgPending = (s.dbgPending || s.dcr.getLsbD 19))
  ∧ ((rd || wr) = false →
      ¬(s.debugRegs.on s.flagU = true ∧ s.dcr.getLsbD 20 = true ∧ s.pc = s.bpc) →
      Goes (exec u s) (SameDebug s))

theorem shows_of_refers {I : Instr} {sh : Shape} {body : M Done} {s : State} {rs : List Ref} {rd wr : Bool}
    (hexec : exec I s = run sh body s) (hs : s.plain = true) (hc : sh.check s = none)
    (hb : Refers body s rs fun d u => d = {} ∧ SameDebug s u)
    (hrd : rs.any (s.debugRegs.hit false) = rd) (hwr : rs.any (s.debugRegs.hit true) = wr) :
    ShowsCompare I s rd wr := by
  have hgoes := run_commits hs hc hb
  rw [← hexec, commitRefs, hrd, hwr] at hgoes
  refine ⟨fun h => hgoes.mono fun t ⟨hdsr, hpending⟩ => ?_, fun h hpc => hgoes.mono fun t ⟨hdsr, hpending⟩ => ?_⟩
  · rw [hdsr, hpending]
    exact commitDebug_met h _ s
  · obtain ⟨rfl, rfl⟩ := Bool.or_eq_false_iff.mp h
    have hp : s.debugRegs.pcMatch s.flagU s.pc = false :=
      Bool.eq_false_iff.mpr fun h => hpc ((pcMatch_iff _ _ _).mp h)
    rw [hp, commitDebug_unmet] at hdsr hpending
    exact ⟨hdsr, hpending⟩

/-! ### The instructions -/

theorem abs_legal {d : Disp} (h : d.wf = true) (a : Access) : legal a (.mode (.abs d)) = true := by
  simp [legal, Operand.illegal, genReservedDisp, modeReservedDisp, h]

/-- A move between address spaces makes a read and a write (R496, R497). -/
theorem read_write_hits (d : DebugRegs) (a1 a2 : Word) (n : Nat) (u1 u2 : Bool) (v1 v2 : Quad) (write : Bool) :
    [dataRef a1 n false u1 v1, dataRef a2 n true u2 v2].any (d.hit write)
      = if write then d.selects u2 a2 n && d.dcr.getLsbD 5 else d.selects u1 a1 n && d.dcr.getLsbD 6 := by
  cases write <;>
    simp only [List.any_cons, List.any_nil, hit_read, hit_write, hit_read_of_write, hit_write_of_read, Bool.or_false,
      Bool.false_or, Bool.false_eq_true, if_false, if_true]

theorem spaces_check {i : Size} {s : State} {d e : Disp} (hi : i ≠ .u) (hd : d.wf = true) (he : e.wf = true)
    (hsup : s.flagU = false) :
    Shape.check { basic := 3, size := i, ops := [ad (.mode (.abs d)), ad (.mode (.abs e))], privileged := true } s
      = none :=
  check_none rfl hi (by simpa [ad] using ⟨abs_legal hd .addr, abs_legal he .addr⟩) (.inr hsup) rfl rfl

section Moves

variable {i : Size} {s : State} (hi : i ≠ .u) (hs : s.plain = true)
include hi hs

/-- MOVi makes the references of its source, then those of its destination (R264, R300). -/
theorem mov_shows {g1 g2 : Gen} {l : Loc} {v : Quad} {rs rs' : List Ref} {rd wr : Bool} (h1 : legal .read g1 = true)
    (h2 : legal .write g2 = true) (hread : Refers (readOp g1 i.bytes) s rs fun x u => x = v ∧ u = s)
    (hloc : locGen g2 = pure l)
    (hwrite : Refers (writeLoc i.bytes ((v.setWidth i.bits).setWidth 64) l) s rs' fun _ u => SameDebug s u)
    (hrd : (rs ++ rs').any (s.debugRegs.hit false) = rd) (hwr : (rs ++ rs').any (s.debugRegs.hit true) = wr) :
    ShowsCompare (.mov i g1 g2) s rd wr := by
  have hcheck : Shape.check { basic := 2, size := i, ops := [Machine.rd g1 i.bytes, Machine.wr g2 i.bytes] } s = none :=
    check_none rfl hi (by simpa [Machine.rd, Machine.wr] using ⟨h1, h2⟩) (.inl rfl) rfl rfl
  refine shows_of_refers rfl hs hcheck (Refers.bind hread ?_) hrd hwr
  rintro _ _ ⟨rfl, rfl⟩
  rw [hloc]
  change Refers (do
    writeLoc i.bytes _ l
    updPsr id
    return ({} : Done)) _ rs' _
  refine Refers.bind_nil hwrite ?_
  intro _ u hu
  refine Refers.bind_nil (P := fun _ w => w = u) (Refers.upd (fun _ _ _ _ => rfl) rfl) ?_
  rintro _ _ rfl
  exact Refers.pure ⟨rfl, hu⟩

/-- MOVi of a memory operand makes one read. -/
theorem mov_load_shows {d : Disp} (hd : d.wf = true) (k : RegNum) :
    ShowsCompare (.mov i (.mode (.abs d)) (.mode (.reg k))) s
      (s.debugRegs.selects s.flagU d.value i.bytes && s.dcr.getLsbD 6) false := by
  have hload : [dataRef d.value i.bytes false s.flagU (s.load d.value i.bytes)].any (s.debugRegs.hit false)
      = (s.debugRegs.selects s.flagU d.value i.bytes && s.dcr.getLsbD 6) := by
    rw [List.any_cons, hit_read, List.any_nil, Bool.or_false]
    rfl
  exact mov_shows hi hs (abs_legal hd .read) rfl (memRead_refers (plain_ram hs) d.value i.bytes) rfl
    (Refers.upd (u' := s.regPut i.bytes k _) (fun _ _ _ _ => rfl) ⟨rfl, rfl⟩) hload rfl

/-- MOVi to a memory operand makes one write. -/
theorem mov_store_shows {d : Disp} (hd : d.wf = true) (k : RegNum) :
    ShowsCompare (.mov i (.mode (.reg k)) (.mode (.abs d))) s
      false (s.debugRegs.selects s.flagU d.value i.bytes && s.dcr.getLsbD 5) := by
  refine mov_shows hi hs rfl (abs_legal hd .write) (readReg_refers s i.bytes k) rfl
    ((memWrite_refers (plain_ram hs) d.value i.bytes _).mono ?_) rfl ?_
  · rintro _ _ rfl
    exact ⟨rfl, rfl⟩
  · rw [List.nil_append, List.any_cons, hit_write, List.any_nil, Bool.or_false]
    rfl

section Spaces

variable {d e : Disp} (hd : d.wf = true) (he : e.wf = true) (hsup : s.flagU = false)
include hd he hsup

theorem movsu_shows :
    ShowsCompare (.movsu i (.mode (.abs d)) (.mode (.abs e))) s
      (s.debugRegs.selects false d.value i.bytes && s.dcr.getLsbD 6)
      (s.debugRegs.selects true e.value i.bytes && s.dcr.getLsbD 5) := by
  have hbody : Refers (do
      let v ← memRead d.value i.bytes
      writeRef ⟨stData, true, false, false⟩ e.value i.bytes v
      return ({} : Done)) s
      [dataRef d.value i.bytes false s.flagU (s.load d.value i.bytes),
        dataRef e.value i.bytes true true (s.load d.value i.bytes)] fun d u => d = {} ∧ SameDebug s u := by
    refine Refers.bind (memRead_refers (plain_ram hs) d.value i.bytes) ?_
    rintro _ _ ⟨rfl, rfl⟩
    refine Refers.bind_nil (writeRef_refers (plain_ram hs) true false e.value i.bytes _) ?_
    rintro _ _ rfl
    exact Refers.pure ⟨rfl, rfl, rfl⟩
  rw [hsup] at hbody
  exact shows_of_refers rfl hs (spaces_check hi hd he hsup) hbody (read_write_hits ..) (read_write_hits ..)

theorem movus_shows :
    ShowsCompare (.movus i (.mode (.abs d)) (.mode (.abs e))) s
      (s.debugRegs.selects true d.value i.bytes && s.dcr.getLsbD 6)
      (s.debugRegs.selects false e.value i.bytes && s.dcr.getLsbD 5) := by
  have hbody : Refers (do
      let v ← readRef ⟨stData, true, false, true⟩ d.value i.bytes
      memWrite e.value i.bytes v
      return ({} : Done)) s
      [dataRef d.value i.bytes false true (s.load d.value i.bytes),
        dataRef e.value i.bytes true s.flagU (s.load d.value i.bytes)] fun d u => d = {} ∧ SameDebug s u := by
    refine Refers.bind (readRef_refers (plain_ram hs) true true d.value i.bytes) ?_
    rintro _ _ ⟨rfl, rfl⟩
    refine Refers.bind_nil (memWrite_refers (plain_ram hs) e.value i.bytes _) ?_
    rintro _ _ rfl
    exact Refers.pure ⟨rfl, rfl, rfl⟩
  rw [hsup] at hbody
  exact shows_of_refers rfl hs (spaces_check hi hd he hsup) hbody (read_write_hits ..) (read_write_hits ..)

end Spaces

end Moves

theorem nop_commits {s : State} (hs : s.plain = true) :
    Goes (exec .nop s)
      (SameDebug (commitDebug s.debugRegs false false (s.debugRegs.pcMatch s.flagU s.pc) s)) :=
  have hcheck : Shape.check { basic := 1 } s = none := check_none rfl nofun (by simp) (.inl rfl) rfl rfl
  run_commits hs hcheck (Refers.pure (a := ({} : Done)) ⟨rfl, rfl, rfl⟩)

/-- Settles O59: each instruction's references are listed, and completion commits the conditions that they and the PC
meet. -/
theorem addressCompare : Obligations.AddressCompare := by
  intro s i d e k hi hs hd he on selected hit readHit writeHit pcHit pending shows abs
  refine ⟨mov_load_shows hi hs hd k, mov_store_shows hi hs hd k,
    fun hsup => ⟨movsu_shows hi hs hd he hsup, movus_shows hi hs hd he hsup⟩, fun hpc => ?_, fun hpc => ?_⟩
  · have hp : s.debugRegs.pcMatch s.flagU s.pc = true := (pcMatch_iff s.debugRegs s.flagU s.pc).mpr hpc
    have hgoes := nop_commits hs
    rw [hp] at hgoes
    refine hgoes.mono fun t ⟨hdsr, hpending⟩ => ⟨hdsr, hpending.trans ?_⟩
    exact congrArg (s.dbgPending || ·) (Bool.and_true _)
  · have hp : s.debugRegs.pcMatch s.flagU s.pc = false :=
      Bool.eq_false_iff.mpr fun h => hpc ((pcMatch_iff s.debugRegs s.flagU s.pc).mp h)
    refine (nop_commits hs).mono fun t h => ?_
    rwa [hp, commitDebug_unmet] at h

end Sys2Proof.Machine
end

section
/-! SUPPORT. The bytes of values and of references: the byte that a list gives an address, the bytes of a value, the
parts of an address. -/

namespace Sys2Proof.Machine

/-! ### The byte that a list gives an address -/

/-- The byte at the address `x` of bytes that start at `a`. -/
def byteAt (a : Word) (bs : List Byte) (x : Word) : Option Byte := bs[(x - a).toNat]?

theorem byteAt_nil (a x : Word) : byteAt a [] x = none := rfl

theorem byteAt_cons (b : Byte) (rest : List Byte) (a x : Word) :
    byteAt a (b :: rest) x = if x = a then some b else byteAt (a + 1#32) rest x := by
  unfold byteAt
  split
  · next hx => simp [hx]
  · next hx =>
    have hsucc : (x - a).toNat = (x - (a + 1#32)).toNat + 1 := by
      have hne : x.toNat ≠ a.toNat := fun e => hx (BitVec.eq_of_toNat_eq e)
      bv_omega
    rw [hsucc, List.getElem?_cons_succ]

/-- The bytes after the first do not come round to its address. -/
theorem byteAt_succ_self {rest : List Byte} (h : rest.length < 4294967295) (a : Word) :
    byteAt (a + 1#32) rest a = none := by
  have hlast : (a - (a + 1#32)).toNat = 4294967295 := by bv_omega
  unfold byteAt
  rw [hlast]
  exact List.getElem?_eq_none h.le

theorem getElem?_toBytes (n : Nat) (v : Quad) (k : Nat) :
    (toBytes n v)[k]? = if k < n then some ((v >>> (8 * k)).setWidth 8) else none := by
  induction n generalizing v k with
  | zero => simp [toBytes]
  | succ n ih =>
    cases k with
    | zero => simp [toBytes]
    | succ k =>
      rw [toBytes, List.getElem?_cons_succ, ih]
      have hshift : v >>> 8 >>> (8 * k) = v >>> (8 * (k + 1)) := by
        rw [← BitVec.shiftRight_add, Nat.mul_succ, Nat.add_comm]
      simp only [hshift, Nat.succ_lt_succ_iff]

theorem byteAt_toBytes (n : Nat) (v : Quad) (a x : Word) :
    byteAt a (toBytes n v) x
      = if (x - a).toNat < n then some ((v >>> (8 * (x - a).toNat)).setWidth 8) else none :=
  getElem?_toBytes n v _

/-! ### The bytes of a double-word and of a value -/

/-- The byte of a double-word in the lane `i`. -/
def lane (w : Word) (i : Nat) : Byte := (w >>> (8 * i)).setWidth 8

/-- A double-word with the byte of the lane `i` replaced. -/
def setLane (w : Word) (i : Nat) (v : Byte) : Word := (w &&& ~~~(0xFF#32 <<< (8 * i))) ||| (v.setWidth 32 <<< (8 * i))

theorem getLsbD_lane (w : Word) (i k : Nat) : (lane w i).getLsbD k = (decide (k < 8) && w.getLsbD (8 * i + k)) := by
  simp [lane]

theorem getLsbD_setLane (w : Word) (i : Nat) (v : Byte) {j : Nat} (hj : j < 32) :
    (setLane w i v).getLsbD j = if 8 * i ≤ j ∧ j < 8 * i + 8 then v.getLsbD (j - 8 * i) else w.getLsbD j := by
  have hmask (m : Nat) : (0xFF#32).getLsbD m = decide (m < 8) := by
    rw [BitVec.getLsbD_ofNat, Nat.testBit_two_pow_sub_one 8 m]
    grind
  simp only [setLane, BitVec.getLsbD_or, BitVec.getLsbD_and, BitVec.getLsbD_not, BitVec.getLsbD_shiftLeft, hmask,
    BitVec.getLsbD_setWidth, hj, decide_true, Bool.true_and]
  by_cases hlow : j < 8 * i
  · simp [hlow, show ¬8 * i ≤ j by omega]
  · by_cases hhigh : j < 8 * i + 8
    · simp [hlow, hhigh, show 8 * i ≤ j by omega, show j - 8 * i < 8 by omega, show j - 8 * i < 32 by omega]
    · simp [hlow, hhigh, show ¬j - 8 * i < 8 by omega, BitVec.getLsbD_of_ge v (j - 8 * i) (by omega)]

theorem lane_setLane_same {i : Nat} (hi : i < 4) (w : Word) (v : Byte) : lane (setLane w i v) i = v := by
  refine BitVec.eq_of_getLsbD_eq fun k hk => ?_
  rw [getLsbD_lane, getLsbD_setLane w i v (by omega), if_pos (by omega)]
  simp [hk]

theorem lane_setLane_other {i j : Nat} (hj : j < 4) (h : j ≠ i) (w : Word) (v : Byte) :
    lane (setLane w i v) j = lane w j := by
  refine BitVec.eq_of_getLsbD_eq fun k hk => ?_
  rw [getLsbD_lane, getLsbD_lane, getLsbD_setLane w i v (by omega), if_neg (by omega)]

theorem ofBytes_lane {i : Nat} (hi : i < 8) (bs : List Byte) :
    (ofBytes bs >>> (8 * i)).setWidth 8 = bs.getD i 0#8 := by
  induction bs generalizing i with
  | nil => simp [ofBytes]
  | cons b rest ih =>
    cases i with
    | zero =>
      ext k hk
      interval_cases k <;> simp [ofBytes]
    | succ i =>
      rw [List.getD_cons_succ, ← ih (by omega)]
      ext k hk
      simp [ofBytes, BitVec.getLsbD_shiftLeft]
      grind

end Sys2Proof.Machine
end

section
/-! SUPPORT. Memory after bytes are stored, and the two caches as maps from addresses to bytes: what a lookup answers
after a byte is written and after a line is filled. -/

namespace Sys2Proof.Machine

/-! ### Memory -/

/-- Bytes stored on a board of RAM are the bytes read back, and every other byte is as before (R82, R83). -/
theorem memGet_storeBytes {p : List Region} (hp : ∀ x, (regionAt p x).kind = .ram) {m : List Host.Cell}
    (hm : Memory.wf m = true) {bs : List Byte} (h : bs.length ≤ 4294967295) (a x : Word) :
    memGet (storeBytes p m a bs) x.toNat = (byteAt a bs x).getD (memGet m x.toNat) := by
  induction bs generalizing m a with
  | nil => rfl
  | cons b rest ih =>
    have hrest : rest.length < 4294967295 := h
    have hbyte : storeByte p m a b = memSet m a.toNat b := if_pos (hp a)
    rw [storeBytes, ih (storeByte_wf p hm a b) hrest.le, hbyte, byteAt_cons]
    split
    · next hx =>
      subst hx
      rw [byteAt_succ_self hrest]
      exact memGet_memSet_same hm _ b
    · next hx => rw [memGet_memSet_other _ _ fun e => hx (BitVec.eq_of_toNat_eq e)]

theorem regionAt_ram {p : List Region} (h : p.all (·.kind == .ram) = true) (a : Word) : (regionAt p a).kind = .ram := by
  induction p with
  | nil => rfl
  | cons r rest ih =>
    simp only [List.all_cons, Bool.and_eq_true, beq_iff_eq] at h
    unfold regionAt
    split
    · exact h.1
    · exact ih h.2

/-- What is stored does not depend on how a board of RAM is divided (R89). -/
theorem storeBytes_ram {p : List Region} (h : p.all (·.kind == .ram) = true) (m : List Host.Cell) (a : Word)
    (bs : List Byte) : storeBytes p m a bs = storeBytes [] m a bs := by
  induction bs generalizing m a with
  | nil => rfl
  | cons b rest ih =>
    have hbyte : storeByte p m a b = storeByte [] m a b := (if_pos (regionAt_ram h a)).trans (if_pos rfl).symm
    rw [storeBytes, storeBytes, ih, hbyte]

/-! ### A line -/

/-- The byte of an address in its double-word. -/
def laneOf (a : Word) : Nat := (a.extractLsb' 0 2).toNat

theorem laneOf_lt (a : Word) : laneOf a < 4 := (a.extractLsb' 0 2).isLt

/-- An address is its tag, set, double-word and byte (R120, R130). -/
theorem address_ext {a x : Word} (ht : tagOf x = tagOf a) (hs : setOf x = setOf a) (hd : dwordOf x = dwordOf a)
    (hl : laneOf x = laneOf a) : x = a := by
  have ht' := congrArg BitVec.toNat ht
  have hs' := congrArg Fin.val hs
  have hd' := congrArg Fin.val hd
  simp [tagOf, setOf, dwordOf, laneOf, Nat.shiftRight_eq_div_pow] at ht' hs' hd' hl
  bv_omega

theorem Line.hit_iff (l : Line) (a : Word) :
    l.hit a = true ↔ l.tag = tagOf a ∧ l.valid.getLsbD (dwordOf a).val = true := by
  simp [Line.hit]

theorem Line.hit_setByte (l : Line) (a x : Word) (v : Byte) : (l.setByte a v).hit x = l.hit x := rfl

theorem getElem_set_fin {α : Type} {n : Nat} (v : Vector α n) (k j : Fin n) (w : α) :
    (v.set k.val w k.isLt)[j] = if j = k then w else v[j] := by
  by_cases h : j = k
  · subst h
    simp
  · have hne : k.val ≠ j.val := fun e => h (Fin.ext e.symm)
    simp [h, Vector.getElem_set_ne _ _ hne]

/-- Of the bytes that a line holds, the one written is replaced and the others stay. -/
theorem Line.byte_setByte {l : Line} {a x : Word} (hs : setOf x = setOf a) (hx : l.hit x = true) (ha : l.hit a = true)
    (v : Byte) : (l.setByte a v).byte x = if x = a then v else l.byte x := by
  have hbyte : (l.setByte a v).byte x
      = lane (l.data.set (dwordOf a).val (setLane l.data[dwordOf a] (laneOf a) v) (dwordOf a).isLt)[dwordOf x]
          (laneOf x) := rfl
  have hlane : l.byte x = lane l.data[dwordOf x] (laneOf x) := rfl
  rw [hbyte, hlane, getElem_set_fin]
  by_cases hd : dwordOf x = dwordOf a
  · have hdata : l.data[dwordOf a] = l.data[dwordOf x] := by simp only [hd]
    rw [if_pos hd, hdata]
    by_cases hl : laneOf x = laneOf a
    · have ht : tagOf x = tagOf a := ((l.hit_iff x).mp hx).1.symm.trans ((l.hit_iff a).mp ha).1
      rw [if_pos (address_ext ht hs hd hl), hl, lane_setLane_same (laneOf_lt a)]
    · rw [if_neg fun e => hl (congrArg laneOf e), lane_setLane_other (laneOf_lt x) hl]
  · rw [if_neg hd, if_neg fun e => hd (congrArg dwordOf e)]

/-- A line delivers the byte `b` at an address. -/
def Line.Holds (l : Line) (a : Word) (b : Byte) : Prop := l.hit a = true ∧ l.byte a = b

theorem getLsbD_one_shiftLeft (k i : Fin 4) : (1#4 <<< k.val).getLsbD i.val = decide (i = k) := by
  revert k i
  decide

/-- Loading another double-word of a line leaves what it holds. -/
theorem Line.Holds.load {l : Line} {a : Word} {b : Byte} (h : l.Holds a b) {k : Fin 4} (hk : dwordOf a ≠ k) (w : Word) :
    (l.load k w).Holds a b := by
  obtain ⟨hit, rfl⟩ := h
  obtain ⟨htag, hvalid⟩ := (l.hit_iff a).mp hit
  refine ⟨((l.load k w).hit_iff a).mpr ⟨htag, ?_⟩, ?_⟩
  · simp [Line.load, hvalid]
  · simp only [Line.byte, Line.load, getElem_set_fin, if_neg hk]

/-- A double-word loaded is held. -/
theorem Line.holds_load {l : Line} {a : Word} (h : l.tag = tagOf a) (w : Word) :
    (l.load (dwordOf a) w).Holds a (lane w (laneOf a)) := by
  refine ⟨((l.load _ w).hit_iff a).mpr ⟨h, ?_⟩, ?_⟩
  · simp only [Line.load, BitVec.getLsbD_or, getLsbD_one_shiftLeft, decide_true, Bool.or_true]
  · simp only [Line.byte, Line.load, getElem_set_fin, if_true, lane, laneOf]

theorem Line.claim_tag (l : Line) (a : Word) : (l.claim a).tag = tagOf a := by
  unfold Line.claim
  split
  · next h => exact eq_of_beq h
  · rfl

/-! ### A burst -/

theorem toNat_alignDword (a : Word) : (a &&& 0xFFFFFFFC#32).toNat = a.toNat / 4 * 4 := by
  have h : a &&& 0xFFFFFFFC#32 = (a >>> 2) <<< 2 := by
    ext k hk
    interval_cases k <;> simp
  rw [h]
  simp [Nat.shiftRight_eq_div_pow, Nat.shiftLeft_eq]
  omega

theorem toNat_alignBlock (a : Word) : (a &&& 0xFFFFFFF0#32).toNat = a.toNat / 16 * 16 := by
  have h : a &&& 0xFFFFFFF0#32 = (a >>> 4) <<< 4 := by
    ext k hk
    interval_cases k <;> simp
  rw [h]
  simp [Nat.shiftRight_eq_div_pow, Nat.shiftLeft_eq]
  omega

theorem toNat_dwordOf (a : Word) : (dwordOf a).val = a.toNat / 4 % 4 := by
  simp [dwordOf, Nat.shiftRight_eq_div_pow]

theorem laneOf_eq (a : Word) : laneOf a = a.toNat % 4 := by simp [laneOf]

theorem blockWord_dwordOf (a : Word) : blockWord a (dwordOf a) = a &&& 0xFFFFFFFC#32 := by
  have hb := toNat_alignBlock a
  have hd := toNat_alignDword a
  have hk := toNat_dwordOf a
  apply BitVec.eq_of_toNat_eq
  rw [blockWord, BitVec.toNat_add, hb, hd, hk, BitVec.toNat_ofNat]
  omega

theorem alignDword_add_lane (a : Word) : (a &&& 0xFFFFFFFC#32) + BitVec.ofNat 32 (laneOf a) = a := by
  have hd := toNat_alignDword a
  have hl := laneOf_eq a
  apply BitVec.eq_of_toNat_eq
  rw [BitVec.toNat_add, hd, hl, BitVec.toNat_ofNat]
  omega

/-- The double-word of an address has in its lane the byte that the bus delivers (R86). -/
theorem lane_dwordAt (s : State) (a : Word) : lane (dwordAt s (a &&& 0xFFFFFFFC#32)) (laneOf a) = busByte s a := by
  have hlow (v : Quad) : lane (v.setWidth 32) (laneOf a) = (v >>> (8 * laneOf a)).setWidth 8 := by
    have hl := laneOf_lt a
    ext k hk
    simp [lane]
    omega
  have hl := laneOf_lt a
  rw [dwordAt, hlow, ofBytes_lane (by omega), bytesFrom_eq_map]
  simp [hl, alignDword_add_lane]

theorem burstRead_holds {a x : Word} {b : Byte} {ks : List (Fin 4)} {l : Line} (s : State) (hk : dwordOf x ∉ ks)
    (h : l.Holds x b) : (burstRead a l s ks).1.Holds x b := by
  induction ks generalizing l s with
  | nil => exact h
  | cons k rest ih =>
    simp only [List.mem_cons, not_or] at hk
    have hload (c : Bool) (w : Word) : (if c then l.load k w else l).Holds x b := by
      cases c
      · exact h
      · exact h.load hk.1 w
    simp only [burstRead]
    split
    · exact ih _ hk.2 (hload _ _)
    · exact hload _ _

/-- A burst that begins with a double-word which may be cached and makes no error leaves its bytes in the line (R123,
R133). -/
theorem burstRead_fills {s : State} {a : Word} {l : Line} {rest : List (Fin 4)} (ht : l.tag = tagOf a)
    (hk : dwordOf a ∉ rest) (hc : cacheable s (a &&& 0xFFFFFFFC#32) = true)
    (he : dwordError s (a &&& 0xFFFFFFFC#32) = false) :
    (burstRead a l s (dwordOf a :: rest)).1.Holds a (busByte s a) := by
  have hload : (l.load (dwordOf a) (dwordAt s (a &&& 0xFFFFFFFC#32))).Holds a (busByte s a) :=
    lane_dwordAt s a ▸ Line.holds_load ht _
  simp only [burstRead, blockWord_dwordOf, hc, he, Bool.not_false, Bool.and_true, if_true]
  split
  · exact burstRead_holds _ hk hload
  · exact hload

/-! ### A set of the data cache -/

/-- The byte a set of the data cache holds at an address of the set (R132). -/
def DataSet.lookup (x : DataSet) (a : Word) : Option Byte :=
  if x.way0.hit a then some (x.way0.byte a) else if x.way1.hit a then some (x.way1.byte a) else none

theorem dcByte_eq (s : State) (a : Word) : dcByte s a = s.dcache[setOf a].lookup a := rfl

/-- A byte written is delivered where it hits, what hits elsewhere and what misses stays (R135). -/
theorem DataSet.lookup_write {a y : Word} (hs : setOf y = setOf a) (x : DataSet) (v : Byte) :
    (x.write a v).lookup y = (x.lookup y).map fun b => if y = a then v else b := by
  have hne {l : Line} (ha : ¬l.hit a = true) (hy : l.hit y = true) : y ≠ a := fun e => ha (e ▸ hy)
  by_cases h0 : x.way0.hit a = true
  · have hw : x.write a v = { x with way0 := x.way0.setByte a v } := if_pos h0
    by_cases y0 : x.way0.hit y = true
    · simp [hw, DataSet.lookup, Line.hit_setByte, y0, Line.byte_setByte hs y0 h0]
    · have hya : y ≠ a := fun e => y0 (e ▸ h0)
      simp [hw, DataSet.lookup, Line.hit_setByte, y0, hya]
  · by_cases h1 : x.way1.hit a = true
    · have hw : x.write a v = { x with way1 := x.way1.setByte a v } := (if_neg h0).trans (if_pos h1)
      by_cases y0 : x.way0.hit y = true
      · simp [hw, DataSet.lookup, y0, hne h0 y0]
      · by_cases y1 : x.way1.hit y = true
        · simp [hw, DataSet.lookup, Line.hit_setByte, y0, y1, Line.byte_setByte hs y1 h1]
        · simp [hw, DataSet.lookup, Line.hit_setByte, y0, y1]
    · have hw : x.write a v = x := (if_neg h0).trans (if_neg h1)
      rw [hw]
      by_cases y0 : x.way0.hit y = true
      · simp [DataSet.lookup, y0, hne h0 y0]
      · by_cases y1 : x.way1.hit y = true
        · simp [DataSet.lookup, y0, y1, hne h1 y1]
        · simp [DataSet.lookup, y0, y1]

/-- What is delivered once a set of the data cache is another. -/
theorem dcByte_set (s : State) (k : Fin 32) (x : DataSet) (y : Word) :
    dcByte { s with dcache := s.dcache.set k.val x k.isLt } y = if setOf y = k then x.lookup y else dcByte s y := by
  rw [dcByte_eq, dcByte_eq, getElem_set_fin, apply_ite (DataSet.lookup · y)]

/-- A store is written through to the bytes that the data cache holds, and brings none in (R135). -/
theorem dcByte_dcWrite (s : State) {bs : List Byte} (h : bs.length ≤ 4294967295) (a x : Word) :
    dcByte { s with dcache := dcWrite s.dcache a bs } x = (dcByte s x).map fun b => (byteAt a bs x).getD b := by
  induction bs generalizing s a with
  | nil => simp [dcWrite, byteAt_nil]
  | cons b rest ih =>
    have hrest : rest.length < 4294967295 := h
    have hone : dcByte { s with dcache := s.dcache.set (setOf a).val (s.dcache[setOf a].write a b) (setOf a).isLt } x
        = (dcByte s x).map fun c => if x = a then b else c := by
      rw [dcByte_set]
      split
      · next hs =>
        have hset : s.dcache[setOf a] = s.dcache[setOf x] := by simp only [hs]
        rw [DataSet.lookup_write hs, dcByte_eq, hset]
      · next hs =>
        have hne : x ≠ a := fun e => hs (congrArg setOf e)
        simp [hne]
    have hstep := ih { s with dcache := s.dcache.set (setOf a).val (s.dcache[setOf a].write a b) (setOf a).isLt }
      hrest.le (a + 1#32)
    refine hstep.trans ?_
    rw [hone, Option.map_map, byteAt_cons]
    congr 1
    funext c
    split
    · next hx =>
      subst hx
      simp [byteAt_succ_self hrest]
    · rfl

end Sys2Proof.Machine
end

section
/-! PROOF. Stored bytes read back; the data cache is written through, read on a hit and filled on a miss (R82, R83, R132
to R135). -/

namespace Sys2Proof.Machine

/-! ### References double-word by double-word -/

/-- A property that looking up each double-word of a reference keeps. -/
def LooksKeep (p : State → Prop) (look : State → Word → State) (a : Word) (n : Nat) : Prop :=
  ∀ s k, k < n → p s → p (look s (a + BitVec.ofNat 32 k))

theorem LooksKeep.tail {p : State → Prop} {look : State → Word → State} {a : Word} {n : Nat}
    (h : LooksKeep p look a (n + 1)) : LooksKeep p look (a + 1#32) n := by
  intro s k hk hs
  have haddr : a + 1#32 + BitVec.ofNat 32 k = a + BitVec.ofNat 32 (k + 1) := by
    rw [BitVec.add_assoc, Nat.add_comm k 1, BitVec.ofNat_add]
  rw [haddr]
  exact h s (k + 1) (by omega) hs

theorem LooksKeep.head {p : State → Prop} {look : State → Word → State} {a : Word} {n : Nat}
    (h : LooksKeep p look a (n + 1)) {s : State} (hs : p s) : p (look s a) := by
  have h0 := h s 0 (by omega) hs
  simpa using h0

theorem viewsFrom_keep {p : State → Prop} {look : State → Word → State} {a : Word} {n : Nat}
    (h : LooksKeep p look a n) {cur next : State} (hc : p cur) (hn : p next) :
    ∀ e ∈ viewsFrom look cur next a n, p e.2 := by
  induction n generalizing a cur next with
  | zero => exact fun e he => absurd he List.not_mem_nil
  | succ n ih =>
    intro e he
    simp only [viewsFrom] at he
    split at he
    · rcases List.mem_cons.mp he with rfl | he
      · exact hn
      · exact ih h.tail hn (h.head hn) e he
    · rcases List.mem_cons.mp he with rfl | he
      · exact hc
      · exact ih h.tail hc hn e he

/-- Every byte of a reference is read in a state with the property. -/
theorem views_keep {p : State → Prop} {look : State → Word → State} {a : Word} {n : Nat} (h : LooksKeep p look a n)
    {s : State} (hs : p s) : ∀ e ∈ views look s a n, p e.2 := by
  cases n with
  | zero => exact fun e he => absurd he List.not_mem_nil
  | succ n =>
    unfold views
    split
    · exact viewsFrom_keep h hs hs
    · exact viewsFrom_keep h hs (h.head hs)

theorem mem_dwordsOf {a x : Word} {n : Nat} (h : x ∈ dwordsOf a n) : ∃ k, k < n ∧ x = a + BitVec.ofNat 32 k := by
  induction n generalizing a with
  | zero => exact absurd h List.not_mem_nil
  | succ n ih =>
    rcases List.mem_cons.mp h with rfl | h
    · exact ⟨0, by omega, by simp⟩
    · obtain ⟨k, hk, rfl⟩ := ih (List.mem_of_mem_filter h)
      refine ⟨k + 1, by omega, ?_⟩
      rw [BitVec.add_assoc, Nat.add_comm k 1, BitVec.ofNat_add]

theorem foldl_keeps {p : State → Prop} {look : State → Word → State} {xs : List Word} {s : State} (hs : p s)
    (h : ∀ x ∈ xs, ∀ t, p t → p (look t x)) : p (xs.foldl look s) := by
  induction xs generalizing s with
  | nil => exact hs
  | cons x rest ih =>
    exact ih (h x List.mem_cons_self s hs) fun y hy => h y (List.mem_cons_of_mem x hy)

theorem afterViews_keep {p : State → Prop} {look : State → Word → State} {a : Word} {n : Nat} (h : LooksKeep p look a n)
    {s : State} (hs : p s) : p (afterViews look s a n) := by
  refine foldl_keeps hs fun x hx t ht => ?_
  obtain ⟨k, hk, rfl⟩ := mem_dwordsOf hx
  exact h t k hk ht

theorem viewsFrom_addresses (look : State → Word → State) (cur next : State) (a : Word) (n : Nat) :
    (viewsFrom look cur next a n).map Prod.fst = (List.range n).map fun k => a + BitVec.ofNat 32 k := by
  induction n generalizing a cur next with
  | zero => rfl
  | succ n ih =>
    have hshift : ((List.range n).map fun k => a + BitVec.ofNat 32 (k + 1))
        = (List.range n).map fun k => a + 1#32 + BitVec.ofNat 32 k :=
      List.map_congr_left fun k _ => by rw [BitVec.add_assoc, Nat.add_comm k 1, BitVec.ofNat_add]
    rw [List.range_succ_eq_map, List.map_cons, List.map_map]
    simp only [viewsFrom]
    split <;> simp [ih, hshift, Function.comp_def]

/-- A byte of a reference lies at one of its addresses. -/
theorem views_address {look : State → Word → State} {s : State} {a : Word} {n : Nat} {e : Word × State}
    (h : e ∈ views look s a n) : ∃ k, k < n ∧ e.1 = a + BitVec.ofNat 32 k := by
  have hmem : e.1 ∈ (views look s a n).map Prod.fst := List.mem_map_of_mem h
  rw [views, viewsFrom_addresses] at hmem
  obtain ⟨k, hk, he⟩ := List.mem_map.mp hmem
  exact ⟨k, List.mem_range.mp hk, he.symm⟩

/-- The bytes that `f` reads are those that `g` gives at the addresses of the reference. -/
theorem views_map {look : State → Word → State} {s : State} {a : Word} {n : Nat} {f : Word × State → Byte}
    {g : Word → Byte} (h : ∀ e ∈ views look s a n, f e = g e.1) : (views look s a n).map f = bytesFrom g a n := by
  have haddr : (views look s a n).map Prod.fst = (List.range n).map fun k => a + BitVec.ofNat 32 k :=
    viewsFrom_addresses ..
  calc (views look s a n).map f = (views look s a n).map (g ∘ Prod.fst) := List.map_congr_left h
    _ = ((views look s a n).map Prod.fst).map g := List.map_map.symm
    _ = bytesFrom g a n := by rw [haddr, bytesFrom_eq_map, List.map_map]; rfl

/-! ### A read reference -/

/-- Where no write has failed, waiting for stores completes. -/
theorem readRef_settled (k : RefKind) (a : Word) (n : Nat) {s : State} (h : s.pendingError = false) :
    ∃ wb, readRef k a n s = readNow k a n { s with writeBuffer := wb } := by
  obtain ⟨u, _, t, hok, -, -⟩ := settleWrites_plain s (waitsFor (ioRead k.cached s a n) a n) s (Sim.refl h)
  obtain ⟨wb, rfl⟩ := settleWrites_ok hok
  refine ⟨wb, ?_⟩
  simp only [readRef, getS, Bind.bind, EStateM.bind, hok]

/-- A read reference without a bus error completes (R82, R148). -/
theorem readNow_ok {k : RefKind} {a : Word} {n : Nat} {s : State}
    (h : ∀ e ∈ dataViews k.cached s a n, readErrorAt k.cached e.2 e.1 = false) :
    ∃ u fc rf, u = { afterViews (readCycle k.cached) s a n with freeCount := fc, refs := rf }
      ∧ readNow k a n s = .ok (ofBytes ((dataViews k.cached s a n).map fun e => readByte k.cached e.2 e.1)) u := by
  have hany : ((dataViews k.cached s a n).any fun e => readErrorAt k.cached e.2 e.1) = false :=
    List.any_eq_false.mpr fun e he => by simp [h e he]
  unfold readNow
  simp only [hany, Bool.false_eq_true, if_false]
  exact ⟨_, _, _, rfl, rfl⟩

/-! ### Hits -/

/-- `t` is `s` but for which lines of the data cache are the least recently used. -/
def SameCache (s t : State) : Prop := ∃ dc, t = { s with dcache := dc } ∧ ∀ y, dcByte t y = dcByte s y

theorem SameCache.refl (s : State) : SameCache s s := ⟨s.dcache, rfl, fun _ => rfl⟩

theorem SameCache.trans {s t u : State} (h : SameCache s t) (h' : SameCache t u) : SameCache s u := by
  obtain ⟨dc, rfl, hs⟩ := h
  obtain ⟨dc', rfl, ht⟩ := h'
  exact ⟨dc', rfl, fun y => (ht y).trans (hs y)⟩

/-- Marking a line of a set leaves what the data cache holds. -/
theorem sameCache_set (s : State) (k : Fin 32) (b : Bool) :
    SameCache s { s with dcache := s.dcache.set k.val { s.dcache[k] with lru := b } k.isLt } := by
  refine ⟨_, rfl, fun y => ?_⟩
  rw [dcByte_set]
  split
  · next h =>
    subst h
    rfl
  · rfl

/-- A read hit makes no bus cycle and leaves what the data cache holds (R132). -/
theorem dcLookup_hit {s : State} {a : Word} (h : (dcByte s a).isSome = true) : SameCache s (dcLookup s a) := by
  unfold dcLookup
  simp only []
  split
  · exact sameCache_set s (setOf a) true
  · next h0 =>
    split
    · exact sameCache_set s (setOf a) false
    · next h1 =>
      have hmiss : dcByte s a = none := (if_neg h0).trans (if_neg h1)
      rw [hmiss] at h
      cases h

/-- A read of bytes that all hit delivers the cached ones, without a bus cycle (R132). -/
theorem readNow_hits {k : RefKind} {a : Word} {n : Nat} {s : State} (hdc : s.cfgDC = true) (hk : k.cached = true)
    (h : ∀ j : Nat, j < n → (dcByte s (a + BitVec.ofNat 32 j)).isSome = true) :
    ∃ u, readNow k a n s = .ok (ofBytes (bytesFrom (fun y => (dcByte s y).getD 0#8) a n)) u
      ∧ u.busReplies = s.busReplies := by
  have hkeep : LooksKeep (SameCache s) (readCycle k.cached) a n := by
    intro t j hj ht
    have hhit : (dcByte t (a + BitVec.ofNat 32 j)).isSome = true := by
      obtain ⟨dc, rfl, hd⟩ := ht
      rw [hd]
      exact h j hj
    have hlook : readCycle k.cached t (a + BitVec.ofNat 32 j) = dcLookup t (a + BitVec.ofNat 32 j) := by
      obtain ⟨dc, rfl, -⟩ := ht
      exact if_pos (by rw [hk]; exact hdc)
    rw [hlook]
    exact ht.trans (dcLookup_hit hhit)
  have hview (e) (he : e ∈ dataViews k.cached s a n) :
      readByte k.cached e.2 e.1 = (dcByte s e.1).getD 0#8 ∧ readErrorAt k.cached e.2 e.1 = false := by
    obtain ⟨j, hj, haddr⟩ := views_address he
    obtain ⟨dc, hs, hd⟩ := views_keep hkeep (SameCache.refl s) e he
    have hon : (k.cached && e.2.cfgDC) = true := by
      rw [hk, hs]
      exact hdc
    obtain ⟨b, hb⟩ := Option.isSome_iff_exists.mp (haddr ▸ h j hj : (dcByte s e.1).isSome = true)
    simp [readByte, readErrorAt, readCycleAt, hon, hd, hb]
  obtain ⟨u, fc, rf, hu, hok⟩ := readNow_ok fun e he => (hview e he).2
  rw [dataViews, views_map (g := fun y => (dcByte s y).getD 0#8) fun e he => (hview e he).1] at hok
  refine ⟨u, hok, ?_⟩
  obtain ⟨dc, hs, -⟩ := afterViews_keep hkeep (SameCache.refl s)
  rw [hu, hs]

/-! ### Misses -/

theorem DataSet.lookup_way0 {x : DataSet} {a : Word} {b : Byte} (h : x.way0.Holds a b) : x.lookup a = some b := by
  obtain ⟨hit, rfl⟩ := h
  exact if_pos hit

theorem DataSet.lookup_way1 {x : DataSet} {a : Word} {b : Byte} (h0 : ¬x.way0.hit a = true) (h : x.way1.Holds a b) :
    x.lookup a = some b := by
  obtain ⟨hit, rfl⟩ := h
  exact (if_neg h0).trans (if_pos hit)

theorem dcByte_eq_none {s : State} {a : Word} (h : dcByte s a = none) :
    ¬s.dcache[setOf a].way0.hit a = true ∧ ¬s.dcache[setOf a].way1.hit a = true := by
  unfold dcByte at h
  simp only [] at h
  split at h
  · cases h
  · split at h
    · cases h
    · exact ⟨‹_›, ‹_›⟩

theorem dwordOf_not_mem_dataBurst (a : Word) : dwordOf a ∉ [dwordOf a + 1, dwordOf a + 2, dwordOf a + 3] := by
  generalize dwordOf a = k
  revert k
  decide

/-- After a miss of a byte that may be cached and makes no bus error, a data cache that is not locked holds what the bus
delivered (R133, R134). -/
theorem dcByte_dcLookup_miss {s : State} {a : Word} (hl : s.cfgLDC = false)
    (hc : cacheable s (a &&& 0xFFFFFFFC#32) = true) (he : dwordError s (a &&& 0xFFFFFFFC#32) = false)
    (h : dcByte s a = none) : dcByte (dcLookup s a) a = some (busByte s a) := by
  obtain ⟨h0, h1⟩ := dcByte_eq_none h
  have hfill (l : Line) : (burstRead a (l.claim a) s (dataBurst a)).1.Holds a (busByte s a) :=
    burstRead_fills (l.claim_tag a) (dwordOf_not_mem_dataBurst a) hc he
  have hput (x : DataSet) : dcByte { s with dcache := s.dcache.set (setOf a).val x (setOf a).isLt } a = x.lookup a :=
    (dcByte_set s (setOf a) x a).trans (if_pos rfl)
  unfold dcLookup
  simp only [h0, h1, hl, Bool.false_eq_true, if_false]
  generalize (if s.dcache[setOf a].way0.tag == tagOf a then false
    else if s.dcache[setOf a].way1.tag == tagOf a then true else s.dcache[setOf a].lru) = second
  refine (hput _).trans ?_
  cases second
  · exact DataSet.lookup_way0 (hfill _)
  · exact DataSet.lookup_way1 h0 (hfill _)

theorem anyFrom_of_false {p : Word → Bool} {a : Word} {n : Nat} (h : anyFrom p a n = false) {k : Nat} (hk : k < n) :
    p (a + BitVec.ofNat 32 k) = false := by
  by_contra hp
  have hany := (anyFrom_iff p a n).mpr ⟨k, hk, by simpa using hp⟩
  rw [h] at hany
  cases hany

theorem readError_of_dwordError {s : State} {a : Word} (h : dwordError s (a &&& 0xFFFFFFFC#32) = false) :
    (regionOf s a).readError = false := by
  have hlane := anyFrom_of_false h (laneOf_lt a)
  rwa [alignDword_add_lane] at hlane

/-- A reference of one byte is read in the state it begins in. -/
theorem views_one (look : State → Word → State) (s : State) (a : Word) : views look s a 1 = [(a, s)] := by
  unfold views
  by_cases h : a.extractLsb' 0 2 = 0#2 <;> simp [viewsFrom, h]

/-- A read of a byte that may be cached, makes no bus error and lies in RAM leaves it in a data cache that is not locked
(R133, R134). -/
theorem readNow_fills {k : RefKind} {a : Word} {s : State} (hdc : s.cfgDC = true) (hk : k.cached = true)
    (hl : s.cfgLDC = false) (hc : cacheable s (a &&& 0xFFFFFFFC#32) = true)
    (he : dwordError s (a &&& 0xFFFFFFFC#32) = false) (hram : (regionAt s.platform a).kind = .ram) :
    ∃ w u, readNow k a 1 s = .ok w u ∧ (dcByte u a).isSome = true
      ∧ (dcByte s a = none → w.setWidth 8 = memGet s.mem a.toNat ∧ dcByte u a = some (memGet s.mem a.toNat)) := by
  have hviews : dataViews k.cached s a 1 = [(a, s)] := views_one _ s a
  have hafter : afterViews (readCycle k.cached) s a 1 = dcLookup s a :=
    if_pos (by rw [hk, hdc]; rfl)
  have hbus : busByte s a = memGet s.mem a.toNat := by simp [busByte, hram]
  have hread : readByte k.cached s a = (dcByte s a).getD (busByte s a) := if_pos (by rw [hk, hdc]; rfl)
  have herr : ∀ e ∈ dataViews k.cached s a 1, readErrorAt k.cached e.2 e.1 = false := by
    intro e he'
    obtain rfl := List.mem_singleton.mp (hviews ▸ he')
    simp [readErrorAt, readError_of_dwordError he]
  obtain ⟨u, fc, rf, hu, hok⟩ := readNow_ok herr
  have hheld : dcByte u a = dcByte (dcLookup s a) a := by rw [hu, hafter]; rfl
  refine ⟨_, u, hok, ?_, fun hmiss => ⟨?_, ?_⟩⟩
  · rw [hheld]
    cases h : dcByte s a with
    | none => rw [dcByte_dcLookup_miss hl hc he h]; rfl
    | some b =>
      obtain ⟨dc, -, hsame⟩ := dcLookup_hit (s := s) (a := a) (by rw [h]; rfl)
      rw [hsame, h]
      rfl
  · rw [hviews, List.map_singleton, hread, hmiss, hbus]
    simp [ofBytes]
  · rw [hheld, dcByte_dcLookup_miss hl hc he hmiss, hbus]

/-- Settles O57: the bytes of a store lie where `byteAt` says, in memory and in the lines that hold them; a read follows
its hits, or the burst that fills its line. -/
theorem storedBytesReadBack : Obligations.StoredBytesReadBack := by
  intro s a x n v failed k hn hwf inside new t
  have hlen : (toBytes n v).length ≤ 4294967295 := by rw [toBytes_length]; omega
  have hbyte (old : Byte) : (byteAt a (toBytes n v) x).getD old = if inside then new else old := by
    rw [byteAt_toBytes]
    by_cases h : (x - a).toNat < n
    · rw [if_pos h]
      exact (if_pos (decide_eq_true h)).symm
    · rw [if_neg h]
      exact (if_neg (mt of_decide_eq_true h)).symm
  refine ⟨?_, fun hram => storeBytes_ram hram s.mem a _, fun hdc => ?_, fun hdc hk hp => ⟨fun hit => ?_, ?_⟩⟩
  · exact (memGet_storeBytes (fun _ => rfl) hwf hlen a x).trans (hbyte _)
  · have hcache : t.dcache = dcWrite s.dcache a (toBytes n v) := if_pos hdc
    calc dcByte t x = dcByte { s with dcache := dcWrite s.dcache a (toBytes n v) } x := by
          rw [dcByte_eq, dcByte_eq, hcache]
      _ = (dcByte s x).map fun b => (byteAt a (toBytes n v) x).getD b := dcByte_dcWrite s hlen a x
      _ = (dcByte s x).map fun b => if inside then new else b := by simp only [hbyte]
  · obtain ⟨wb, hsettled⟩ := readRef_settled k a n hp
    rw [hsettled]
    exact readNow_hits (s := { s with writeBuffer := wb }) hdc hk hit
  · intro _ hl hc he hram
    obtain ⟨wb, hsettled⟩ := readRef_settled k a 1 hp
    rw [hsettled]
    exact readNow_fills (s := { s with writeBuffer := wb }) hdc hk hl hc he hram

end Sys2Proof.Machine
end

section
/-! SUPPORT. What a fetch delivers and what it does to the instruction cache (R105, R122, R123; log 30). -/

namespace Sys2Proof.Machine

/-! ### The candidates -/

/-- The overwritten bytes that a fetch of an address may still deliver (U8). -/
def staleAt (s : State) (a : Word) : List Byte := ((staleBytes s).filter fun e => e.1 == a).map (·.2)

theorem mem_staleAt {s : State} {a : Word} {b : Byte} : b ∈ staleAt s a ↔ (a, b) ∈ staleBytes s := by
  simp [staleAt]

theorem staleAt_eq_nil {s : State} {a : Word} (h : ∀ e ∈ staleBytes s, e.1 ≠ a) : staleAt s a = [] :=
  List.eq_nil_iff_forall_not_mem.mpr fun b hb => h (a, b) (mem_staleAt.mp hb) rfl

theorem fetchCandidates_hit {s : State} {a : Word} {c : Byte} (h : icByte s a = some c) :
    fetchCandidates s a
      = c :: (staleAt s a ++ if (regionAt s.platform a).kind = .ram then [memGet s.mem a.toNat] else []) := by
  unfold fetchCandidates
  rw [h]
  rfl

theorem fetchCandidates_miss {s : State} {a : Word} (h : icByte s a = none) :
    fetchCandidates s a = staleAt s a ++ [busByte s a] := by
  unfold fetchCandidates
  rw [h]
  rfl

theorem fetchCandidates_ne_nil (s : State) (a : Word) : fetchCandidates s a ≠ [] := by
  cases h : icByte s a with
  | none => simp [fetchCandidates_miss h]
  | some c => simp [fetchCandidates_hit h]

theorem mem_fetchCandidates_of_stale {s : State} {a : Word} {b : Byte} (h : (a, b) ∈ staleBytes s) :
    b ∈ fetchCandidates s a := by
  have hstale := mem_staleAt.mpr h
  cases hc : icByte s a with
  | none => simp [fetchCandidates_miss hc, hstale]
  | some c => simp [fetchCandidates_hit hc, hstale]

/-- A byte fetched is one of its candidates. -/
theorem fetchByte_mem (s : State) (n : Nat) (a : Word) : fetchByte s n a ∈ fetchCandidates s a := by
  unfold fetchByte
  have hne := fetchCandidates_ne_nil s a
  generalize fetchCandidates s a = cs at hne ⊢
  simp only []
  split
  · obtain ⟨c, rest, rfl⟩ := List.exists_cons_of_ne_nil hne
    exact List.mem_cons_self
  · have hlt : Config.freeNat (s.freeCount + n) % cs.length < cs.length :=
      Nat.mod_lt _ (List.length_pos_iff.mpr hne)
    rw [List.getD_eq_getElem _ _ hlt]
    exact List.getElem_mem hlt

/-- Where no cache holds a byte and no overwritten one is left, the bus delivers it (R105). -/
theorem fetchByte_miss {s : State} {a : Word} (n : Nat) (h : icByte s a = none) (hs : staleAt s a = []) :
    fetchByte s n a = busByte s a := by
  have hmem := fetchByte_mem s n a
  rw [fetchCandidates_miss h, hs] at hmem
  exact List.mem_singleton.mp hmem

/-- A cached byte is delivered where it cannot have been overwritten since (R122). -/
theorem fetchByte_hit {s : State} {a : Word} {c : Byte} (n : Nat) (h : icByte s a = some c) (hs : staleAt s a = [])
    (hm : (regionAt s.platform a).kind = .ram → memGet s.mem a.toNat = c) : fetchByte s n a = c := by
  have hmem := fetchByte_mem s n a
  rw [fetchCandidates_hit h, hs] at hmem
  split at hmem
  · next hram => simpa [hm hram] using hmem
  · simpa using hmem

/-- A store in RAM leaves the byte it replaces to be fetched still (R105). -/
theorem prefetched_store {s : State} {a : Word} {b : Byte} (failed : Bool) (hram : (regionAt s.platform a).kind = .ram)
    (hb : memGet s.mem a.toNat ≠ b) : (a, memGet s.mem a.toNat) ∈ (store s a [b] failed).fetchUnit.prefetched := by
  have hnote : (store s a [b] failed).fetchUnit.prefetched
      = if s.fetchUnit.prefetched.contains (a, memGet s.mem a.toNat) then s.fetchUnit.prefetched
        else (a, memGet s.mem a.toNat) :: s.fetchUnit.prefetched := by
    simp [store, FetchUnit.note, noteStale, hram, hb]
  rw [hnote]
  split
  · next hc => simpa using hc
  · exact List.mem_cons_self

/-! ### The instruction cache -/

theorem icByte_eq_some {s : State} {a : Word} {c : Byte} (h : icByte s a = some c) :
    s.cfgIC = true ∧ s.icache[setOf a].hit a = true := by
  unfold icByte at h
  simp only [] at h
  split at h
  · next hc => simpa using hc
  · cases h

/-- A hit leaves the instruction cache and makes no bus cycle (R122). -/
theorem icLookup_hit {s : State} {a : Word} {c : Byte} (h : icByte s a = some c) : icLookup s a = s := by
  obtain ⟨hon, hit⟩ := icByte_eq_some h
  simp only [icLookup, hon, hit, Bool.not_true, Bool.false_eq_true, if_false, if_true]

/-- A burst of an instruction fetch begins with the double-word that missed. -/
theorem codeBurst_eq (s : State) (a : Word) : ∃ rest, codeBurst s a = dwordOf a :: rest ∧ dwordOf a ∉ rest := by
  have hsplit (k : Fin 4) : ∃ rest, (([0, 1, 2, 3] : List (Fin 4)).filter fun j => decide (k ≤ j)) = k :: rest
      ∧ k ∉ rest := by
    fin_cases k
    exacts [⟨[1, 2, 3], rfl, by decide⟩, ⟨[2, 3], rfl, by decide⟩, ⟨[3], rfl, by decide⟩, ⟨[], rfl, by decide⟩]
  obtain ⟨rest, hrest, hk⟩ := hsplit (dwordOf a)
  refine ⟨rest.take (Config.burstLength s.freeCount a), ?_, fun h => hk (List.mem_of_mem_take h)⟩
  rw [codeBurst, hrest, Nat.add_comm, List.take_succ_cons]

/-- A miss of a byte that may be cached and makes no bus error fills an instruction cache that is not locked (R123). -/
theorem icByte_icLookup_miss {s : State} {a : Word} (hon : s.cfgIC = true) (hl : s.cfgLIC = false)
    (hc : cacheable s (a &&& 0xFFFFFFFC#32) = true) (he : dwordError s (a &&& 0xFFFFFFFC#32) = false)
    (h : icByte s a = none) : icByte (icLookup s a) a = some (busByte s a) := by
  have hmiss : ¬s.icache[setOf a].hit a = true := fun hit => by
    simp only [icByte, hon, hit, Bool.and_self, if_true] at h
    cases h
  obtain ⟨rest, hburst, hk⟩ := codeBurst_eq s a
  obtain ⟨hit, hbyte⟩ : (burstRead a (s.icache[setOf a].claim a) s (codeBurst s a)).1.Holds a (busByte s a) := by
    rw [hburst]
    exact burstRead_fills (Line.claim_tag _ a) hk hc he
  obtain ⟨br, hframe⟩ := burstRead_frame a (codeBurst s a) (s.icache[setOf a].claim a) s
  have hlook : icLookup s a = { s with
      icache := s.icache.set (setOf a).val (burstRead a (s.icache[setOf a].claim a) s (codeBurst s a)).1 (setOf a).isLt
      busReplies := br } := by
    simp only [icLookup, hon, hmiss, hl, hframe, Bool.not_true, Bool.false_eq_true, if_false]
  have hcfg : State.cfgIC { s with
      icache := s.icache.set (setOf a).val (burstRead a (s.icache[setOf a].claim a) s (codeBurst s a)).1 (setOf a).isLt
      busReplies := br } = true := hon
  rw [hlook, icByte, hcfg]
  simp only [getElem_set_fin, if_true, hit, hbyte, Bool.and_self]

/-- A double-word is fetched by a bus cycle unless the cache holds it (R122, R140). -/
theorem fetchCycles_one (st : BitVec 5) (s : State) (a : Word) :
    fetchCycles st s [a] = if (icByte s a).isSome then [] else [.fetch st (fetchAddress st a) s.flagU] := rfl

end Sys2Proof.Machine
end

section
/-! SUPPORT. What an instruction does to instruction fetching: actions followed on a state whose memory is RAM, what
they leave of the prefetched bytes and of the fetch sequence, and what completion and a trap add (R110, R113, R140;
log 47). -/

namespace Sys2Proof.Machine

/-! ### Actions that complete -/

section Stays

variable {α β : Type} {p : State → Prop}

/-- From every state with the property, whatever its bookkeeping, the action completes in a state with the property. -/
def Stays (p : State → Prop) (m : M α) : Prop := ∀ u, p u → Reaches m u fun _ w => p w

theorem Stays.pure (a : α) : Stays p (Pure.pure a : M α) := fun _ h => Reaches.pure h

theorem Stays.bind {m : M α} {k : α → M β} (h : Stays p m) (hk : ∀ a, Stays p (k a)) : Stays p (m >>= k) :=
  fun u hu => (h u hu).bind fun a w hw => hk a w hw

/-- What follows an action need go on only for the values the action answers. -/
theorem Stays.bind_yields {q : α → Prop} {m : M α} {k : α → M β} (h : Stays p m) (hq : Yields q m)
    (hk : ∀ a, q a → Stays p (k a)) : Stays p (m >>= k) := by
  refine fun u hu => Reaches.bind (P := fun a w => q a ∧ p w) ?_ fun a w ⟨ha, hw⟩ => hk a ha w hw
  intro t ht
  obtain ⟨a, w, t', hm, hsim, hw⟩ := h u hu t ht
  exact ⟨a, w, t', hm, hsim, hq t a t' hm, hw⟩

theorem Stays.getS {k : State → M β} (hk : ∀ s, Stays p (k s)) : Stays p (Machine.getS >>= k) :=
  fun u hu => Reaches.getS fun _ _ _ _ => hk _ u hu

theorem Stays.ite {c : Prop} [Decidable c] {m m' : M α} (h : Stays p m) (h' : Stays p m') :
    Stays p (if c then m else m') := by
  split
  · exact h
  · exact h'

/-- A change of the state that does not look at the bookkeeping. -/
theorem Stays.upd {f : State → State} (hf : ∀ u wb sc fc rf, f (u.book wb sc fc rf) = (f u).book wb sc fc rf)
    (h : ∀ u, p u → p (f u)) : Stays p (Machine.upd f) :=
  fun u hu => Reaches.upd (fun wb sc fc rf => hf u wb sc fc rf) (h u hu)

end Stays

/-- Memory is RAM, and what a fetch looks at is as given: the instruction cache and CFG. -/
def PlainCode (ic : Vector Line 32) (c : Word) (s : State) : Prop := s.ram = true ∧ s.icache = ic ∧ s.cfg = c

theorem plainCode_self {s : State} (hs : s.plain = true) : PlainCode s.icache s.cfg s := ⟨plain_ram hs, rfl, rfl⟩

section PlainCode

variable {ic : Vector Line 32} {c : Word}

theorem readRef_stays (k : RefKind) (a : Word) (n : Nat) : Stays (PlainCode ic c) (readRef k a n) :=
  fun _ h => (readRef_plain h.1 k a n).mono fun _ _ ⟨_, hw⟩ => hw ▸ h

theorem writeRef_stays (k : RefKind) (a : Word) (n : Nat) (v : Quad) : Stays (PlainCode ic c) (writeRef k a n v) :=
  fun _ h => (writeRef_plain h.1 k a n v).mono fun _ _ hw => hw ▸ h

theorem drain_stays : Stays (PlainCode ic c) drain := fun u h => (drain_plain u).mono fun _ _ hw => hw ▸ h

theorem serialize_stays : Stays (PlainCode ic c) serialize := fun u h => (serialize_plain u).mono fun _ _ hw => hw ▸ h

theorem memRead32_stays (a : Word) : Stays (PlainCode ic c) (memRead32 a) :=
  fun _ h => (memRead32_plain h.1 a).mono fun _ _ ⟨_, hw⟩ => hw ▸ h

theorem push_stays (n : Nat) (v : Quad) : Stays (PlainCode ic c) (push n v) := by
  refine fun u h => (push_plain h.1 n v).mono fun _ _ hw => ?_
  obtain ⟨hram, hic, hcfg⟩ := h
  rw [hw]
  exact ⟨by rwa [State.pushed_ram], by rwa [State.pushed_icache], by rwa [State.pushed_cfg]⟩

theorem lowerSp_stays (n : Word) : Stays (PlainCode ic c) (upd fun s => s.setSp (s.sp - n)) := by
  refine fun u h => setSp_upd (fun s => s.sp - n) (fun _ _ _ _ => by simp) ?_
  obtain ⟨hram, hic, hcfg⟩ := h
  exact ⟨by rwa [State.setSp_ram], by rwa [State.setSp_icache], by rwa [State.setSp_cfg]⟩

theorem updPsr_stays (f : Half → Half) : Stays (PlainCode ic c) (updPsr f) :=
  Stays.upd (fun _ _ _ _ _ => rfl) fun _ h => h

/-- The service sequence completes (R641). -/
theorem service_stays (v : Byte) (copy : Half) (ret : Word) : Stays (PlainCode ic c) (service v copy ret) := by
  have hpc (x : Word) : Stays (PlainCode ic c) (upd fun s => { s with pc := x }) :=
    Stays.upd (fun _ _ _ _ _ => rfl) fun _ h => h
  have hmod (x : Half) : Stays (PlainCode ic c) (upd fun s => { s with mod := x }) :=
    Stays.upd (fun _ _ _ _ _ => rfl) fun _ h => h
  have hsb (x : Word) : Stays (PlainCode ic c) (upd fun s => { s with sb := x }) :=
    Stays.upd (fun _ _ _ _ _ => rfl) fun _ h => h
  have hlast : Stays (PlainCode ic c) (do push 4 (ret.setWidth 64); serialize) :=
    (push_stays 4 _).bind fun _ => serialize_stays
  refine Stays.getS fun s0 => (push_stays 2 _).bind fun _ => Stays.getS fun s => ?_
  refine Stays.ite ((lowerSp_stays 2#32).bind fun _ => ?_) ((push_stays 2 _).bind fun _ => ?_)
  all_goals
    refine (memRead32_stays _).bind fun entry => Stays.ite ((hpc entry).bind fun _ => hlast) ?_
    exact (hmod _).bind fun _ => (memRead32_stays _).bind fun _ => (hpc _).bind fun _ =>
      (memRead32_stays _).bind fun _ => (hsb _).bind fun _ => hlast

end PlainCode

/-! ### What an action that completes leaves -/

section Ends

variable {α β : Type} {q : State → Prop}

/-- However it began, the action leaves the property when it completes. -/
def Ends (q : State → Prop) (m : M α) : Prop := ∀ s a t, m s = .ok a t → q t

theorem bind_ok {m : M α} {k : α → M β} {s t : State} {b : β} (h : (m >>= k) s = .ok b t) :
    ∃ a u, m s = .ok a u ∧ k a u = .ok b t := by
  cases hm : m s with
  | ok a u =>
    have e : (m >>= k) s = k a u := by simp [Bind.bind, EStateM.bind, hm]
    exact ⟨a, u, rfl, e.symm.trans h⟩
  | error x u =>
    have e : (m >>= k) s = .error x u := by simp [Bind.bind, EStateM.bind, hm]
    cases e.symm.trans h

theorem keeps_ok {p : State → Prop} {m : M α} (h : Keeps p m) {s t : State} {a : α} (hs : p s) (e : m s = .ok a t) :
    p t := by
  have ht := h s hs
  rw [e] at ht
  exact ht

theorem Ends.bind {m : M α} {k : α → M β} (h : ∀ a, Ends q (k a)) : Ends q (m >>= k) := by
  intro s b t e
  obtain ⟨a, u, -, hk⟩ := bind_ok e
  exact h a u b t hk

theorem Ends.ite {c : Prop} [Decidable c] {m m' : M α} (h : Ends q m) (h' : Ends q m') :
    Ends q (if c then m else m') := by
  split
  · exact h
  · exact h'

theorem Ends.bind_yields {r : α → Prop} {m : M α} {k : α → M β} (hr : Yields r m) (h : ∀ a, r a → Ends q (k a)) :
    Ends q (m >>= k) := by
  intro s b t e
  obtain ⟨a, u, hm, hk⟩ := bind_ok e
  exact h a (hr s a u hm) u b t hk

/-- What an action leaves stays where what follows keeps it. -/
theorem Ends.then_keeps {m : M α} {k : α → M β} (h : Ends q m) (hk : ∀ a, Keeps q (k a)) : Ends q (m >>= k) := by
  intro s b t e
  obtain ⟨a, u, hm, he⟩ := bind_ok e
  exact keeps_ok (hk a) (h s a u hm) he

end Ends

/-! ### The prefetched bytes and the fetch sequence -/

/-- Nothing that was prefetched is delivered any more, and the next double-word begins a sequence (R110, R140). -/
def Discarded (s : State) : Prop := s.fetchUnit.prefetched = [] ∧ s.fetchUnit.sequence ≠ .running

/-- The instruction cache was not filled with bytes that were overwritten since. -/
def CacheFresh (s : State) : Prop := s.fetchUnit.cached = []

theorem restart_sequence (f : FetchUnit) : f.restart.sequence ≠ .running := by
  unfold FetchUnit.restart
  cases h : f.sequence <;> simp

theorem serialize_discards : Ends Discarded serialize :=
  Ends.bind fun _ => by
    rintro s _ _ ⟨⟩
    exact ⟨rfl, restart_sequence s.fetchUnit⟩

theorem settleWrites_keeps_fresh (f : PendingStore → Bool) : Keeps CacheFresh (settleWrites f) := by
  intro s h
  cases he : settleWrites f s with
  | ok u t =>
    obtain ⟨wb, rfl⟩ := settleWrites_ok he
    exact h
  | error e t =>
    unfold settleWrites at he
    simp only [] at he
    split at he <;> cases he
    exact h

theorem serialize_keeps_fresh : Keeps CacheFresh serialize :=
  (settleWrites_keeps_fresh _).bind fun _ => Keeps.upd fun _ h => h

theorem service_discards (v : Byte) (copy : Half) (ret : Word) : Ends Discarded (service v copy ret) := by
  have hlast : Ends Discarded (do push 4 (ret.setWidth 64); serialize) := Ends.bind fun _ => serialize_discards
  refine Ends.bind fun s0 => Ends.bind fun _ => Ends.bind fun s =>
    Ends.ite (Ends.bind fun _ => ?_) (Ends.bind fun _ => ?_)
  all_goals
    refine Ends.bind fun entry => Ends.ite (Ends.bind fun _ => hlast) ?_
    exact Ends.bind fun _ => Ends.bind fun _ => Ends.bind fun _ => Ends.bind fun _ => Ends.bind fun _ => hlast

/-! ### A whole instruction -/

/-- A completion of an instruction that is no string instruction and detected no overflow. -/
def Done.Simple (d : Done) : Prop := d.element = false ∧ d.unfinished = false ∧ d.overflow = false

/-- What a fetch looks at but for the overwritten bytes is the same. -/
structure SameCode (u w : State) : Prop where
  icache : w.icache = u.icache
  cfg : w.cfg = u.cfg
  mem : w.mem = u.mem
  platform : w.platform = u.platform

/-- What fetching carries on once the instruction has completed: a transfer of control begins a sequence (R140). -/
def Done.fetchUnit (d : Done) (t : State) : FetchUnit :=
  if d.target.isSome then t.fetchUnit.restart else t.fetchUnit

theorem Done.fetchUnit_prefetched (d : Done) (t : State) : (d.fetchUnit t).prefetched = t.fetchUnit.prefetched := by
  unfold Done.fetchUnit
  split <;> rfl

theorem Done.fetchUnit_cached (d : Done) (t : State) : (d.fetchUnit t).cached = t.fetchUnit.cached := by
  unfold Done.fetchUnit
  split <;> rfl

/-- An instruction completes with what its actions leave of instruction fetching. -/
theorem run_fetchUnit {sh : Shape} {body : M Done} {s : State} {P : State → Prop} (hs : s.plain = true)
    (hc : sh.check s = none) (hb : Reaches body s fun _ u => P u) (hd : Yields Done.Simple body) :
    Goes (run sh body s) fun w =>
      ∃ d u t, body s = .ok d t ∧ P u ∧ SameCode u w ∧ w.fetchUnit = d.fetchUnit t := by
  obtain ⟨d, u, t, hok, hsim, hP⟩ := hb s (Sim.refl (plain_pendingError hs))
  obtain ⟨he, hu, hv⟩ := hd s d t hok
  rw [run_complete hc hok hsim.pendingError, complete_next he hu hv]
  refine ⟨_, rfl, d, u, t, hok, hP, ?_, rfl⟩
  obtain ⟨wb, sc, fc, rf, -, rfl⟩ := hsim
  exact ⟨rfl, rfl, rfl, rfl⟩

/-- An instruction whose actions end in a serializing operation discards the prefetched bytes. -/
theorem run_discards {sh : Shape} {body : M Done} {s : State} {P : State → Prop} (hs : s.plain = true)
    (hc : sh.check s = none) (hb : Reaches body s fun _ u => P u) (hd : Yields Done.Simple body)
    (he : Ends Discarded body) :
    Goes (run sh body s) fun w => Discarded w ∧ ∃ u, P u ∧ SameCode u w := by
  refine (run_fetchUnit hs hc hb hd).mono fun w ⟨d, u, t, hok, hP, hsame, hf⟩ => ⟨?_, u, hP, hsame⟩
  obtain ⟨hpre, hseq⟩ := he s d t hok
  unfold Discarded
  rw [hf, Done.fetchUnit_prefetched]
  refine ⟨hpre, ?_⟩
  unfold Done.fetchUnit
  split
  · exact restart_sequence _
  · exact hseq

/-- Where the instruction cache is left with no overwritten byte either, a fetch delivers none. -/
theorem run_clears {sh : Shape} {body : M Done} {s : State} {P : State → Prop} (hs : s.plain = true)
    (hc : sh.check s = none) (hb : Reaches body s fun _ u => P u) (hd : Yields Done.Simple body)
    (he : Ends Discarded body) (hf : ∀ d t, body s = .ok d t → CacheFresh t) :
    Goes (run sh body s) fun w => staleBytes w = [] ∧ ∃ u, P u ∧ SameCode u w := by
  refine (run_fetchUnit hs hc hb hd).mono fun w ⟨d, u, t, hok, hP, hsame, hw⟩ => ⟨?_, u, hP, hsame⟩
  have hpre : t.fetchUnit.prefetched = [] := (he s d t hok).1
  have hcached : t.fetchUnit.cached = [] := hf d t hok
  rw [staleBytes, hw, Done.fetchUnit_prefetched, Done.fetchUnit_cached, hpre, hcached, ite_self, List.nil_append]

/-- An instruction that transfers control begins a sequence. -/
theorem run_restarts {sh : Shape} {body : M Done} {s : State} {P : State → Prop} (hs : s.plain = true)
    (hc : sh.check s = none) (hb : Reaches body s fun _ u => P u)
    (hd : Yields (fun d => Done.Simple d ∧ d.target.isSome = true) body) :
    Goes (run sh body s) fun w => w.fetchUnit.sequence ≠ .running := by
  refine (run_fetchUnit hs hc hb fun s d t h => (hd s d t h).1).mono fun w ⟨d, u, t, hok, _, _, hf⟩ => ?_
  rw [hf, Done.fetchUnit, if_pos (hd s d t hok).2]
  exact restart_sequence _

theorem takeException_ok {s t : State} {clearP clearI : Bool} {vector : M Byte} {ret : Word}
    (h : entryRun clearP clearI vector ret s = .ok () t) :
    takeException clearP clearI vector ret s = .next (entered s.refs.length t) := by
  unfold entryRun entryCopy at h
  simp only [takeException, h]

/-- A trap enters its exception, whose last action serializes (R110, R641). -/
theorem trap_discards {sh : Shape} {s : State} (k : TrapKind) (hs : s.plain = true) (hc : sh.check s = none) :
    Goes (run sh (stop (.trap k)) s) fun w => Discarded w ∧ w.icache = s.icache := by
  have hpe := plain_pendingError hs
  have hexc : run sh (stop (.trap k)) s = takeException k.clearsP false (pure k.vector) s.pc s := by
    have hsuspend : (suspend s s).pendingError = false := hpe
    simp only [run, finish, checked, hc, stop, takeTrap, enterException, hsuspend, Bool.false_eq_true, if_false]
    rfl
  have hstay : Stays (PlainCode s.icache s.cfg)
      (pure k.vector >>= fun v => service v (entryCopy k.clearsP s.psr) s.pc) :=
    (Stays.pure _).bind fun v => service_stays v _ _
  have hend : Ends Discarded (pure k.vector >>= fun v => service v (entryCopy k.clearsP s.psr) s.pc) :=
    Ends.bind fun v => service_discards v _ _
  obtain ⟨_, u, t, hok, hsim, -, hic, -⟩ := hstay { s with psr := entryPsr false (entryCopy k.clearsP s.psr) }
    (plainCode_self hs) _ (Sim.refl hpe)
  have ht : Discarded t := hend _ _ _ hok
  rw [hexc, takeException_ok hok]
  refine ⟨_, rfl, ht, ?_⟩
  obtain ⟨wb, sc, fc, rf, -, rfl⟩ := hsim
  exact hic

end Sys2Proof.Machine
end

section
/-! PROOF. What a fetch delivers, what makes new code bytes certain, and the status codes of fetches (R105, R110, R113,
R121 to R126, R140, R150). -/

namespace Sys2Proof.Machine

/-! ### Serializing instructions -/

theorem simple_of_target (t : Option Word) : Done.Simple { target := t } := ⟨rfl, rfl, rfl⟩

/-- A register operand read. -/
theorem readReg_stays {p : State → Prop} (k : RegNum) (n : Nat) : Stays p (readOp (.mode (.reg k)) n) :=
  have hread : readOp (.mode (.reg k)) n = readLoc n (.reg k) := rfl
  hread ▸ Stays.getS fun _ => Stays.pure _

theorem baseOp_tos : baseOp (.mode .tos) = do return .mem (← getS).sp := rfl

theorem check_basic (n : Nat) (s : State) : Shape.check { basic := n } s = none :=
  check_none rfl nofun (by simp) (.inl rfl) rfl rfl

theorem memReadLocked_stays {ic : Vector Line 32} {c : Word} (a : Word) : Stays (PlainCode ic c) (memReadLocked a) :=
  drain_stays.bind fun _ => Stays.getS fun _ => readRef_stays _ a 1

theorem memWriteLocked_stays {ic : Vector Line 32} {c : Word} (a : Word) (v : Quad) :
    Stays (PlainCode ic c) (memWriteLocked a v) :=
  Stays.getS fun _ => (writeRef_stays _ a 1 v).bind fun _ => serialize_stays

theorem memWriteLocked_discards (a : Word) (v : Quad) : Ends Discarded (memWriteLocked a v) :=
  Ends.bind fun _ => Ends.bind fun _ => serialize_discards

/-- The base of a bit on the stack is in memory. -/
theorem baseOp_tos_yields : Yields (fun b => ∃ a, b = Base.mem a) (baseOp (.mode .tos)) :=
  baseOp_tos ▸ Yields.bind fun _ => Yields.pure ⟨_, rfl⟩

section Instructions

variable {s : State} (hs : s.plain = true)
include hs

theorem nop_fetchUnit : Goes (exec .nop s) fun t => t.fetchUnit = s.fetchUnit := by
  refine (run_fetchUnit (P := fun _ => True) hs (check_basic 1 s) (Reaches.pure (a := ({} : Done)) trivial)
    (Yields.pure (simple_of_target none))).mono ?_
  rintro w ⟨_, u, _, ⟨⟩, -, -, hf⟩
  exact hf

theorem dia_discards : Goes (exec .dia s) fun t => Discarded t ∧ t.icache = s.icache := by
  refine (run_discards (P := PlainCode s.icache s.cfg) hs (check_basic 1 s)
    ((serialize_stays.bind fun _ => Stays.getS fun _ => Stays.pure _) s (plainCode_self hs))
    (Yields.bind fun _ => Yields.bind fun _ => Yields.pure (simple_of_target _))
    (serialize_discards.then_keeps fun _ => Keeps.getS.bind fun _ => Keeps.pure _)).mono ?_
  rintro w ⟨hw, u, ⟨-, hic, -⟩, hsame⟩
  exact ⟨hw, hsame.icache.trans hic⟩

theorem svc_discards : Goes (exec .svc s) fun t => Discarded t ∧ t.icache = s.icache :=
  trap_discards .svc hs (check_basic 1 s)

theorem catst0_discards (w : BitVec 16) : Goes (exec (.catst0 w) s) fun t => Discarded t ∧ t.icache = s.icache :=
  trap_discards .und hs (check_basic 3 s)

theorem lpr_upsr_discards (k : RegNum) : Goes (exec (.lpr .b .upsr (.mode (.reg k))) s) fun t =>
    Discarded t ∧ t.icache = s.icache ∧ t.cfg = s.cfg := by
  refine (run_discards (P := PlainCode s.icache s.cfg) hs (lpr_check rfl rfl (.inl rfl))
    (((readReg_stays k 1).bind fun v => ((updPsr_stays _).bind fun _ => serialize_stays).bind fun _ => Stays.pure _) s
      (plainCode_self hs))
    (Yields.bind fun _ => Yields.bind fun _ => Yields.pure (simple_of_target none))
    (Ends.bind fun v => (Ends.bind fun _ => serialize_discards).then_keeps fun _ => Keeps.pure _)).mono ?_
  rintro w ⟨hw, u, ⟨-, hic, hcfg⟩, hsame⟩
  exact ⟨hw, hsame.icache.trans hic, hsame.cfg.trans hcfg⟩

/-- An interlocked change of a bit in memory (R373, R375). -/
theorem testBit_locked_discards (f : Bool → Bool) (k : RegNum) :
    Goes (testBit true f .b (.mode (.reg k)) (.mode .tos) s) fun t => Discarded t ∧ t.icache = s.icache := by
  have hcheck : Shape.check { basic := 3, size := .b, ops := [rd (.mode (.reg k)) 1, ra (.mode .tos)] } s = none :=
    check_none rfl nofun (by simp [rd, ra]; exact ⟨rfl, rfl⟩) (.inl rfl) rfl rfl
  have hflags (b : Bool) : Keeps Discarded (updPsr (setF b)) := Keeps.updPsr fun _ h => h
  have hbase : Stays (PlainCode s.icache s.cfg) (baseOp (.mode .tos)) :=
    baseOp_tos ▸ Stays.getS fun _ => Stays.pure _
  refine (run_discards (P := PlainCode s.icache s.cfg) hs hcheck ?_ ?_ ?_).mono ?_
  · refine (((readReg_stays k 1).bind fun _ => Stays.pure _).bind fun o => hbase.bind_yields baseOp_tos_yields ?_) s
      (plainCode_self hs)
    rintro _ ⟨a, rfl⟩
    exact (memReadLocked_stays _).bind fun v => (memWriteLocked_stays _ _).bind fun _ => (updPsr_stays _).bind fun _ =>
      Stays.pure _
  · refine Yields.bind fun o => Yields.bind fun b => ?_
    cases b with
    | reg n =>
      exact Yields.bind fun _ => Yields.bind fun _ => Yields.bind fun _ => Yields.bind fun _ => Yields.bind fun _ =>
        Yields.pure (simple_of_target none)
    | mem a =>
      exact Yields.bind fun _ => Yields.bind fun _ => Yields.bind fun _ => Yields.pure (simple_of_target none)
  · refine Ends.bind fun o => Ends.bind_yields baseOp_tos_yields ?_
    rintro _ ⟨a, rfl⟩
    exact Ends.bind fun v => (memWriteLocked_discards _ _).then_keeps fun _ => (hflags _).bind fun _ => Keeps.pure _
  · rintro w ⟨hw, u, ⟨-, hic, -⟩, hsame⟩
    exact ⟨hw, hsame.icache.trans hic⟩

end Instructions

/-! ### Making new code bytes certain -/

theorem loadCfg_fresh (v : Word) {s : State} (h : CacheFresh s) : CacheFresh (loadCfg v s) := by
  have hcached : s.fetchUnit.cached = [] := h
  unfold CacheFresh loadCfg
  simp only []
  split
  · exact h
  · simp only [forgetCached, hcached, List.filter_nil]

theorem loadAReg_cfg_keeps_fresh (v : Quad) : Keeps CacheFresh (loadAReg .cfg v) :=
  (Keeps.stopIf _ _).bind fun _ => (settleWrites_keeps_fresh _).bind fun _ =>
    (Keeps.upd fun _ h => loadCfg_fresh _ h).bind fun _ => serialize_keeps_fresh

theorem loadAReg_cfg_discards (v : Quad) : Ends Discarded (loadAReg .cfg v) :=
  Ends.bind fun _ => Ends.bind fun _ => Ends.bind fun _ => serialize_discards

theorem readReg_keeps {p : State → Prop} (k : RegNum) (n : Nat) : Keeps p (readOp (.mode (.reg k)) n) :=
  have hread : readOp (.mode (.reg k)) n = readLoc n (.reg k) := rfl
  hread ▸ Keeps.getS.bind fun _ => Keeps.pure _

theorem slaveSend_plain (st : BitVec 5) (w : Word) (u : State) : Reaches (slaveSend st w) u fun _ u' => u' = u := by
  rintro _ ⟨wb, sc, fc, rf, hw, rfl⟩
  exact ⟨(), u, _, rfl, ⟨wb, sc, fc, _, hw, rfl⟩, rfl⟩

theorem invalidateCode_plain (v : Word) (u : State) :
    Reaches (upd (invalidateCode true v)) u fun _ u' => u' = { u with icache := icInvalidate u.icache } := by
  rintro _ ⟨wb, sc, fc, rf, hw, rfl⟩
  exact ⟨(), _, _, rfl, ⟨wb, (invalidateCode true v (u.book wb sc fc rf)).fetchUnit, fc, rf, hw, rfl⟩, rfl⟩

/-- Of the whole instruction cache no overwritten byte is left. -/
theorem invalidateCode_fresh (v : Word) : Ends CacheFresh (upd (invalidateCode true v)) := by
  rintro s _ _ ⟨⟩
  simp [CacheFresh, invalidateCode, forgetCached]

theorem invalidateData_plain (dc : Bool) (v : Word) (u : State) :
    Reaches (if dc then upd (invalidateData true v) else pure ()) u fun _ u' =>
      u'.icache = u.icache ∧ u'.mem = u.mem ∧ u'.platform = u.platform := by
  split
  · exact Reaches.upd (u' := invalidateData true v u) (fun _ _ _ _ => rfl) ⟨rfl, rfl, rfl⟩
  · exact Reaches.pure ⟨rfl, rfl, rfl⟩

theorem invalidateData_keeps_fresh (dc : Bool) (v : Word) :
    Keeps CacheFresh (if dc then upd (invalidateData true v) else pure ()) :=
  Keeps.ite (Keeps.upd fun _ h => h) (Keeps.pure _)

/-- The actions of CINV with A and I set and its operand in a register (R495). -/
def cinvActions (dc : Bool) (k : RegNum) : M Done := do
  let v ← readOp (.mode (.reg k)) 4
  slaveSend 0b11111#5 (broadcastWord (.cinv true true dc 0#1 (.mode (.reg k))))
  slaveSend 0b11101#5 (v.setWidth 32)
  drain
  upd (invalidateCode true (v.setWidth 32))
  let data : M Unit := if dc then upd (invalidateData true (v.setWidth 32)) else pure ()
  data
  serialize
  return {}

theorem exec_cinv_all (dc : Bool) (k : RegNum) (s : State) :
    exec (.cinv true true dc 0#1 (.mode (.reg k))) s
      = run { basic := 3, ops := [rd (.mode (.reg k)) 4], privileged := true } (cinvActions dc k) s := by
  cases dc <;> rfl

theorem cinvActions_plain {u : State} (h : u.ram = true) (dc : Bool) (k : RegNum) :
    Reaches (cinvActions dc k) u fun _ w =>
      w.icache = icInvalidate u.icache ∧ w.mem = u.mem ∧ w.platform = u.platform := by
  refine Reaches.bind (readOp_plain (a := .read) h rfl 4) ?_
  rintro _ _ ⟨rfl, rfl⟩
  refine Reaches.bind (slaveSend_plain _ _ _) ?_
  rintro _ _ rfl
  refine Reaches.bind (slaveSend_plain _ _ _) ?_
  rintro _ _ rfl
  refine Reaches.bind (drain_plain _) ?_
  rintro _ _ rfl
  refine Reaches.bind (invalidateCode_plain _ _) ?_
  rintro _ _ rfl
  refine Reaches.bind (invalidateData_plain dc _ _) ?_
  rintro _ w ⟨hic, hmem, hplat⟩
  refine Reaches.bind (serialize_plain w) ?_
  rintro _ _ rfl
  exact Reaches.pure ⟨hic, hmem, hplat⟩

theorem cinvActions_simple (dc : Bool) (k : RegNum) : Yields Done.Simple (cinvActions dc k) :=
  Yields.bind fun _ => Yields.bind fun _ => Yields.bind fun _ => Yields.bind fun _ => Yields.bind fun _ =>
    Yields.bind fun _ => Yields.bind fun _ => Yields.pure (simple_of_target none)

theorem cinvActions_discards (dc : Bool) (k : RegNum) : Ends Discarded (cinvActions dc k) :=
  Ends.bind fun _ => Ends.bind fun _ => Ends.bind fun _ => Ends.bind fun _ => Ends.bind fun _ =>
    Ends.bind fun _ => serialize_discards.then_keeps fun _ => Keeps.pure _

theorem cinvActions_fresh (dc : Bool) (k : RegNum) : Ends CacheFresh (cinvActions dc k) :=
  Ends.bind fun _ => Ends.bind fun _ => Ends.bind fun _ => Ends.bind fun _ =>
    (invalidateCode_fresh _).then_keeps fun _ => (invalidateData_keeps_fresh dc _).bind fun _ =>
      serialize_keeps_fresh.bind fun _ => Keeps.pure _

section Certain

variable {s : State} (hs : s.plain = true) (hsup : s.flagU = false)
include hs hsup

/-- Turning the instruction cache on or off brings no overwritten byte back (R113). -/
theorem lpr_cfg_clears (hfresh : CacheFresh s) {k : RegNum} (hr : s.reg k &&& 0xFFFFE004#32 = 0#32) :
    Goes (exec (.lpr .d .cfg (.mode (.reg k))) s) fun t => staleBytes t = [] := by
  have hv : ¬cfgRefused .cfg (lowBytes 4 ((s.reg k).setWidth 64)) := fun ⟨_, h⟩ => h (by rwa [setWidth_lowBytes_four])
  refine (run_clears (P := fun _ => True) hs (lpr_check rfl rfl (.inr hsup)) ?_
    (Yields.bind fun _ => Yields.bind fun _ => Yields.pure (simple_of_target none))
    (Ends.bind fun v => (loadAReg_cfg_discards v).then_keeps fun _ => Keeps.pure _) fun d t => keeps_ok
      ((readReg_keeps k 4).bind fun v => (loadAReg_cfg_keeps_fresh v).bind fun _ => Keeps.pure _) hfresh).mono
    fun _ h => h.1
  refine Reaches.bind (readOp_plain (a := .read) (plain_ram hs) rfl 4) ?_
  rintro _ _ ⟨rfl, rfl⟩
  exact (loadAReg_plain _ hv).bind fun _ _ _ => Reaches.pure trivial

/-- CINV of the whole instruction cache leaves no old byte to be fetched (R113, R495). -/
theorem cinv_clears (dc : Bool) (k : RegNum) : Goes (exec (.cinv true true dc 0#1 (.mode (.reg k))) s) fun t =>
    staleBytes t = [] ∧ t.icache = icInvalidate s.icache ∧ t.mem = s.mem ∧ t.platform = s.platform := by
  have hcheck : Shape.check { basic := 3, ops := [rd (.mode (.reg k)) 4], privileged := true } s = none :=
    check_none rfl nofun (by simp [rd]; rfl) (.inr hsup) rfl rfl
  rw [exec_cinv_all]
  refine (run_clears hs hcheck (cinvActions_plain (plain_ram hs) dc k) (cinvActions_simple dc k)
    (cinvActions_discards dc k) fun d t => cinvActions_fresh dc k s d t).mono ?_
  rintro w ⟨hstale, u, ⟨hic, hmem, hplat⟩, hsame⟩
  exact ⟨hstale, hsame.icache.trans hic, hsame.mem.trans hmem, hsame.platform.trans hplat⟩

end Certain

/-! ### Transfers of control -/

theorem check_disp {sh : Shape} {d : Disp} (hd : d.wf = true) (s : State) :
    Shape.check { sh with disp := some d } s = Shape.check { sh with disp := none } s := by
  simp [Shape.check, Shape.reservedDisp, hd]

section Transfers

variable {s : State} (hs : s.plain = true) {d : Disp} (hd : d.wf = true)
include hs

include hd in
theorem br_restarts : Goes (exec (.br d) s) fun t => t.fetchUnit.sequence ≠ .running :=
  run_restarts (P := PlainCode s.icache s.cfg) hs ((check_disp (sh := { basic := 1 }) hd s).trans (check_basic 1 s))
    ((Stays.getS fun _ => Stays.pure _) s (plainCode_self hs))
    (Yields.bind fun _ => Yields.pure ⟨simple_of_target _, rfl⟩)

include hd in
theorem bsr_restarts : Goes (exec (.bsr d) s) fun t => t.fetchUnit.sequence ≠ .running :=
  run_restarts (P := PlainCode s.icache s.cfg) hs ((check_disp (sh := { basic := 1 }) hd s).trans (check_basic 1 s))
    (((push_stays 4 _).bind fun _ => Stays.getS fun _ => Stays.pure _) s (plainCode_self hs))
    (Yields.bind fun _ => Yields.bind fun _ => Yields.pure ⟨simple_of_target _, rfl⟩)

include hd in
theorem jump_restarts : Goes (exec (.jump .d (.mode (.abs d))) s) fun t => t.fetchUnit.sequence ≠ .running := by
  have haddr : addrOp (.mode (.abs d)) = pure d.value := rfl
  have hcheck : Shape.check { basic := 2, size := .d, ops := [ad (.mode (.abs d))], reserved := conventional .d } s
      = none := check_none rfl nofun (by simpa [ad] using abs_legal hd .addr) (.inl rfl) rfl rfl
  exact run_restarts (P := PlainCode s.icache s.cfg) hs hcheck
    (((haddr ▸ Stays.pure _ : Stays _ (addrOp (.mode (.abs d)))).bind fun _ => Stays.pure _) s (plainCode_self hs))
    (Yields.bind fun _ => Yields.pure ⟨simple_of_target _, rfl⟩)

end Transfers

/-- Settles O58: a fetch answers one of its candidates; a serializing operation is the last action of each instruction
that discards prefetched bytes, and a transfer of control or a serializing operation begins a sequence. -/
theorem instructionFetch : Obligations.InstructionFetch := by
  intro s a n d
  refine ⟨fetchByte_mem s n a, fun hmiss hstale => fetchByte_miss n hmiss (staleAt_eq_nil hstale),
    fun c hit => ⟨icLookup_hit hit, fun hstale hm => fetchByte_hit n hit (staleAt_eq_nil hstale) hm⟩,
    icByte_icLookup_miss, fun b failed hram hb => ?_,
    fun hs => ⟨?_, fun hoff => ?_, fun hsup => ⟨?_, fun dc => ?_⟩⟩, ?_⟩
  · have hpre := prefetched_store failed hram hb
    exact ⟨hpre, mem_fetchCandidates_of_stale (List.mem_append_left _ hpre)⟩
  · intro u hu
    simp only [List.mem_cons, List.not_mem_nil, or_false] at hu
    rcases hu with rfl | rfl | rfl | rfl | rfl | rfl
    · exact (dia_discards hs).mono fun t ⟨ht, hic⟩ => ⟨ht.1, hic⟩
    · exact (lpr_upsr_discards hs 0#3).mono fun t ⟨ht, hic, _⟩ => ⟨ht.1, hic⟩
    · exact (catst0_discards hs _).mono fun t ⟨ht, hic⟩ => ⟨ht.1, hic⟩
    · exact (svc_discards hs).mono fun t ⟨ht, hic⟩ => ⟨ht.1, hic⟩
    · exact (testBit_locked_discards hs _ 0#3).mono fun t ⟨ht, hic⟩ => ⟨ht.1, hic⟩
    · exact (testBit_locked_discards hs _ 0#3).mono fun t ⟨ht, hic⟩ => ⟨ht.1, hic⟩
  · refine (lpr_upsr_discards hs 0#3).mono fun t ⟨ht, _, hcfg⟩ => ?_
    have hoff' : t.cfgIC = false := (congrArg (·.getLsbD 11) hcfg).trans hoff
    rw [staleBytes, ht.1, hoff']
    rfl
  · exact fun hfresh hr => lpr_cfg_clears hs hsup hfresh hr
  · refine (cinv_clears hs hsup dc 0#3).mono fun t ⟨hstale, hic, hmem, hplat⟩ => ?_
    have hmiss : icByte t a = none := icByte_of_invalid (fun k => hic ▸ icInvalidate_valid _ k) a
    have hbus : busByte t a = memGet s.mem a.toNat := by
      simp only [busByte, hplat, (ram_region (plain_ram hs) a).1, hmem]
    exact ⟨hstale, hmiss, (fetchByte_miss n hmiss (staleAt_eq_nil (by simp [hstale]))).trans hbus⟩
  · intro cycle
    refine ⟨fun hseq => ?_, fun hseq => ?_, rfl, fun hs => ⟨nop_fetchUnit hs, fun hd u hu => ?_⟩⟩
    · rw [fetchCycles_one, fetchStatus, if_neg hseq]
      rfl
    · rw [fetchCycles_one, fetchStatus, if_pos hseq]
      rfl
    · simp only [List.mem_cons, List.not_mem_nil, or_false] at hu
      rcases hu with rfl | rfl | rfl | rfl | rfl | rfl
      · exact br_restarts hs hd
      · exact bsr_restarts hs hd
      · exact (dia_discards hs).mono fun t ⟨ht, _⟩ => ht.2
      · exact (svc_discards hs).mono fun t ⟨ht, _⟩ => ht.2
      · exact (lpr_upsr_discards hs 0#3).mono fun t ⟨ht, _⟩ => ht.2
      · exact jump_restarts hs hd

end Sys2Proof.Machine
end

section
/-! SUPPORT. How many bytes each parser of the decoder takes and each format of the encoder gives (R180, R186, R200). -/

namespace Sys2Proof

/-! ### Lengths of operands and of formats -/

theorem Disp.length_bounds (d : Disp) : 1 ≤ d.length ∧ d.length ≤ 4 := by cases d <;> simp [Disp.length]

theorem Size.two_mul_bytes_le (i : Size) : 2 * i.bytes ≤ 8 := by cases i <;> decide

theorem FSize.bytes_le (f : FSize) : f.bytes ≤ 8 := by cases f <;> decide

theorem CSize.bytes_le (c : CSize) : c.bytes ≤ 8 := by cases c <;> decide

theorem Mode.extLength_le {n : Nat} (hn : n ≤ 8) (m : Mode) : m.extLength n ≤ 8 := by
  cases m with
  | reg | tos => exact Nat.zero_le _
  | imm => exact hn
  | regRel _ d | abs d | space _ d =>
    have := d.length_bounds
    simp only [Mode.extLength]
    omega
  | memRel _ d1 d2 | ext d1 d2 =>
    have := d1.length_bounds
    have := d2.length_bounds
    simp only [Mode.extLength]
    omega

theorem Gen.length_le {n : Nat} (hn : n ≤ 8) (g : Gen) : g.length n ≤ 9 := by
  cases g with
  | mode m => exact Nat.le_succ_of_le (m.extLength_le hn)
  | idx _ _ m => exact Nat.add_le_add_left (m.extLength_le hn) 1
  | reserved => exact Nat.zero_le 9
  | idxBad => exact Nat.le_add_left 1 8

theorem tail2_length (n1 : Nat) (g1 : Gen) (n2 : Nat) (g2 : Gen) :
    (tail2 n1 g1 n2 g2).length = g1.length n1 + g2.length n2 := by
  rw [← Machine.tail1_length, ← Machine.tail1_length]
  simp only [tail1, tail2, List.length_append]
  omega

theorem encTwo_length (b : Byte) (op : BitVec 4) (i : BitVec 2) (n1 : Nat) (g1 : Gen) (n2 : Nat) (g2 : Gen) :
    (encTwo b op i n1 g1 n2 g2).length = 3 + (g1.length n1 + g2.length n2) := by
  rw [encTwo, List.length_append, tail2_length]
  rfl

theorem enc4_length (op : BitVec 4) (i : Size) (n1 : Nat) (g1 : Gen) (n2 : Nat) (g2 : Gen) :
    (enc4 op i n1 g1 n2 g2).length = 2 + (g1.length n1 + g2.length n2) := by
  rw [enc4, List.length_append, tail2_length]
  rfl

theorem encG_length (op : BitVec 4) (i : Size) (n : Nat) (g : Gen) : (encG op i n g).length = 2 + g.length n := by
  rw [encG, List.length_append, Machine.tail1_length]
  rfl

theorem encTwo_disp_length (b : Byte) (op : BitVec 4) (i : BitVec 2) (n1 : Nat) (g1 : Gen) (n2 : Nat) (g2 : Gen)
    (d : Disp) : (encTwo b op i n1 g1 n2 g2 ++ d.encode).length = 3 + (g1.length n1 + g2.length n2) + d.length := by
  rw [List.length_append, encTwo_length, Machine.Disp.encode_length]

theorem encTwo_byte_length (b : Byte) (op : BitVec 4) (i : BitVec 2) (n1 : Nat) (g1 : Gen) (n2 : Nat) (g2 : Gen)
    (c : Byte) : (encTwo b op i n1 g1 n2 g2 ++ [c]).length = 3 + (g1.length n1 + g2.length n2) + 1 := by
  rw [List.length_append, encTwo_length]
  rfl

theorem encQ_disp_length (op : BitVec 3) (q : BitVec 4) (i : Size) (g : Gen) (d : Disp) :
    (encQ op q i g ++ d.encode).length = 2 + g.length i.bytes + d.length := by
  rw [List.length_append, Machine.encQ_length, Machine.Disp.encode_length]

/-- The length of a one-byte basic instruction with a displacement. -/
theorem cons_disp_length (b : Byte) (d : Disp) : (b :: d.encode).length = 1 + d.length := by
  rw [List.length_cons, Machine.Disp.encode_length, Nat.add_comm]

/-- The length of a three-byte instruction with one operand. -/
theorem enc3_tail1_length (b : Byte) (w : BitVec 16) (n : Nat) (g : Gen) :
    (enc3 b w ++ tail1 n g).length = 3 + g.length n := by
  rw [List.length_append, Machine.tail1_length]
  rfl

/-! ### What the parsers of operands take -/

/-- The parser answers a value, and has taken as many bytes as `len` says. -/
def Takes {α : Type} (len : α → Nat) (bs : List Byte) (p : Parse α) : Prop :=
  ∃ x rest, p = .ok (x, rest) ∧ len x + rest.length = bs.length

theorem parseDisp_takes {bs : List Byte} (h : 4 ≤ bs.length) : Takes Disp.length bs (parseDisp bs) := by
  obtain ⟨b0, b1, b2, b3, r, rfl⟩ : ∃ b0 b1 b2 b3 r, bs = b0 :: b1 :: b2 :: b3 :: r := by
    match bs, h with
    | b0 :: b1 :: b2 :: b3 :: r, _ => exact ⟨b0, b1, b2, b3, r, rfl⟩
  unfold parseDisp
  dsimp only
  split
  · exact ⟨_, _, rfl, Nat.add_comm 1 _⟩
  · split
    · exact ⟨_, _, rfl, Nat.add_comm 2 _⟩
    · exact ⟨_, _, rfl, Nat.add_comm 4 _⟩

theorem parseImm_takes {n : Nat} {bs : List Byte} (h : n ≤ bs.length) (acc : Quad) :
    Takes (fun _ => n) bs (parseImm n acc bs) := by
  induction n generalizing bs acc with
  | zero => exact ⟨acc, bs, rfl, Nat.zero_add _⟩
  | succ n ih =>
    cases bs with
    | nil => exact absurd h (by simp)
    | cons b bs =>
      obtain ⟨v, r, hv, hr⟩ := ih (Nat.le_of_succ_le_succ h) ((acc <<< 8) ||| b.setWidth 64)
      exact ⟨v, r, hv, (Nat.succ_add n _).trans (congrArg Nat.succ hr)⟩

theorem ext1_takes {n : Nat} {bs : List Byte} {k : Disp → Mode} (h : 4 ≤ bs.length)
    (hk : ∀ d, (k d).extLength n = d.length) : Takes (Mode.extLength n) bs (ext1 k bs) := by
  obtain ⟨d, r, hd, hr⟩ := parseDisp_takes h
  exact ⟨k d, r, by simp only [ext1, hd], by rw [hk, hr]⟩

theorem ext2_takes {n : Nat} {bs : List Byte} {k : Disp → Disp → Mode} (h : 8 ≤ bs.length)
    (hk : ∀ d1 d2, (k d1 d2).extLength n = d1.length + d2.length) : Takes (Mode.extLength n) bs (ext2 k bs) := by
  obtain ⟨d1, r1, h1, hr1⟩ := parseDisp_takes (show 4 ≤ bs.length by omega)
  have := d1.length_bounds
  obtain ⟨d2, r2, h2, hr2⟩ := parseDisp_takes (show 4 ≤ r1.length by omega)
  exact ⟨k d1 d2, r2, by simp only [ext2, h1, ext1, h2], by rw [hk]; omega⟩

theorem parseMode_takes {n : Nat} {bs : List Byte} (hn : n ≤ 8) (h : 8 ≤ bs.length) (code : BitVec 5) :
    Takes (Mode.extLength n) bs (parseMode n code bs) := by
  have h4 : 4 ≤ bs.length := by omega
  unfold parseMode
  split
  · exact ⟨_, bs, rfl, Nat.zero_add _⟩
  split
  · exact ext1_takes h4 fun _ => rfl
  split
  case h_4 =>
    obtain ⟨v, r, hv, hr⟩ := parseImm_takes (show n ≤ bs.length by omega) 0#64
    exact ⟨.imm v, r, by simp only [hv], hr⟩
  case h_1 | h_2 | h_3 | h_6 => exact ext2_takes h fun _ _ => rfl
  case h_5 | h_7 | h_8 | h_9 | h_10 => exact ext1_takes h4 fun _ => rfl
  case h_11 => exact ⟨.tos, bs, rfl, Nat.zero_add _⟩

/-- The bytes of a gen field that come before the extensions: the index byte (R202). -/
def GenHead.length : GenHead → Nat
  | .plain _ => 0
  | .indexed _ _ _ => 1

theorem GenHead.length_le (h : GenHead) : h.length ≤ 1 := by cases h <;> simp [GenHead.length]

theorem parseHead_takes {bs : List Byte} (h : 1 ≤ bs.length) (code : BitVec 5) :
    Takes GenHead.length bs (parseHead code bs) := by
  unfold parseHead
  split
  · cases bs with
    | nil => exact absurd h (by simp)
    | cons x r => exact ⟨_, r, rfl, Nat.add_comm 1 _⟩
  · exact ⟨_, bs, rfl, Nat.zero_add _⟩

/-- The extension of a gen field, its index byte already taken (R180). -/
theorem parseExt_takes {n : Nat} {bs : List Byte} (hn : n ≤ 8) (h : 8 ≤ bs.length) (hd : GenHead) :
    ∃ g rest, parseExt n hd bs = .ok (g, rest) ∧ g.length n + rest.length = hd.length + bs.length := by
  cases hd with
  | plain code =>
    simp only [parseExt]
    split
    · exact ⟨.reserved, bs, rfl, rfl⟩
    · obtain ⟨m, r, hm, hr⟩ := parseMode_takes hn h code
      exact ⟨.mode m, r, by simp only [hm], by simp only [Gen.length, GenHead.length]; omega⟩
  | indexed sc k base =>
    simp only [parseExt]
    split
    · exact ⟨.idxBad sc k base, bs, rfl, rfl⟩
    · obtain ⟨m, r, hm, hr⟩ := parseMode_takes hn h base
      exact ⟨.idx sc k m, r, by simp only [hm], by simp only [Gen.length, GenHead.length]; omega⟩

end Sys2Proof
end

section
/-! PROOF. Every format of the decoder, and so the decode tree, takes the bytes of the instruction it answers, 1 to 25 of
them (R180 to R228). -/

namespace Sys2Proof

/-! ### What is left to decode -/

/-- The parser answers an instruction of 1 to 25 bytes, and has taken those from the `n` bytes there were. -/
def Decodes (n : Nat) (p : Parse Instr) : Prop :=
  ∃ i rest, p = .ok (i, rest) ∧ (encode i).length + rest.length = n ∧ 1 ≤ (encode i).length
    ∧ (encode i).length ≤ maxLength

section Ends

variable {b : Nat} (hb : 1 ≤ b) {bs : List Byte}
include hb

theorem fin_decodes {i : Instr} (hi : (encode i).length = b) (hmax : b ≤ 25) : Decodes (b + bs.length) (fin i bs) :=
  ⟨i, bs, rfl, congrArg (· + bs.length) hi, hi ▸ hb, hi ▸ hmax⟩

theorem withDisp_decodes {k : Disp → Instr} (hmax : b ≤ 21) (hbs : 4 ≤ bs.length)
    (hk : ∀ d, (encode (k d)).length = b + d.length) : Decodes (b + bs.length) (withDisp k bs) := by
  obtain ⟨d, r, hd, hr⟩ := parseDisp_takes hbs
  have hlen := hk d
  have := d.length_bounds
  exact ⟨k d, r, by simp only [withDisp, hd], by omega, by omega, hlen ▸ by unfold maxLength; omega⟩

theorem withByte_decodes {k : Byte → Instr} (hmax : b ≤ 24) (hbs : 1 ≤ bs.length)
    (hk : ∀ c, (encode (k c)).length = b + 1) : Decodes (b + bs.length) (withByte k bs) := by
  cases bs with
  | nil => exact absurd hbs (by simp)
  | cons c r =>
    have hlen := hk c
    exact ⟨k c, r, rfl, by rw [hlen, List.length_cons]; omega, by omega, hlen ▸ by unfold maxLength; omega⟩

end Ends

/-! ### Operands -/

section Operands

variable {b n n1 n2 : Nat} {c c1 c2 : BitVec 5} {bs : List Byte}

/-- After one operand its bytes have been taken; what follows has to decode the rest. -/
theorem one_decodes {k : Gen → List Byte → Parse Instr} (hn : n ≤ 8) (hbs : 9 ≤ bs.length)
    (hk : ∀ g r, g.length n ≤ 9 → bs.length ≤ r.length + 9 → Decodes (b + g.length n + r.length) (k g r)) :
    Decodes (b + bs.length) (one n c bs k) := by
  obtain ⟨h, r, hh, hr⟩ := parseHead_takes (show 1 ≤ bs.length by omega) c
  have hh1 : h.length ≤ 1 := h.length_le
  obtain ⟨g, r', hg, hr'⟩ := parseExt_takes hn (show 8 ≤ r.length by omega) h
  have hlen := g.length_le hn
  have hleft : b + bs.length = b + g.length n + r'.length := by omega
  rw [one, hh]
  simp only [hg, hleft]
  exact hk g r' hlen (by omega)

/-- After two operands their bytes have been taken; what follows has to decode the rest. -/
theorem two_decodes {k : Gen → Gen → List Byte → Parse Instr} (hn1 : n1 ≤ 8) (hn2 : n2 ≤ 8) (hbs : 18 ≤ bs.length)
    (hk : ∀ g1 g2 r, g1.length n1 + g2.length n2 ≤ 18 → bs.length ≤ r.length + 18 →
      Decodes (b + (g1.length n1 + g2.length n2) + r.length) (k g1 g2 r)) :
    Decodes (b + bs.length) (two n1 n2 c1 c2 bs k) := by
  obtain ⟨h1, r1, hh1, hr1⟩ := parseHead_takes (show 1 ≤ bs.length by omega) c1
  have hone1 : h1.length ≤ 1 := h1.length_le
  obtain ⟨h2, r2, hh2, hr2⟩ := parseHead_takes (show 1 ≤ r1.length by omega) c2
  have hone2 : h2.length ≤ 1 := h2.length_le
  obtain ⟨g1, r3, hg1, hr3⟩ := parseExt_takes hn1 (show 8 ≤ r2.length by omega) h1
  have hlen1 := g1.length_le hn1
  obtain ⟨g2, r4, hg2, hr4⟩ := parseExt_takes hn2 (show 8 ≤ r3.length by omega) h2
  have hlen2 := g2.length_le hn2
  have hleft : b + bs.length = b + (g1.length n1 + g2.length n2) + r4.length := by omega
  rw [two, hh1]
  simp only [hh2, hg1, hg2, hleft]
  exact hk g1 g2 r4 (by omega) (by omega)

variable (hb : 1 ≤ b) (hmax : b ≤ 3) (hbs : 22 ≤ bs.length)
include hb hmax hbs

/-- One operand, and nothing after it. -/
theorem one_fin_decodes {I : Gen → Instr} (hn : n ≤ 8) (hI : ∀ g, (encode (I g)).length = b + g.length n) :
    Decodes (b + bs.length) (one n c bs fun g => fin (I g)) :=
  one_decodes hn (by omega) fun g _ hg _ => fin_decodes (by omega) (hI g) (by omega)

/-- Two operands, and nothing after them. -/
theorem two_fin_decodes {I : Gen → Gen → Instr} (hn1 : n1 ≤ 8) (hn2 : n2 ≤ 8)
    (hI : ∀ g1 g2, (encode (I g1 g2)).length = b + (g1.length n1 + g2.length n2)) :
    Decodes (b + bs.length) (two n1 n2 c1 c2 bs fun g1 g2 => fin (I g1 g2)) :=
  two_decodes hn1 hn2 (by omega) fun g1 g2 _ hg _ => fin_decodes (by omega) (hI g1 g2) (by omega)

/-- Two operands and an implied displacement (R208). -/
theorem two_withDisp_decodes {I : Gen → Gen → Disp → Instr} (hn1 : n1 ≤ 8) (hn2 : n2 ≤ 8)
    (hI : ∀ g1 g2 d, (encode (I g1 g2 d)).length = b + (g1.length n1 + g2.length n2) + d.length) :
    Decodes (b + bs.length) (two n1 n2 c1 c2 bs fun g1 g2 => withDisp (I g1 g2)) :=
  two_decodes hn1 hn2 (by omega) fun g1 g2 _ hg hr => withDisp_decodes (by omega) (by omega) (by omega) (hI g1 g2)

/-- Two operands and an implied byte (R208). -/
theorem two_withByte_decodes {I : Gen → Gen → Byte → Instr} (hn1 : n1 ≤ 8) (hn2 : n2 ≤ 8)
    (hI : ∀ g1 g2 c, (encode (I g1 g2 c)).length = b + (g1.length n1 + g2.length n2) + 1) :
    Decodes (b + bs.length) (two n1 n2 c1 c2 bs fun g1 g2 => withByte (I g1 g2)) :=
  two_decodes hn1 hn2 (by omega) fun g1 g2 _ hg hr => withByte_decodes (by omega) (by omega) (by omega) (hI g1 g2)

end Operands

/-! ### The formats -/

section Formats

variable {bs : List Byte}

theorem decode5_decodes (w : BitVec 16) : Decodes (3 + bs.length) (decode5 w bs) := by
  unfold decode5
  dsimp only
  repeat' split
  all_goals exact fin_decodes (by decide) rfl (by decide)

variable (h : 22 ≤ bs.length)
include h

theorem decode0_decodes (c : BitVec 4) : Decodes (1 + bs.length) (decode0 c bs) := by
  unfold decode0
  split
  all_goals exact withDisp_decodes le_rfl (by decide) (by omega) fun d => cons_disp_length _ d

theorem decode1_decodes (op : BitVec 4) : Decodes (1 + bs.length) (decode1 op bs) := by
  unfold decode1
  split
  case h_1 | h_2 | h_3 | h_4 | h_5 =>
    exact withDisp_decodes le_rfl (by decide) (by omega) fun d => cons_disp_length _ d
  case h_7 | h_8 | h_10 => exact withByte_decodes le_rfl (by decide) (by omega) fun _ => rfl
  case h_9 =>
    match bs, h with
    | m :: r, h =>
      have hr : 21 ≤ r.length := Nat.le_of_succ_le_succ h
      have hleft : 1 + (m :: r).length = 2 + r.length := by rw [List.length_cons]; omega
      rw [hleft]
      refine withDisp_decodes (by decide) (by decide) (by omega) fun d => ?_
      exact (congrArg Nat.succ (cons_disp_length m d)).trans (by omega)
  all_goals exact fin_decodes le_rfl rfl (by decide)

theorem decode6_decodes (w : BitVec 16) : Decodes (3 + bs.length) (decode6 w bs) := by
  have hi := (Size.ofBits (OpWord.ofBits w).i).two_mul_bytes_le
  unfold decode6
  dsimp only
  split
  case h_15 => exact fin_decodes (by decide) rfl (by decide)
  all_goals
    exact two_fin_decodes (by decide) (by decide) h (by omega) (by omega) fun _ _ => encTwo_length ..

theorem decode7_decodes (w : BitVec 16) : Decodes (3 + bs.length) (decode7 w bs) := by
  have hi := (Size.ofBits (OpWord.ofBits w).i).two_mul_bytes_le
  unfold decode7
  dsimp only
  split
  case h_1 | h_2 =>
    exact two_withDisp_decodes (by decide) (by decide) h (by omega) (by omega) fun _ _ _ => encTwo_disp_length ..
  case h_3 | h_4 =>
    exact two_withByte_decodes (by decide) (by decide) h (by omega) (by omega) fun _ _ _ => encTwo_byte_length ..
  case h_16 => exact fin_decodes (by decide) rfl (by decide)
  all_goals
    exact two_fin_decodes (by decide) (by decide) h (by omega) (by omega) fun _ _ => encTwo_length ..

theorem decode8_decodes (op1 : BitVec 2) (w : BitVec 16) : Decodes (3 + bs.length) (decode8 op1 w bs) := by
  have hi := (Size.ofBits (OpWord.ofBits w).i).two_mul_bytes_le
  have htwo {n1 n2 : Nat} {I : Gen → Gen → Instr} (hn1 : n1 ≤ 8) (hn2 : n2 ≤ 8)
      (hI : ∀ g1 g2, (encode (I g1 g2)).length = 3 + (g1.length n1 + g2.length n2)) :
      Decodes (3 + bs.length) (two n1 n2 (OpWord.ofBits w).g1 (OpWord.ofBits w).g2 bs fun g1 g2 => fin (I g1 g2)) :=
    two_fin_decodes (by decide) (by decide) h hn1 hn2 hI
  unfold decode8
  dsimp only
  split
  case h_1 | h_3 =>
    exact two_withDisp_decodes (by decide) (by decide) h (by omega) (by omega) fun _ _ _ => encTwo_disp_length ..
  case h_2 | h_4 | h_5 | h_6 => exact htwo (by omega) (by omega) fun _ _ => encTwo_length ..
  case h_7 =>
    split
    · exact htwo (by decide) (by decide) fun _ _ => encTwo_length ..
    split
    · exact htwo (by decide) (by decide) fun _ _ => encTwo_length ..
    · exact fin_decodes (by decide) rfl (by decide)
  case h_8 => exact fin_decodes (by decide) rfl (by decide)

theorem decode9_decodes (w : BitVec 16) : Decodes (3 + bs.length) (decode9 w bs) := by
  have hi := (Size.ofBits (OpWord.ofBits w).i).two_mul_bytes_le
  have hf := (FSize.ofBit (w.getLsbD 2)).bytes_le
  unfold decode9
  dsimp only
  split
  case h_2 | h_7 =>
    exact one_fin_decodes (by decide) (by decide) h (by decide) fun _ => enc3_tail1_length ..
  all_goals
    exact two_fin_decodes (by decide) (by decide) h (by omega) (by omega) fun _ _ => encTwo_length ..

theorem decode11_decodes (w : BitVec 16) : Decodes (3 + bs.length) (decode11 w bs) := by
  have hf := (FSize.ofBit (w.getLsbD 0)).bytes_le
  unfold decode11
  dsimp only
  split
  all_goals exact two_fin_decodes (by decide) (by decide) h hf hf fun _ _ => encTwo_length ..

theorem decode12_decodes (w : BitVec 16) : Decodes (3 + bs.length) (decode12 w bs) := by
  have hf := (FSize.ofBit (w.getLsbD 0)).bytes_le
  unfold decode12
  dsimp only
  split
  all_goals exact two_fin_decodes (by decide) (by decide) h hf hf fun _ _ => encTwo_length ..

theorem decode14_decodes (w : BitVec 16) : Decodes (3 + bs.length) (decode14 w bs) := by
  unfold decode14
  split
  · exact fin_decodes (by decide) rfl (by decide)
  · exact one_fin_decodes (by decide) (by decide) h (by decide) fun _ => enc3_tail1_length ..

theorem decode150_decodes (w : BitVec 16) : Decodes (3 + bs.length) (decode150 w bs) := by
  unfold decode150
  dsimp only
  split
  case h_3 | h_4 =>
    exact one_fin_decodes (by decide) (by decide) h (by decide) fun _ => enc3_tail1_length ..
  all_goals exact fin_decodes (by decide) rfl (by decide)

theorem decode151_decodes (w : BitVec 16) : Decodes (3 + bs.length) (decode151 w bs) := by
  have hi := (Size.ofBits (OpWord.ofBits w).i).two_mul_bytes_le
  have hc := (CSize.ofBit (w.getLsbD 2)).bytes_le
  unfold decode151
  dsimp only
  split
  case h_2 | h_7 =>
    exact one_fin_decodes (by decide) (by decide) h (by decide) fun _ => enc3_tail1_length ..
  all_goals
    exact two_fin_decodes (by decide) (by decide) h (by omega) (by omega) fun _ _ => encTwo_length ..

theorem decode155_decodes (w : BitVec 16) : Decodes (3 + bs.length) (decode155 w bs) := by
  have hc := (CSize.ofBit (w.getLsbD 0)).bytes_le
  unfold decode155
  dsimp only
  split
  all_goals exact two_fin_decodes (by decide) (by decide) h hc hc fun _ _ => encTwo_length ..

theorem decode2_decodes (w : BitVec 16) : Decodes (2 + bs.length) (decode2 w bs) := by
  have hi := (Size.ofBits (w.extractLsb' 0 2)).two_mul_bytes_le
  unfold decode2
  dsimp only
  split
  case h_5 =>
    exact one_decodes (by omega) (by omega) fun g r hg hr =>
      withDisp_decodes (by omega) (by omega) (by omega) fun _ => encQ_disp_length ..
  all_goals
    exact one_fin_decodes (by decide) (by decide) h (by omega) fun _ => Machine.encQ_length ..

theorem decode3_decodes (w : BitVec 16) : Decodes (2 + bs.length) (decode3 w bs) := by
  have hi := (Size.ofBits (w.extractLsb' 0 2)).two_mul_bytes_le
  unfold decode3
  dsimp only
  split
  case h_8 => exact fin_decodes (by decide) rfl (by decide)
  all_goals exact one_fin_decodes (by decide) (by decide) h (by omega) fun _ => encG_length ..

theorem decode4_decodes (w : BitVec 16) : Decodes (2 + bs.length) (decode4 w bs) := by
  have hi := (Size.ofBits (OpWord.ofBits w).i).two_mul_bytes_le
  unfold decode4
  dsimp only
  split
  all_goals exact two_fin_decodes (by decide) (by decide) h (by omega) (by omega) fun _ _ => enc4_length ..

/-! ### The decode tree -/

theorem decodeE_decodes (hi : BitVec 4) (w : BitVec 16) : Decodes (3 + bs.length) (decodeE hi w bs) := by
  unfold decodeE
  split
  case h_1 => exact decode5_decodes w
  case h_2 => exact decode14_decodes h w
  case h_3 | h_7 | h_11 | h_15 => exact decode8_decodes h _ w
  case h_4 => exact decode9_decodes h w
  case h_5 => exact decode6_decodes h w
  case h_12 => exact decode11_decodes h w
  case h_13 => exact decode7_decodes h w
  case h_16 => exact decode12_decodes h w
  case h_6 | h_8 | h_9 | h_10 | h_14 => exact fin_decodes (by decide) rfl (by decide)

theorem decode15_decodes (nnn : BitVec 3) (w : BitVec 16) : Decodes (3 + bs.length) (decode15 nnn w bs) := by
  unfold decode15
  split
  case h_1 => exact decode150_decodes h w
  case h_2 => exact decode151_decodes h w
  case h_6 => exact decode155_decodes h w
  all_goals exact fin_decodes (by decide) rfl (by decide)

end Formats

/-- A basic part of three bytes: its first two after the first are the operation word (R181). -/
theorem withOpWord_decodes {bs : List Byte} (h : 24 ≤ bs.length) {k : BitVec 16 → List Byte → Parse Instr}
    (hk : ∀ w r, 22 ≤ r.length → Decodes (3 + r.length) (k w r)) : Decodes (1 + bs.length) (withOpWord bs k) := by
  match bs, h with
  | b1 :: b2 :: r, h =>
    have hleft : 1 + (b1 :: b2 :: r).length = 3 + r.length := by simp only [List.length_cons]; omega
    exact hleft ▸ hk _ r (Nat.le_of_succ_le_succ (Nat.le_of_succ_le_succ h))

/-- A basic part of two bytes (R181). -/
theorem withHalf_decodes {bs : List Byte} (h : 24 ≤ bs.length) (b : Byte) {k : BitVec 16 → List Byte → Parse Instr}
    (hk : ∀ w r, 22 ≤ r.length → Decodes (2 + r.length) (k w r)) : Decodes (1 + bs.length) (withHalf b bs k) := by
  match bs, h with
  | b1 :: r, h =>
    have hleft : 1 + (b1 :: r).length = 2 + r.length := by rw [List.length_cons]; omega
    exact hleft ▸ hk _ r (Nat.le_of_succ_le (Nat.le_of_succ_le_succ h))

theorem decode_cons_decodes (b : Byte) {bs : List Byte} (h : 24 ≤ bs.length) :
    Decodes (1 + bs.length) (decode (b :: bs)) := by
  have h22 : 22 ≤ bs.length := by omega
  have hshort : Decodes (1 + bs.length) (withHalf b bs (if b.extractLsb' 4 3 == 0b111#3 then decode3 else decode2)) :=
    withHalf_decodes h b fun w r hr => by
      split
      · exact decode3_decodes hr w
      · exact decode2_decodes hr w
  unfold decode
  dsimp only
  split
  case h_1 => exact decode0_decodes h22 _
  case h_2 => exact decode1_decodes h22 _
  case h_3 =>
    split
    · exact withOpWord_decodes h fun w r hr => decode15_decodes hr _ w
    · exact fin_decodes le_rfl rfl (by decide)
  case h_4 => exact withOpWord_decodes h fun w r hr => decodeE_decodes hr _ w
  case h_5 | h_6 | h_7 => exact hshort
  case h_8 => exact withHalf_decodes h b fun w r hr => decode4_decodes hr w

/-- The longest instruction has 25 bytes (R186), so that 25 bytes always hold one, whatever they are. -/
theorem decode_decodes {bs : List Byte} (h : maxLength ≤ bs.length) : Decodes bs.length (decode bs) := by
  match bs, h with
  | b :: bs, h => exact List.length_cons ▸ Nat.add_comm 1 bs.length ▸ decode_cons_decodes b (Nat.le_of_succ_le_succ h)

/-- Settles O3: every arm of the decode tree takes the bytes of the instruction it answers. -/
theorem decodeTotal : Obligations.DecodeTotal := by
  intro bs h
  obtain ⟨i, rest, hok, -, hpos, hmax⟩ := decode_decodes h
  exact ⟨i, rest, hok, hpos, hmax⟩

/-- Settles O4: the decoder run on the words. -/
theorem decodeWords : Obligations.DecodeWords := ⟨rfl, rfl, rfl, rfl, rfl⟩

end Sys2Proof
end

section
/-! SUPPORT. A trap in a state whose memory is RAM: the service sequence completes and leaves what `entryState` says (R620,
R641, R644). -/

namespace Sys2Proof.Machine

theorem Reaches.of_true {α : Type} {c : Prop} [Decidable c] {m m' : M α} {u : State} {Q : α → State → Prop} (hc : c)
    (h : Reaches m u Q) : Reaches (if c then m else m') u Q := (if_pos hc).symm ▸ h

theorem Reaches.of_false {α : Type} {c : Prop} [Decidable c] {m m' : M α} {u : State} {Q : α → State → Prop} (hc : ¬c)
    (h : Reaches m' u Q) : Reaches (if c then m else m') u Q := (if_neg hc).symm ▸ h

theorem setPc_plain {u : State} (h : u.ram = true) (x : Word) :
    Reaches (upd fun s => { s with pc := x }) u fun _ w => w = { u with pc := x } ∧ w.ram = true :=
  Reaches.upd (fun _ _ _ _ => rfl) ⟨rfl, h⟩

theorem setMod_plain {u : State} (h : u.ram = true) (x : Half) :
    Reaches (upd fun s => { s with mod := x }) u fun _ w => w = { u with mod := x } ∧ w.ram = true :=
  Reaches.upd (fun _ _ _ _ => rfl) ⟨rfl, h⟩

theorem setSb_plain {u : State} (h : u.ram = true) (x : Word) :
    Reaches (upd fun s => { s with sb := x }) u fun _ w => w = { u with sb := x } ∧ w.ram = true :=
  Reaches.upd (fun _ _ _ _ => rfl) ⟨rfl, h⟩

theorem lowerSp_plain {u : State} (h : u.ram = true) (n : Word) :
    Reaches (upd fun s => s.setSp (s.sp - n)) u fun _ w => w = u.setSp (u.sp - n) ∧ w.ram = true :=
  setSp_upd (fun s => s.sp - n) (fun _ _ _ _ => rfl) ⟨rfl, (State.setSp_ram u _).trans h⟩

/-- The return address pushed, and the serializing operation that ends the service sequence (R641 steps 6 and 7). -/
theorem pushReturn_plain {u : State} (h : u.ram = true) (ret : Word) :
    Reaches (do push 4 (ret.setWidth 64); serialize) u fun _ w => w = u.pushed 4 (ret.setWidth 64) := by
  refine Reaches.bind (push_plain h 4 _) ?_
  rintro _ _ rfl
  exact serialize_plain _

/-- The service sequence leaves what `entryState` says, but for the operating state and the marks of an entry. -/
theorem service_plain {s : State} (h : s.ram = true) (clearI : Bool) (v : Byte) (copy : Half) (ret : Word) :
    Reaches (service v copy ret) { s with psr := entryPsr clearI copy } fun _ w =>
      { w with op := .executing, midString := false, afterException := true } = entryState clearI v copy ret s := by
  generalize hu : ({ s with psr := entryPsr clearI copy } : State) = u
  have hram : u.ram = true := hu ▸ h
  have hcfg : u.cfgDE = s.cfgDE := hu ▸ rfl
  have hbase : u.intbase = s.intbase := hu ▸ rfl
  have hmod : u.mod = s.mod := hu ▸ rfl
  refine Reaches.getS fun wb sc fc rf => Reaches.bind (push_plain hram 2 _) ?_
  rintro _ _ rfl
  have h1 : (u.pushed 2 (copy.setWidth 64)).ram = true := (State.pushed_ram u 2 _).trans hram
  refine Reaches.getS fun wb' sc' fc' rf' => ?_
  cases hde : s.cfgDE with
  | true =>
    have hdirect : u.cfgDE = true := hcfg.trans hde
    refine Reaches.of_true hdirect (Reaches.bind (lowerSp_plain h1 2#32) ?_)
    rintro _ _ ⟨rfl, h2⟩
    refine Reaches.bind (memRead32_plain h2 _) ?_
    rintro _ _ ⟨rfl, rfl⟩
    refine Reaches.of_true hdirect (Reaches.bind (setPc_plain h2 _) ?_)
    rintro _ _ ⟨rfl, h3⟩
    refine (pushReturn_plain h3 ret).mono ?_
    rintro _ _ rfl
    simp only [entryState, entryPushed, hu, hde, if_true]
    rw [← hbase]
    rfl
  | false =>
    have hmodular : ¬u.cfgDE = true := by simp [hcfg, hde]
    refine Reaches.of_false hmodular (Reaches.bind (push_plain h1 2 _) ?_)
    rintro _ _ rfl
    have h2 := (State.pushed_ram (u.pushed 2 (copy.setWidth 64)) 2 (u.mod.setWidth 64)).trans h1
    simp only [State.book_mod, State.pushed_mod]
    refine Reaches.bind (memRead32_plain h2 _) ?_
    rintro _ _ ⟨rfl, rfl⟩
    refine Reaches.of_false hmodular (Reaches.bind (setMod_plain h2 _) ?_)
    rintro _ _ ⟨rfl, h3⟩
    refine Reaches.bind (memRead32_plain h3 _) ?_
    rintro _ _ ⟨rfl, rfl⟩
    refine Reaches.bind (setPc_plain h3 _) ?_
    rintro _ _ ⟨rfl, h4⟩
    refine Reaches.bind (memRead32_plain h4 _) ?_
    rintro _ _ ⟨rfl, rfl⟩
    refine Reaches.bind (setSb_plain h4 _) ?_
    rintro _ _ ⟨rfl, h5⟩
    refine (pushReturn_plain h5 ret).mono ?_
    rintro _ _ rfl
    simp only [entryState, entryPushed, hu, hde, Bool.false_eq_true, if_false]
    rw [← hbase, ← hmod]
    rfl

theorem entryState_dcr (clearI : Bool) (v : Byte) (copy : Half) (ret : Word) (s : State) :
    (entryState clearI v copy ret s).dcr = s.dcr := by
  cases hde : s.cfgDE <;> simp [entryState, entryPushed, hde]

/-- An exception taken leaves what `entryState` says (R620, R641, R644). -/
theorem takeException_agrees {s : State} (hs : s.plain = true) (clearP clearI : Bool) (v : Byte) (ret : Word) :
    Goes (takeException clearP clearI (pure v) ret s)
      (Agrees s (entryState clearI v (entryCopy clearP s.psr) ret s)) := by
  obtain ⟨⟨⟩, u, t, hok, hsim, he⟩ := service_plain (plain_ram hs) clearI v (entryCopy clearP s.psr) ret _
    (Sim.refl (plain_pendingError hs))
  have hrun : entryRun clearP clearI (pure v) ret s = .ok () t := hok
  rw [takeException_ok hrun]
  have hdcr : u.dcr = s.dcr := (congrArg State.dcr he).trans (entryState_dcr ..)
  obtain ⟨wb, sc, fc, rf, -, rfl⟩ := hsim
  unfold entered commitRefs
  obtain ⟨x, b, hx, hm, hd⟩ := commitDebug_eq (u.book wb sc fc rf).debugRegs
    ((rf.drop s.refs.length).any ((u.book wb sc fc rf).debugRegs.hit false))
    ((rf.drop s.refs.length).any ((u.book wb sc fc rf).debugRegs.hit true)) false
    { u.book wb sc fc rf with op := .executing, midString := false, elementRefs := [], afterException := true }
  refine ⟨_, congrArg Host.Outcome.next hx, ?_⟩
  rw [← he]
  refine ⟨rfl, hm, fun hden => ?_⟩
  have hden' : (u.book wb sc fc rf).debugRegs.dcr.getLsbD 23 = false := (congrArg (·.getLsbD 23) hdcr).trans hden
  exact hd (hit_disabled hden' _ _) (hit_disabled hden' _ _) rfl

/-- A trap taken by an instruction that has done nothing (R602, R620). -/
theorem takeTrap_agrees {s : State} (hs : s.plain = true) (k : TrapKind) :
    Goes (takeTrap s k s) (Agrees s (entryState false k.vector (entryCopy k.clearsP s.psr) s.pc s)) := by
  unfold takeTrap enterException
  rw [if_neg (by simp [plain_pendingError hs])]
  exact takeException_agrees hs k.clearsP false k.vector s.pc

/-- An instruction that fails a check with a trap takes it (R242). -/
theorem traps_of_check {I : Instr} {sh : Shape} {body : M Done} {s : State} {k : TrapKind} (hs : s.plain = true)
    (hexec : exec I s = run sh body s) (hc : sh.check s = some (.trap k)) : Traps I s k := by
  have hrun : run sh body s = takeTrap s k s := by
    simp only [run, finish, checked, hc]
    rfl
  unfold Traps
  rw [hexec, hrun]
  exact takeTrap_agrees hs k

end Sys2Proof.Machine
end

section
/-! PROOF. Trap (UND) for an operand that its class does not allow and for the integer length 10 (R240, R241, R242). -/

namespace Sys2Proof.Machine

theorem check_und_of_illegal {sh : Shape} {s : State} (h : sh.ops.any Operand.illegal = true) :
    sh.check s = some (.trap .und) := by
  simp [Shape.check, h]

theorem check_und_of_size {sh : Shape} {s : State} (h : sh.size = .u) : sh.check s = some (.trap .und) := by
  simp [Shape.check, h]

/-- A mode that no source may have is one that no operand may have. -/
theorem illegal_of_read {g : Gen} (h : Operand.illegal ⟨g, .read, 0⟩ = true) (a : Access) (n : Nat) :
    Operand.illegal ⟨g, a, n⟩ = true := by
  cases g with
  | mode m => cases m <;> exact absurd h (by simp [Operand.illegal])
  | reserved | idx | idxBad => exact h

/-- What no destination may be, an Immediate among them, no operand but a source may be. -/
theorem illegal_of_write {g : Gen} (h : Operand.illegal ⟨g, .write, 0⟩ = true) {a : Access} (ha : a ≠ .read) (n : Nat) :
    Operand.illegal ⟨g, a, n⟩ = true := by
  cases g with
  | mode m =>
    cases m with
    | imm v => exact decide_eq_true ha
    | _ => exact absurd h (by simp [Operand.illegal])
  | reserved | idx | idxBad => exact h

theorem any_of_or {o1 o2 : Operand} (h : o1.illegal = true ∨ o2.illegal = true) : [o1, o2].any Operand.illegal = true := by
  simpa using h

section Illegal

variable {s : State} (hs : s.plain = true) {I : Instr} {sh : Shape} {body : M Done} (hexec : exec I s = run sh body s)
include hs hexec

theorem traps_of_illegal (h : sh.ops.any Operand.illegal = true) : Traps I s .und :=
  traps_of_check hs hexec (check_und_of_illegal h)

theorem traps_of_size (h : sh.size = .u) : Traps I s .und := traps_of_check hs hexec (check_und_of_size h)

end Illegal

/-- An unassigned slave opcode has a source and a second operand of some class, whatever its note (R230). -/
theorem slot_run (note : SlotNote) (set : SlaveSet) (i : Instr) (r : Option Refusal) (t : SlaveType) (g1 g2 : Gen)
    (s : State) :
    ∃ a sh body, slot note set i r t g1 g2 s = run sh body s ∧ sh.ops = [rd g1 t.bytes, ⟨g2, a, t.bytes⟩] := by
  cases note with
  | likeMov => exact ⟨.write, _, _, rfl, rfl⟩
  | likeAdd => exact ⟨.rmw, _, _, rfl, rfl⟩
  | likeCmp => exact ⟨.read, _, _, rfl, rfl⟩

/-- An unassigned slave opcode takes the trap for an operand that not even a source may be (R241). -/
theorem slot_traps {note : SlotNote} {set : SlaveSet} {I : Instr} {r : Option Refusal} {t : SlaveType} {g1 g2 : Gen}
    {s : State} (hs : s.plain = true) (hexec : exec I s = slot note set I r t g1 g2 s)
    (h : Operand.illegal ⟨g1, .read, 0⟩ = true ∨ Operand.illegal ⟨g2, .read, 0⟩ = true) : Traps I s .und := by
  obtain ⟨a, sh, body, hrun, hops⟩ := slot_run note set I r t g1 g2 s
  refine traps_of_illegal hs (hexec.trans hrun) ?_
  rw [hops]
  exact any_of_or (h.imp (illegal_of_read · _ _) (illegal_of_read · _ _))

/-- Settles O17: each instruction is its checks and its actions; the operands and the size that it checks say that it
takes the trap. The size 10 is made a variable, so that comparing an instruction with its checks and actions does not
run them. -/
theorem illegalOperandTraps : Obligations.IllegalOperandTraps := by
  intro s i g1 g2 q d r f c o short pad p p5 x k n3 a cond ca ci cd ii hs bad badDest
  have hread {g : Gen} {a : Access} {n : Nat} (h : bad g) : Operand.illegal ⟨g, a, n⟩ = true := illegal_of_read h a n
  have hwrite {g : Gen} {a : Access} {n : Nat} (ha : a ≠ .read) (h : badDest g) : Operand.illegal ⟨g, a, n⟩ = true :=
    illegal_of_write h ha n
  simp only [List.forall_mem_cons, List.not_mem_nil, false_imp_iff, implies_true, and_true]
  refine ⟨fun h => ?_, fun h => ?_, fun h => ?_, fun h => ?_, fun h => ?_, fun h => ?_, fun h => ?_⟩
  · have hops {a : Access} {n1 n2 : Nat} (ha : a ≠ .read) : [rd g1 n1, ⟨g2, a, n2⟩].any Operand.illegal = true :=
      any_of_or (h.imp hread (hwrite ha))
    and_intros
    all_goals exact traps_of_illegal hs rfl (hops nofun)
  · have hops {n1 n2 : Nat} : [rd g1 n1, rd g2 n2].any Operand.illegal = true := any_of_or (h.imp hread hread)
    refine ⟨?_, ?_, ?_, ?_, ?_, ?_, ?_, slot_traps hs rfl h, ?_, ?_, slot_traps hs rfl h⟩
    all_goals exact traps_of_illegal hs rfl hops
  · have hops {a1 a2 : Access} {n1 n2 : Nat} (h1 : a1 ≠ .read) (h2 : a2 ≠ .read) :
        [Operand.mk g1 a1 n1, ⟨g2, a2, n2⟩].any Operand.illegal = true := any_of_or (h.imp (hwrite h1) (hwrite h2))
    and_intros
    all_goals exact traps_of_illegal hs rfl (hops nofun nofun)
  · exact traps_of_illegal hs rfl (any_of_or (h.imp (hwrite nofun) hread))
  · have hops {n : Nat} : [Operand.mk g1 .read n].any Operand.illegal = true := by
      simpa using hread (n := n) h
    and_intros
    all_goals exact traps_of_illegal hs rfl hops
  · have hops {a : Access} {n : Nat} (ha : a ≠ .read) : [Operand.mk g1 a n].any Operand.illegal = true := by
      simpa using hwrite ha h
    and_intros
    all_goals exact traps_of_illegal hs rfl (hops nofun)
  · have hfield : forwardedSize (x.setWidth 2) = .u := if_pos h
    have hten : forwardedSize 2#2 = .u := rfl
    generalize hnone : Size.u = none at hfield hten ⊢
    generalize 2#2 = ten at hten ⊢
    and_intros
    all_goals exact traps_of_size hs rfl (by simp only [hnone, hfield, hten])

end Sys2Proof.Machine
end

section
/-! PROOF. The encodings to which the spec gives no effect: what an instruction whose operands pass its checks is refused
for, before it acts or while it acts, and a fetch from the reserved region (R242 to R244; logs 6, 10 to 15, 19, 39). -/

namespace Sys2Proof.Machine

/-! ### The last check -/

/-- With operands that their classes allow, no reserved displacement and supervisor mode, only the refusal of the
instruction itself is left of the checks (R242). -/
theorem check_of_allowed {sh : Shape} {s : State} (hsup : s.flagU = false) (hslave : s.slaveDisabled sh.slave = false)
    (hsize : sh.size ≠ .u) (hops : ∀ o ∈ sh.ops, legal o.access o.gen = true) (hdisp : sh.disp.all Disp.wf = true) :
    sh.check s = sh.reserved.map .refuse := by
  have hillegal : sh.ops.any Operand.illegal = false :=
    List.any_eq_false.mpr fun o ho => by simp [illegal_of_legal (hops o ho)]
  have hmodes : (sh.ops.any fun o => genReservedDisp o.gen) = false :=
    List.any_eq_false.mpr fun o ho => by simp [reservedDisp_of_legal (hops o ho)]
  have hreserved : sh.reservedDisp = false := by
    unfold Shape.reservedDisp
    rw [hmodes]
    cases hd : sh.disp with
    | none => rfl
    | some d => simpa [hd] using hdisp
  simp [Shape.check, hslave, hsize, hillegal, hsup, hreserved]

/-- The refusal of an instruction itself (U12, U24). -/
theorem run_reserved {sh : Shape} {body : M Done} {s : State} {r : Refusal} (hsup : s.flagU = false)
    (hslave : s.slaveDisabled sh.slave = false) (hsize : sh.size ≠ .u)
    (hops : ∀ o ∈ sh.ops, legal o.access o.gen = true) (hdisp : sh.disp.all Disp.wf = true)
    (hres : sh.reserved = some r) : run sh body s = .refused r := by
  have hc : sh.check s = some (.refuse r) := by
    rw [check_of_allowed hsup hslave hsize hops hdisp, hres]
    rfl
  simp only [run, finish, checked, hc]

/-- A displacement of the reserved form (R201, D9). -/
theorem run_reservedDisp {n : Nat} {d : Disp} {body : M Done} {s : State} (hd : d.wf = false) :
    run { basic := n, disp := some d } body s = .refused .reservedDisplacement := by
  have hc : Shape.check { basic := n, disp := some d } s = some (.refuse .reservedDisplacement) := by
    simp [Shape.check, State.slaveDisabled, Shape.reservedDisp, hd]
  simp only [run, finish, checked, hc]

theorem legal_nil : ∀ x ∈ ([] : List Operand), legal x.access x.gen = true := List.forall_mem_nil _

theorem legal_one {o : Operand} (h : legal o.access o.gen = true) : ∀ x ∈ [o], legal x.access x.gen = true := by
  simpa using h

theorem legal_two {o1 o2 : Operand} (h1 : legal o1.access o1.gen = true) (h2 : legal o2.access o2.gen = true) :
    ∀ x ∈ [o1, o2], legal x.access x.gen = true := by
  simpa using ⟨h1, h2⟩

/-- What may be addressed may be the base of a bit field (R260, R268). -/
theorem legal_regaddr {g : Gen} (h : legal .addr g = true) : legal .regaddr g = true := by
  cases g with
  | mode m => cases m <;> exact h
  | reserved | idx | idxBad => exact h

/-- Register mode is allowed in every class (R241); that it has no address is found later (U14). -/
theorem legal_reg (a : Access) (k : RegNum) : legal a (.mode (.reg k)) = true := by cases a <;> rfl

theorem refuseIf_true {b : Bool} (r : Refusal) (h : b = true) : refuseIf b r = some r := if_pos h

theorem refuseIf_ne {i j : Size} (r : Refusal) (h : i ≠ j) : refuseIf (i != j) r = some r :=
  refuseIf_true r (bne_iff_ne.mpr h)

theorem padZero_ne {n : Nat} {p : BitVec n} (h : p ≠ 0#n) : padZero p = some .dontCareBits :=
  refuseIf_true _ (bne_iff_ne.mpr h)

/-! ### An address that is in a register -/

/-- An instruction that begins with the address of a register is refused there (U14). -/
theorem run_registerAddress {sh : Shape} {k : RegNum} {f : Word → M Done} {s : State} (hc : sh.check s = none) :
    run sh (do f (← addrOp (.mode (.reg k)))) s = .refused .registerAddress :=
  run_refused (t := s) hc rfl

/-! ### CFG -/

theorem src_reg_setWidth (s : State) (k : RegNum) : ((src s 4 (.mode (.reg k))).setWidth 32 : Word) = s.reg k :=
  setWidth_lowBytes_four (s.reg k)

/-! ### Fetching from the reserved region -/

theorem anyFrom_of_first {p : Word → Bool} {a : Word} {n : Nat} (hn : 1 ≤ n) (h : p a = true) : anyFrom p a n = true := by
  cases n with
  | zero => exact absurd hn (by decide)
  | succ n => simp [anyFrom, h]

theorem neededBytes_pos (s : State) (b : Byte) {n : Nat} (hn : 1 ≤ n) : 1 ≤ neededBytes s b n := by
  unfold neededBytes
  split
  · decide
  · exact hn

/-- At least the first byte of an instruction is needed (D11). -/
theorem runInstruction_reservedFetch {s : State} (h : reservedAddress s.pc = true) :
    runInstruction s = .refused .reservedFetch := by
  obtain ⟨i, rest, hok, hlen, hpos, -⟩ :=
    decode_decodes (bs := fetchFrom (begin s) (begin s).pc maxLength) (fetchFrom_length ..).ge
  rw [fetchFrom_length] at hlen
  unfold runInstruction
  simp only [hok]
  exact if_pos (anyFrom_of_first (neededBytes_pos _ _ (by omega)) h)

theorem step_reservedFetch {s : State} (hs : s.plain = true) (hin : s.inputs = []) (hop : s.op = .executing)
    (hevent : pendingEvent s = none) (htrace : pendingTrace s = none) (h : reservedAddress s.pc = true) :
    step s = .refused .reservedFetch := by
  have hinput : applyInput s = s := by simp [applyInput, hin]
  simp only [step, cycle, hinput, hop, executingStep, reporting_none _ (plain_pendingError hs), hevent, htrace]
  exact runInstruction_reservedFetch h

/-! ### The encodings -/

/-- Settles O18: each encoding passes the checks before the one that refuses it, or is refused where its address is
taken, its source read or its bytes fetched. -/
theorem reservedEncodingsRefused : Obligations.ReservedEncodingsRefused := by
  intro s i g1 g2 r o d k a hs hsup hi hread hwrite haddr
  have hregaddr := legal_regaddr haddr
  refine ⟨?_, ?_, rfl, rfl, rfl, ?_, ?_, ?_, ?_, ?_, ?_, ?_, ?_, ?_, ?_, ?_, ?_, ?_, ?_, ?_, ?_, ?_, ?_, ?_, ?_⟩
  -- A reserved string option, and an `i` field that selects nothing (U12).
  · exact fun h => run_reserved hsup rfl hi legal_nil rfl (if_pos h)
  · intro h
    have hres := refuseIf_ne .unconventionalSize h
    exact ⟨run_reserved hsup rfl hi (legal_one haddr) rfl hres, run_reserved hsup rfl hi (legal_one haddr) rfl hres,
      run_reserved hsup rfl hi (legal_one haddr) rfl hres, run_reserved hsup rfl hi (legal_two haddr hwrite) rfl hres,
      run_reserved hsup rfl hi (legal_two haddr hwrite) rfl hres⟩
  -- Register mode where an address is taken (U14); JUMP, JSR and CXPD have no other operand and just run.
  · exact run_registerAddress (check_of_allowed hsup rfl nofun (legal_two (legal_reg ..) hwrite) rfl)
  · exact run_registerAddress (check_of_allowed hsup rfl nofun (legal_two (legal_reg ..) hwrite) rfl)
  · exact run_registerAddress (check_of_allowed hsup rfl hi (legal_two (legal_reg ..) hread) rfl)
  · exact run_registerAddress (check_of_allowed hsup rfl hi (legal_two (legal_reg ..) haddr) rfl)
  · exact run_registerAddress (check_of_allowed hsup rfl hi (legal_two (legal_reg ..) haddr) rfl)
  -- Blocks, odd pairs and field lengths (U15, U16, U21).
  · intro h hd
    have hres := refuseIf_true .blockLength (b := !blockOk i d) (by simp [h])
    exact ⟨run_reserved hsup rfl hi (legal_two haddr haddr) hd hres,
      run_reserved hsup rfl hi (legal_two haddr haddr) hd hres⟩
  · intro h
    have hres := refuseIf_true .oddPair (b := oddRegister (.mode (.reg k))) h
    exact ⟨run_reserved hsup rfl hi (legal_two hread (legal_reg ..)) rfl hres,
      run_reserved hsup rfl hi (legal_two hread (legal_reg ..)) rfl hres⟩
  · intro h hd
    have hres := refuseIf_true .fieldLength (b := !lengthOk d) (by simp [h])
    exact ⟨run_reserved hsup rfl hi (legal_two hregaddr hwrite) hd hres,
      run_reserved hsup rfl hi (legal_two hread hregaddr) hd hres⟩
  -- Dedicated registers (U12, U24).
  · intro h
    have hres : procRegRefusal i a = some .reservedAreg := if_pos h
    exact ⟨run_reserved hsup rfl hi (legal_one hread) rfl hres, run_reserved hsup rfl hi (legal_one hwrite) rfl hres⟩
  · intro h hne
    have hres : procRegRefusal i a = some .procRegSize :=
      (if_neg (ne_true_of_eq_false h)).trans (refuseIf_ne .procRegSize hne)
    exact ⟨run_reserved hsup rfl hi (legal_one hread) rfl hres, run_reserved hsup rfl hi (legal_one hwrite) rfl hres⟩
  · exact run_reserved hsup rfl nofun (legal_one hread) rfl rfl
  · exact run_reserved hsup rfl nofun (legal_one hread) rfl rfl
  -- The reserved displacement and the reserved bits of CFG (D9, U3).
  · exact run_reservedDisp
  · exact fun short h => run_reserved hsup rfl nofun legal_nil rfl (if_pos h)
  · exact fun h => lpr_refused hs (legal_reg ..) rfl (.inr hsup) ⟨rfl, (src_reg_setWidth s k).symm ▸ h⟩
  -- Sizes that the extending moves do not have (U12).
  · intro h
    have hres := refuseIf_ne .extendSize h
    exact ⟨run_reserved hsup rfl hi (legal_two hread hwrite) rfl hres,
      run_reserved hsup rfl hi (legal_two hread hwrite) rfl hres⟩
  · exact run_reserved hsup rfl nofun (legal_two hread hwrite) rfl rfl
  · exact run_reserved hsup rfl nofun (legal_two hread hwrite) rfl rfl
  -- Bits that the encoding writes as 0 (R244).
  · intro f c short p6 p5 p3 x m n b hshort h6 h5 h3 hx
    have hsize : forwardedSize (x.setWidth 2) ≠ .u := by simp [forwardedSize, hx]
    have hone : padZero 1#1 = some .dontCareBits := rfl
    refine ⟨?_, run_reserved hsup rfl nofun (legal_one hread) rfl hone,
      run_reserved hsup rfl nofun legal_nil rfl (refuseIf_true _ (bne_iff_ne.mpr h6)), fun hrmw => ?_,
      fun hf => ⟨?_, ?_⟩, fun hc => ⟨?_, ?_⟩⟩
    · exact run_reserved hsup rfl nofun legal_nil rfl ((if_neg (ne_true_of_eq_false hshort)).trans (padZero_ne h6))
    · exact run_reserved hsup rfl hi (legal_two hread hrmw) rfl (refuseIf_true _ (bne_iff_ne.mpr h3))
    · exact run_reserved hsup (congrArg not hf) hsize (legal_one hread) rfl (padZero_ne h5)
    · exact run_reserved hsup (congrArg not hf) nofun (legal_two hread hwrite) rfl hone
    · exact run_reserved hsup (congrArg not hc) hsize (legal_one hwrite) rfl (padZero_ne h5)
    · exact run_reserved hsup (congrArg not hc) nofun (legal_two hread hwrite) rfl hone
  · exact step_reservedFetch hs

end Sys2Proof.Machine
end

section
/-! SUPPORT. References on a board of RAM on which reads end well and writes may not (R82, R83, R625): what they leave,
and the service sequence in Direct-Exception mode (R641). -/

namespace Sys2Proof.Machine

/-! ### The bytes of a value, stored and loaded -/

theorem getLsbD_ofBytes_toBytes (n : Nat) (v : Quad) {k : Nat} (hk : k < 64) :
    (ofBytes (toBytes n v)).getLsbD k = (decide (k < 8 * n) && v.getLsbD k) := by
  induction n generalizing v k with
  | zero => simp [toBytes, ofBytes]
  | succ n ih =>
    simp only [toBytes, ofBytes, BitVec.getLsbD_or, BitVec.getLsbD_shiftLeft, BitVec.getLsbD_setWidth, hk, decide_true,
      Bool.true_and]
    by_cases hlow : k < 8
    · simp [hlow, show k < 8 * (n + 1) by omega]
    · rw [ih (v >>> 8) (show k - 8 < 64 by omega)]
      simp [hlow, show 8 + (k - 8) = k by omega, show k - 8 < 8 * n ↔ k < 8 * (n + 1) by omega]

/-- A double-word is its four bytes (R81). -/
theorem ofBytes_toBytes_four (w : Word) : ofBytes (toBytes 4 (w.setWidth 64)) = w.setWidth 64 := by
  refine BitVec.eq_of_getLsbD_eq fun k hk => ?_
  rw [getLsbD_ofBytes_toBytes 4 _ hk]
  by_cases h : k < 32
  · simp [h]
  · simp [BitVec.getLsbD_of_ge w k (by omega)]

/-- A double-word stored is the double-word loaded (R82, R83). -/
theorem load_put_same {s : State} (hm : Memory.wf s.mem = true) (a w : Word) :
    (s.put a 4 (w.setWidth 64)).load a 4 = w.setWidth 64 := by
  have hbytes :
      bytesFrom (fun x => memGet (s.put a 4 (w.setWidth 64)).mem x.toNat) a 4 = toBytes 4 (w.setWidth 64) := by
    rw [bytesFrom_eq_map]
    refine List.ext_getElem? fun k => ?_
    rw [getElem?_toBytes]
    by_cases hk : k < 4
    · have hoff : (a + BitVec.ofNat 32 k - a).toNat = k := by bv_omega
      rw [List.getElem?_map, List.getElem?_range hk, Option.map_some, State.put_mem,
        memGet_storeBytes (fun _ => rfl) hm (by simp), byteAt_toBytes, hoff, if_pos hk, Option.getD_some]
    · rw [List.getElem?_map, List.getElem?_eq_none (by simpa using hk), if_neg hk, Option.map_none]
  rw [State.load, hbytes, ofBytes_toBytes_four]

/-- Bytes stored leave what is loaded from elsewhere (R83). -/
theorem load_put_other {s : State} (hm : Memory.wf s.mem = true) {a b : Word} {n m : Nat} (hn : n ≤ 4294967295)
    (v : Quad) (h : ∀ k, k < m → n ≤ (b + BitVec.ofNat 32 k - a).toNat) : (s.put a n v).load b m = s.load b m := by
  unfold State.load
  rw [bytesFrom_eq_map, bytesFrom_eq_map]
  refine congrArg ofBytes (List.map_congr_left fun k hk => ?_)
  rw [State.put_mem, memGet_storeBytes (fun _ => rfl) hm (by simpa using hn), byteAt_toBytes,
    if_neg (h k (List.mem_range.mp hk)).not_gt, Option.getD_none]

/-! ### Actions without references -/

theorem Refers.getS {β : Type} {k : State → M β} {u : State} {rs : List Ref} {Q : β → State → Prop}
    (hk : ∀ wb sc fc rf, Refers (k (u.book wb sc fc rf)) u rs Q) : Refers (Machine.getS >>= k) u rs Q := by
  rintro _ ⟨wb, sc, fc, rf, hw, rfl⟩
  exact hk wb sc fc rf _ ⟨wb, sc, fc, rf, hw, rfl⟩

theorem Refers.of_true {α : Type} {c : Prop} [Decidable c] {m m' : M α} {u : State} {rs : List Ref}
    {Q : α → State → Prop} (hc : c) (h : Refers m u rs Q) : Refers (if c then m else m') u rs Q :=
  (if_pos hc).symm ▸ h

/-- An action without references, and what follows it. -/
theorem Refers.bind_silent {α β : Type} {m : M α} {k : α → M β} {u : State} {rs : List Ref} {P : α → State → Prop}
    {Q : β → State → Prop} (h : Refers m u [] P) (hk : ∀ a u', P a u' → Refers (k a) u' rs Q) :
    Refers (m >>= k) u rs Q := Refers.bind h hk

theorem lowerSp_refers (u : State) (n : Word) :
    Refers (upd fun s => s.setSp (s.sp - n)) u [] fun _ w => w = u.setSp (u.sp - n) :=
  Refers.upd (fun _ _ _ _ => setSp_book ..) rfl

theorem serialize_refers (u : State) : Refers serialize u [] fun _ w => w = u := by
  intro t ht
  obtain ⟨_, u', t', hok, hsim, rfl⟩ := serialize_plain u t ht
  obtain ⟨_, t1, hdrain, hdiscard⟩ := bind_ok hok
  obtain ⟨wb, rfl⟩ := settleWrites_ok hdrain
  cases hdiscard
  exact ⟨_, _, _, hok, hsim, (List.append_nil _).symm, rfl⟩

/-! ### A board on which reads end well -/

/-- RAM everywhere, the data cache off, no read ends in a bus error; a write may (R89, R148, R625). -/
structure ReadSound (u : State) : Prop where
  cacheOff : u.cfgDC = false
  noReplies : u.busReplies = []
  ram : ∀ a, (regionAt u.platform a).kind = .ram
  reads : ∀ a, (regionAt u.platform a).readError = false

/-- No bus cycle of a write of `n` bytes at an address ends in a bus error. -/
def WriteSound (p : List Region) (a : Word) (n : Nat) : Prop := anyFrom (fun x => (regionAt p x).writeError) a n = false

theorem ReadSound.of_eq {u t : State} (h : ReadSound u) (hc : t.cfg = u.cfg) (hb : t.busReplies = u.busReplies)
    (hp : t.platform = u.platform) : ReadSound t := by
  obtain ⟨hcache, hreplies, hram, hreads⟩ := h
  exact ⟨(congrArg (·.getLsbD 9) hc).trans hcache, hb.trans hreplies, hp ▸ hram, hp ▸ hreads⟩

/-- Where looking up a double-word changes nothing, every byte of a reference is read in the same state. -/
theorem mem_views_of_fixed {look : State → Word → State} {s : State} (h : ∀ x, look s x = s) {a : Word} {n : Nat}
    {e : Word × State} (he : e ∈ views look s a n) : e.2 = s :=
  views_keep (p := (· = s)) (fun t _ _ ht => by rw [ht, h]) rfl e he

theorem storeBytes_kind {p : List Region} (hp : ∀ a, (regionAt p a).kind = .ram) (m : List Host.Cell) (a : Word)
    (bs : List Byte) : storeBytes p m a bs = storeBytes [] m a bs := by
  induction bs generalizing m a with
  | nil => rfl
  | cons b rest ih =>
    have hbyte : storeByte p m a b = storeByte [] m a b := (if_pos (hp a)).trans (if_pos rfl).symm
    rw [storeBytes, storeBytes, ih, hbyte]

/-- The state after the bus cycles of a write, in which one may have failed (R83, R101). -/
def writeMade (k : RefKind) (a : Word) (n : Nat) (v : Quad) (failed : Bool) (s : State) : State :=
  store { s with refs := s.refs ++ [.mem k.status a n true k.user k.interlocked v] } a (toBytes n v) failed

section Board

variable {u : State} (h : ReadSound u)
include h

theorem ReadSound.regionOf_eq (a : Word) : regionOf u a = regionAt u.platform a := by simp [regionOf, h.noReplies]

theorem ReadSound.useReply_eq : useReply u = u := by
  have hb := h.noReplies
  cases u
  simp_all [useReply]

theorem ReadSound.readCycle_eq (c : Bool) (a : Word) : readCycle c u a = u := by
  simp [readCycle, h.cacheOff, plainCycle, h.useReply_eq]

theorem ReadSound.readByte_eq (c : Bool) (a : Word) : readByte c u a = memGet u.mem a.toNat := by
  simp [readByte, h.cacheOff, busByte, h.ram]

/-- A read delivers what memory holds (R82). -/
theorem readNow_sound (k : RefKind) (a : Word) (n : Nat) :
    Reaches (readNow k a n) u fun v w => v = u.load a n ∧ w = u := by
  rintro _ ⟨wb, sc, fc, rf, hw, rfl⟩
  have ht : ReadSound (u.book wb sc fc rf) := h.of_eq rfl rfl rfl
  have hfix := ht.readCycle_eq k.cached
  have hok : ∀ e ∈ dataViews k.cached (u.book wb sc fc rf) a n, readErrorAt k.cached e.2 e.1 = false := by
    intro e he
    rw [mem_views_of_fixed hfix he, readErrorAt, ht.regionOf_eq, ht.reads, Bool.false_and]
  obtain ⟨t, fc', rf', rfl, hread⟩ := readNow_ok hok
  have hval : (dataViews k.cached (u.book wb sc fc rf) a n).map (fun e => readByte k.cached e.2 e.1)
      = bytesFrom (fun x => memGet u.mem x.toNat) a n :=
    views_map fun e he => by
      rw [mem_views_of_fixed hfix he, ht.readByte_eq]
      rfl
  rw [hval, afterViews_of_fixed hfix] at hread
  exact ⟨_, u, _, hread, ⟨wb, sc, fc', rf', hw, rfl⟩, rfl, rfl⟩

theorem memRead_sound (a : Word) (n : Nat) :
    Refers (memRead a n) u [dataRef a n false u.flagU (u.load a n)] fun v w => v = u.load a n ∧ w = u := by
  intro t ht
  have hread : Reaches (readRef ⟨stData, t.flagU, false, true⟩ a n) u fun v w => v = u.load a n ∧ w = u := by
    refine Reaches.getS fun _ _ _ _ => Reaches.bind (settleWrites_plain u _) ?_
    rintro _ _ rfl
    exact readNow_sound h _ a n
  obtain ⟨v, u', t', hok, hsim, rfl, rfl⟩ := hread t ht
  obtain ⟨wb, sc, fc, rf, -, rfl⟩ := ht
  obtain ⟨_, _, _, rfl⟩ := readRef_ok hok
  exact ⟨_, _, _, hok, hsim, rfl, rfl, rfl⟩

theorem memRead32_sound (a : Word) :
    Refers (memRead32 a) u [dataRef a 4 false u.flagU (u.load a 4)] fun v w => v = u.load32 a ∧ w = u := by
  refine Refers.bind_nil (memRead_sound h a 4) ?_
  rintro _ _ ⟨rfl, rfl⟩
  exact Refers.pure ⟨rfl, rfl⟩

/-- A write has failed if one of its bus cycles has. Two stores may wait; the failure of an older one is then recognized
(R101, R625). -/
theorem writeRef_eq (k : RefKind) (a : Word) (n : Nat) (v : Quad) {failed : Bool}
    (hf : anyFrom (fun x => (regionAt u.platform x).writeError) a n = failed) :
    writeRef k a n v u =
      if ((writeMade k a n v failed u).writeBuffer.drop 2).any (·.failed) then
        .error .writeError (writeMade k a n v failed u)
      else .ok () { writeMade k a n v failed u with
        writeBuffer := (writeMade k a n v failed u).writeBuffer.take 2 } := by
  have hfix : ∀ x, plainCycle u x = u := fun _ => h.useReply_eq
  have hany : ((views plainCycle u a n).any fun e => (regionOf e.2 e.1).writeError) = failed := by
    rw [views_of_fixed hfix, ← hf, Bool.eq_iff_iff, anyFrom_iff]
    simp [h.regionOf_eq]
  unfold writeRef
  simp only [hany, afterViews_of_fixed hfix]
  rfl

theorem ReadSound.writeMade_eq (k : RefKind) (a : Word) (n : Nat) (v : Quad) (failed : Bool) :
    ∃ fu old, writeMade k a n v failed u = { u.put a n v with
      refs := u.refs ++ [.mem k.status a n true k.user k.interlocked v]
      fetchUnit := fu
      writeBuffer := ⟨a, old, failed⟩ :: u.writeBuffer } := by
  have hcache : ({ u with refs := u.refs ++ [.mem k.status a n true k.user k.interlocked v] } : State).cfgDC = false :=
    h.cacheOff
  refine ⟨(writeMade k a n v failed u).fetchUnit, bytesFrom (fun x => memGet u.mem x.toNat) a (toBytes n v).length,
    ?_⟩
  simp only [writeMade, store, hcache, Bool.false_eq_true, if_false, storeBytes_kind h.ram]
  rfl

/-- A write of which no bus cycle fails (R83). -/
theorem memWrite_sound {a : Word} {n : Nat} (hw : WriteSound u.platform a n) (v : Quad) :
    Refers (memWrite a n v) u [dataRef a n true u.flagU v] fun _ w => w = u.put a n v := by
  rintro _ ⟨wb, sc, fc, rf, hwb, rfl⟩
  have ht : ReadSound (u.book wb sc fc rf) := h.of_eq rfl rfl rfl
  have heq := writeRef_eq ht ⟨stData, u.flagU, false, false⟩ a n v hw
  obtain ⟨fu, old, hmade⟩ := ht.writeMade_eq ⟨stData, u.flagU, false, false⟩ a n v false
  have hfine : (⟨a, old, false⟩ :: wb : List PendingStore).any (·.failed) = false := by simpa using hwb
  have hdue : ((⟨a, old, false⟩ :: wb : List PendingStore).drop 2).any (·.failed) = false :=
    any_of_suffix hfine fun w hmem => List.mem_of_mem_drop hmem
  rw [hmade] at heq
  refine ⟨(), _, _, heq.trans (if_neg (ne_true_of_eq_false hdue)), ?_, rfl, rfl⟩
  exact ⟨_, fu, fc, _, any_of_suffix hfine fun w hmem => List.mem_of_mem_take hmem, rfl⟩

theorem push_sound {n : Nat} (hw : WriteSound u.platform (u.sp - BitVec.ofNat 32 n) n) (v : Quad) :
    Refers (push n v) u [dataRef (u.sp - BitVec.ofNat 32 n) n true u.flagU v] fun _ w => w = u.pushed n v := by
  have hlow : ReadSound (u.setSp (u.sp - BitVec.ofNat 32 n)) := h.of_eq (by simp) (by simp) (by simp)
  refine Refers.bind_silent (lowerSp_refers u (BitVec.ofNat 32 n)) ?_
  rintro _ _ rfl
  refine Refers.getS fun wb sc fc rf => ?_
  simp only [State.book_sp, State.setSp_sp]
  have hwrite := memWrite_sound hlow (a := u.sp - BitVec.ofNat 32 n) (n := n) (by simpa using hw) v
  rw [State.flagU, State.setSp_psr, ← State.flagU] at hwrite
  refine hwrite.mono ?_
  rintro _ _ rfl
  simp [State.pushed]

end Board

/-! ### The service sequence -/

theorem WriteSound.part {p : List Region} {a : Word} {n : Nat} (h : WriteSound p a n) {k m : Nat} (hk : k + m ≤ n) :
    WriteSound p (a + BitVec.ofNat 32 k) m := by
  unfold WriteSound at h ⊢
  rw [Bool.eq_false_iff, ne_eq, anyFrom_iff] at h ⊢
  rintro ⟨j, hj, hfail⟩
  refine h ⟨k + j, by omega, ?_⟩
  rwa [BitVec.ofNat_add, ← BitVec.add_assoc]

@[simp] theorem State.pushed_sp (s : State) (n : Nat) (v : Quad) : (s.pushed n v).sp = s.sp - BitVec.ofNat 32 n := by
  simp [State.pushed]

theorem sp_supervisor {s : State} (h : s.flagS = false) : s.sp = s.sp0 := if_neg (ne_true_of_eq_false h)

theorem setPc_refers (u : State) (x : Word) :
    Refers (upd fun s => { s with pc := x }) u [] fun _ w => w = { u with pc := x } :=
  Refers.upd (fun _ _ _ _ => rfl) rfl

/-- The return address pushed, and the serializing operation that ends the service sequence (R641 steps 6 and 7). -/
theorem pushReturn_sound {u : State} (h : ReadSound u) (huser : u.flagU = false)
    (hw : WriteSound u.platform (u.sp - 4#32) 4) (ret : Word) :
    Refers (do push 4 (ret.setWidth 64); serialize) u [dataRef (u.sp - 4#32) 4 true false (ret.setWidth 64)]
      fun _ w => w = u.pushed 4 (ret.setWidth 64) := by
  have hpush := push_sound h hw (ret.setWidth 64)
  rw [huser] at hpush
  refine Refers.bind_nil hpush ?_
  rintro _ _ rfl
  exact serialize_refers _

/-- The service sequence in Direct-Exception mode, where its frame can be written: two writes around the read of the
dispatch table's entry, the last one of the return address (R641, R642). -/
theorem service_sound {s : State} (h : ReadSound s) (hde : s.cfgDE = true) (hw : WriteSound s.platform (s.sp0 - 8#32) 8)
    (clearI : Bool) (v : Byte) (copy : Half) (ret : Word) :
    ∃ x, Refers (service v copy ret) { s with psr := entryPsr clearI copy }
      [dataRef (s.sp0 - 2#32) 2 true false (copy.setWidth 64),
        dataRef (s.intbase + 4#32 * v.setWidth 32) 4 false false x,
        dataRef (s.sp0 - 8#32) 4 true false (ret.setWidth 64)] fun _ w =>
        { w with op := .executing, midString := false, afterException := true } = entryState clearI v copy ret s := by
  generalize hu : ({ s with psr := entryPsr clearI copy } : State) = u
  have hcfg : u.cfgDE = true := hu ▸ hde
  have hbase : u.intbase = s.intbase := hu ▸ rfl
  have hsp : u.sp = s.sp0 := hu ▸ sp_supervisor (entryPsr_clears clearI copy (k := 9) (by decide))
  have huser : u.flagU = false := hu ▸ entryPsr_clears clearI copy (k := 8) (by decide)
  have hplat : u.platform = s.platform := hu ▸ rfl
  have h0 : ReadSound u := hu ▸ h.of_eq rfl rfl rfl
  -- The PSR copy lies in the upper two bytes of the frame.
  have hw2 : WriteSound u.platform (u.sp - 2#32) 2 := by
    rw [hplat, hsp, show s.sp0 - 2#32 = s.sp0 - 8#32 + BitVec.ofNat 32 6 by bv_omega]
    exact hw.part (by decide)
  have hpush := push_sound h0 hw2 (copy.setWidth 64)
  -- The word below it is left unwritten (U30); `u2` is the state in which the entry is read.
  generalize hu2 : (u.pushed 2 (copy.setWidth 64)).setSp ((u.pushed 2 (copy.setWidth 64)).sp - 2#32) = u2
  have h2 : ReadSound u2 := hu2 ▸ h0.of_eq (by simp) (by simp) (by simp)
  have hplat2 : u2.platform = s.platform := hplat ▸ hu2 ▸ by simp
  have huser2 : u2.flagU = false := by simpa [← hu2, State.flagU] using huser
  -- The return address lies in the lower four bytes.
  have hsp2 : u2.sp - 4#32 = s.sp0 - 8#32 := by
    rw [← hu2, State.setSp_sp, State.pushed_sp, hsp]
    bv_omega
  have hw4 : WriteSound u2.platform (u2.sp - 4#32) 4 := by
    rw [hplat2, hsp2, ← BitVec.add_zero (s.sp0 - 8#32)]
    exact hw.part (k := 0) (by decide)
  have hread := memRead32_sound h2 (u.intbase + 4#32 * v.setWidth 32)
  have hlast := pushReturn_sound (u := { u2 with pc := u2.load32 (u.intbase + 4#32 * v.setWidth 32) })
    (h2.of_eq rfl rfl rfl) huser2 hw4 ret
  -- The sequence itself.
  rw [hsp, huser] at hpush
  rw [huser2] at hread
  rw [← hbase, ← hsp2]
  refine ⟨u2.load (u.intbase + 4#32 * v.setWidth 32) 4, Refers.getS fun _ _ _ _ => Refers.bind hpush ?_⟩
  rintro _ _ rfl
  refine Refers.getS fun _ _ _ _ => Refers.of_true hcfg (Refers.bind_silent (lowerSp_refers _ 2#32) ?_)
  rintro _ _ rfl
  rw [hu2]
  refine Refers.bind hread ?_
  rintro _ u2 ⟨rfl, rfl⟩
  refine Refers.of_true hcfg (Refers.bind_silent (setPc_refers u2 _) ?_)
  rintro _ _ rfl
  refine hlast.mono ?_
  rintro _ _ rfl
  simp only [entryState, entryPushed, hde, if_true, hu, hu2]
  rw [← hbase]

end Sys2Proof.Machine
end

section
/-! SUPPORT. The entry of the non-restartable bus error in Direct-Exception mode: what termination leaves, the slave
status word, the service sequence (R603, R625, R641). -/

namespace Sys2Proof.Machine

/-! ### The entry in Direct-Exception mode -/

theorem setSp_supervisor {s : State} (h : s.flagS = false) (v : Word) : s.setSp v = { s with sp0 := v } :=
  if_neg (ne_true_of_eq_false h)

theorem pushed_supervisor {s : State} (h : s.flagS = false) (n : Nat) (v : Quad) :
    s.pushed n v = { s.put (s.sp0 - BitVec.ofNat 32 n) n v with sp0 := s.sp0 - BitVec.ofNat 32 n } := by
  change (s.setSp _).put (s.setSp _).sp n v = _
  rw [State.setSp_sp, sp_supervisor h, setSp_supervisor h]
  rfl

/-- In Direct-Exception mode an entry writes the PSR copy and the return address, and loads the PC (R641, R642). -/
theorem entryState_direct {s : State} (hde : s.cfgDE = true) (clearI : Bool) (v : Byte) (copy : Half) (ret : Word) :
    entryState clearI v copy ret s =
      { (s.put (s.sp0 - 2#32) 2 (copy.setWidth 64)).put (s.sp0 - 8#32) 4 (ret.setWidth 64) with
        psr := entryPsr clearI copy
        pc := (s.put (s.sp0 - 2#32) 2 (copy.setWidth 64)).load32 (s.intbase + 4#32 * v.setWidth 32)
        sp0 := s.sp0 - 8#32
        op := .executing, midString := false, afterException := true } := by
  have hS (t : State) (ht : t.psr = entryPsr clearI copy) : t.flagS = false :=
    (congrArg (·.getLsbD 9) ht).trans (entryPsr_clears clearI copy (by decide))
  have htotal : s.sp0 - 2#32 - 2#32 - 4#32 = s.sp0 - 8#32 := by bv_omega
  simp only [entryState, entryPushed, hde, if_true]
  rw [pushed_supervisor (hS { s with psr := entryPsr clearI copy } rfl), sp_supervisor (hS _ rfl),
    setSp_supervisor (hS _ rfl), pushed_supervisor (hS _ rfl)]
  simp only [htotal]
  rfl

/-! ### The state that a non-restartable bus error leaves -/

/-- What the entry of a non-restartable bus error starts from, when the error of an instruction begun in `s0` is
recognized in `s` (R603, R625; log 27). -/
structure Terminated (s0 s t : State) : Prop where
  sp0 : t.sp0 = s0.sp0
  sb : t.sb = s0.sb
  mod : t.mod = s0.mod
  intbase : t.intbase = s0.intbase
  cfg : t.cfg = s0.cfg
  writeBuffer : t.writeBuffer = []
  nmiLatch : t.nmiLatch = s.nmiLatch
  dbgLatch : t.dbgLatch = s.dbgLatch
  busReplies : t.busReplies = s.busReplies
  platform : t.platform = s.platform
  refs : t.refs = s.refs

theorem terminate_terminated (s0 s : State) : Terminated s0 s (terminate s0 s) := by
  unfold terminate
  obtain ⟨dc, fc, hcopies⟩ := freeCopies_frame
    ((s.writeBuffer.take (Config.freeNat s.freeCount % 3)).map PendingStore.span) _
  simp only []
  rw [hcopies]
  obtain ⟨m, dc', fc', hspans⟩ := freeSpans_frame (lostSpans s0 s) _
  rw [hspans]
  exact ⟨rfl, rfl, rfl, rfl, rfl, rfl, rfl, rfl, rfl, rfl, rfl⟩

/-- What an entry leaves, once its service sequence has left `e` but for the operating state and its marks (R644). -/
theorem entered_agrees {s u e : State} (n : Nat) (wb : List PendingStore) (sc : FetchUnit) (fc : Nat) (rf : List Ref)
    (he : { u with op := .executing, midString := false, afterException := true } = e) (hdcr : e.dcr = s.dcr) :
    Agrees s e (entered n (u.book wb sc fc rf)) := by
  obtain ⟨x, b, hx, hm, hd⟩ := commitDebug_eq (u.book wb sc fc rf).debugRegs
    ((rf.drop n).any ((u.book wb sc fc rf).debugRegs.hit false))
    ((rf.drop n).any ((u.book wb sc fc rf).debugRegs.hit true)) false
    { u.book wb sc fc rf with op := .executing, midString := false, elementRefs := [], afterException := true }
  have hentered : entered n (u.book wb sc fc rf) = _ := hx
  rw [hentered, ← he]
  refine ⟨rfl, hm, fun hden => ?_⟩
  have hu : u.dcr = s.dcr := (congrArg State.dcr he).trans hdcr
  have hden' : (u.book wb sc fc rf).debugRegs.dcr.getLsbD 23 = false := (congrArg (·.getLsbD 23) hu).trans hden
  exact hd (hit_disabled hden' _ _) (hit_disabled hden' _ _) rfl

/-- What the entry of a non-restartable bus error leaves of the terminated state `t`: vector 12 taken with interrupts
off, no store waiting that failed, the slave status word read before the service sequence (R625). -/
structure ErrorServed (t r : State) (copy : Half) (ret : Word) : Prop where
  agrees : Agrees t (entryState true 12#8 copy ret t) r
  settled : r.pendingError = false
  refs : ∃ w r1 r2, r.refs
    = t.refs ++ [.slaveRead 0b11110#5 w, r1, r2, dataRef (t.sp0 - 8#32) 4 true false (ret.setWidth 64)]

/-- The slave status word is read, then the service sequence runs (R625). -/
theorem takeWriteError_served {s0 s t : State} (ht : terminate s0 s = t) (h : ReadSound t) (hde : t.cfgDE = true)
    (hw : WriteSound t.platform (t.sp0 - 8#32) 8) (hp : t.pendingError = false) :
    Goes (takeWriteError s0 s) fun r => ∃ copy ret, ErrorServed t r copy ret := by
  obtain ⟨x, hservice⟩ := service_sound h hde hw true 12#8 t.psr (Config.freeWord t.freeCount)
  generalize hfc : t.freeCount + 32 = fc0
  obtain ⟨_, u, t', hok, ⟨wb, sc, fc, rf, hwb, rfl⟩, hrefs, he⟩ := hservice
    { t with
      psr := entryPsr true t.psr, refs := t.refs ++ [.slaveRead 0b11110#5 (Config.freeWord fc0)], freeCount := fc0 + 1 }
    ⟨t.writeBuffer, t.fetchUnit, _, _, hp, rfl⟩
  have hrun : entryRun false true (do dummyStatusRead; return 12#8) (Config.freeWord t.freeCount)
      { t with freeCount := fc0 } = .ok () (u.book wb sc fc rf) := hok
  refine ⟨entered t.refs.length (u.book wb sc fc rf), ?_, t.psr, Config.freeWord t.freeCount, ?_, hwb, ?_⟩
  · simp only [takeWriteError, ht, hfc]
    exact takeException_ok hrun
  · exact entered_agrees _ wb sc fc rf he (entryState_dcr ..)
  · exact ⟨_, _, _, hrefs.trans (List.append_assoc ..)⟩

/-! ### What the obligation says of the entry -/

/-- A board on which just the writes of one byte end in a bus error, and a state in Direct-Exception mode with the data
cache off whose frame and dispatch-table entry lie apart from that byte and from each other. -/
structure FailingAt (s : State) (a : Word) : Prop where
  wf : Memory.wf s.mem = true
  noReplies : s.busReplies = []
  cacheOff : s.cfgDC = false
  direct : s.cfgDE = true
  region : ∀ x : Word, (regionAt s.platform x).writeError = decide (x = a) ∧ (regionAt s.platform x).readError = false
    ∧ (regionAt s.platform x).kind = .ram
  frame : ∀ k : Nat, k < 8 → s.sp0 - 8#32 + BitVec.ofNat 32 k ≠ a
  entry : ∀ k : Nat, k < 4 → 8 ≤ (s.intbase + 48#32 + BitVec.ofNat 32 k - (s.sp0 - 8#32)).toNat

theorem FailingAt.readSound {s : State} {a : Word} (h : FailingAt s a) : ReadSound s :=
  ⟨h.cacheOff, h.noReplies, fun x => (h.region x).2.2, fun x => (h.region x).2.1⟩

theorem FailingAt.writeSound {s : State} {a : Word} (h : FailingAt s a) : WriteSound s.platform (s.sp0 - 8#32) 8 := by
  unfold WriteSound
  rw [Bool.eq_false_iff, ne_eq, anyFrom_iff]
  rintro ⟨k, hk, hfail⟩
  rw [(h.region _).1] at hfail
  exact h.frame k hk (of_decide_eq_true hfail)

/-- What recognizing a failed write finds of the state `s` in which the instruction began: the board and the latches
are those of `s`, and its references are still listed. -/
structure Continues (s s' : State) : Prop where
  wf : Memory.wf s'.mem = true
  busReplies : s'.busReplies = s.busReplies
  platform : s'.platform = s.platform
  nmiLatch : s'.nmiLatch = s.nmiLatch
  dbgLatch : s'.dbgLatch = s.dbgLatch
  refs : s.refs <+: s'.refs

theorem FailingAt.continues_refl {s : State} {a : Word} (h : FailingAt s a) : Continues s s :=
  ⟨h.wf, rfl, rfl, rfl, rfl, List.prefix_refl _⟩

/-- The non-restartable bus error entered by an instruction begun in `s` (R625). -/
def ErrorEntered (s t : State) : Prop :=
  t.pc = t.load32 (s.intbase + 48#32) ∧ t.op = .executing ∧ t.sp0 = s.sp0 - 8#32
    ∧ t.sb = s.sb ∧ t.mod = s.mod ∧ t.intbase = s.intbase ∧ t.cfg = s.cfg
    ∧ t.flagU = false ∧ t.flagS = false ∧ t.flagI = false ∧ t.flagT = false ∧ t.flagP = false ∧ t.flagV = false
    ∧ t.pendingError = false ∧ t.nmiLatch = s.nmiLatch ∧ t.dbgLatch = s.dbgLatch
    ∧ (∃ w, Ref.slaveRead 0b11110#5 w ∈ t.refs.drop s.refs.length)
    ∧ ∃ x, t.refs.getLast? = some (.mem stData t.sp0 4 true false false x) ∧ t.load t.sp0 4 = x

theorem load_congr {s t : State} (h : t.mem = s.mem) (a : Word) (n : Nat) : t.load a n = s.load a n := by
  unfold State.load
  rw [h]

/-- The entry's two words of memory: the return address pushed, and the handler's address, still in the dispatch table
(R641). -/
theorem ErrorServed.loads {t r : State} {copy : Half} {ret : Word} (h : ErrorServed t r copy ret)
    (hm : Memory.wf t.mem = true) (hde : t.cfgDE = true)
    (hentry : ∀ k, k < 4 → 8 ≤ (t.intbase + 48#32 + BitVec.ofNat 32 k - (t.sp0 - 8#32)).toNat) :
    r.load (t.sp0 - 8#32) 4 = ret.setWidth 64 ∧ r.pc = r.load32 (t.intbase + 48#32) := by
  have he := h.agrees.1.trans (entryState_direct hde true 12#8 copy ret)
  have hput : Memory.wf (t.put (t.sp0 - 2#32) 2 (copy.setWidth 64)).mem = true := storeBytes_wf [] hm _ _
  have hmem : r.mem = ((t.put (t.sp0 - 2#32) 2 (copy.setWidth 64)).put (t.sp0 - 8#32) 4 (ret.setWidth 64)).mem :=
    (congrArg State.mem he :)
  have hpc : r.pc = (t.put (t.sp0 - 2#32) 2 (copy.setWidth 64)).load32 (t.intbase + 48#32) :=
    (congrArg State.pc he :)
  refine ⟨(load_congr hmem ..).trans (load_put_same hput _ _), hpc.trans ?_⟩
  unfold State.load32
  rw [load_congr hmem, load_put_other hput (by decide)]
  intro k hk
  exact (by decide : 4 ≤ 8).trans (hentry k hk)

theorem takeWriteError_entered {s s' : State} {a : Word} (h : FailingAt s a) (hc : Continues s s') :
    Goes (takeWriteError s s') (ErrorEntered s) := by
  have ht := terminate_terminated s s'
  have hwf : Memory.wf (terminate s s').mem = true := terminate_wf hc.wf
  generalize hterm : terminate s s' = t at ht hwf
  have hplat : t.platform = s.platform := ht.platform.trans hc.platform
  have hsound : ReadSound t := h.readSound.of_eq ht.cfg (ht.busReplies.trans hc.busReplies) hplat
  have hde : t.cfgDE = true := (congrArg (·.getLsbD 8) ht.cfg).trans h.direct
  have hframe : WriteSound t.platform (t.sp0 - 8#32) 8 := by
    rw [hplat, ht.sp0]
    exact h.writeSound
  have hpending : t.pendingError = false := congrArg (·.any (·.failed)) ht.writeBuffer
  refine (takeWriteError_served hterm hsound hde hframe hpending).mono ?_
  rintro r ⟨copy, ret, hr⟩
  obtain ⟨hret, hpc⟩ := hr.loads hwf hde (by rw [ht.intbase, ht.sp0]; exact h.entry)
  have he := hr.agrees.1.trans (entryState_direct hde true 12#8 copy ret)
  have hsp : r.sp0 = t.sp0 - 8#32 := congrArg State.sp0 he
  have hpsr : r.psr = entryPsr true copy := congrArg State.psr he
  have hclear {k : Nat} (hk : k ∈ ([1, 4, 8, 9, 10] : List Nat)) : r.psr.getLsbD k = false :=
    hpsr ▸ entryPsr_clears true copy hk
  have hI : r.psr.getLsbD 11 = false := hpsr ▸ (entryPsr_I true false copy).trans (Bool.and_false _)
  obtain ⟨w, r1, r2, hrefs⟩ := hr.refs
  obtain ⟨earlier, hearlier⟩ := hc.refs
  refine ⟨ht.intbase ▸ hpc, congrArg State.op he, hsp.trans (ht.sp0 ▸ rfl), (congrArg State.sb he).trans ht.sb,
    (congrArg State.mod he).trans ht.mod, (congrArg State.intbase he).trans ht.intbase,
    (congrArg State.cfg he).trans ht.cfg, hclear (by decide), hclear (by decide), hI, hclear (by decide),
    hclear (by decide), hclear (by decide), hr.settled, ?_, ?_, ⟨w, ?_⟩, ret.setWidth 64, ?_, ?_⟩
  · exact ((congrArg State.nmiLatch he).trans ht.nmiLatch).trans hc.nmiLatch
  · exact ((congrArg State.dbgLatch he).trans ht.dbgLatch).trans hc.dbgLatch
  · rw [hrefs, ht.refs, ← hearlier, List.append_assoc, List.drop_left]
    simp
  · rw [hrefs, hsp]
    simp [dataRef]
  · rw [hsp, hret]

end Sys2Proof.Machine
end

section
/-! PROOF. A write that ends in a bus error: it is recognized at once, at completion, or where the write buffer must be
empty (R288, R625, R632, R684, R690). -/

namespace Sys2Proof.Machine

/-! ### Where a failed write is recognized -/

theorem Continues.book {s t : State} (h : Continues s t) (wb : List PendingStore) (sc : FetchUnit) (fc : Nat) :
    Continues s (t.book wb sc fc t.refs) := ⟨h.wf, h.busReplies, h.platform, h.nmiLatch, h.dbgLatch, h.refs⟩

/-- Where the write buffer must be empty, a failed write is recognized (R110, R625). -/
theorem drain_pending {s : State} (h : s.pendingError = true) : drain s = .error .writeError s := by
  have hnone : (s.writeBuffer.takeWhile fun _ => !true) = [] := by cases s.writeBuffer <;> rfl
  unfold drain settleWrites
  rw [hnone]
  exact if_pos h

theorem serialize_pending {s : State} (h : s.pendingError = true) : serialize s = .error .writeError s := by
  simp only [serialize, Bind.bind, EStateM.bind, drain_pending h]

theorem run_writeError {sh : Shape} {body : M Done} {s t : State} (hc : sh.check s = none)
    (hb : body s = .error .writeError t) : run sh body s = takeWriteError s t := by
  simp only [run, finish, checked, hc, hb]

theorem enterException_pending {s0 s : State} (hp : s.pendingError = true) (clearP clearI : Bool) (vector : M Byte)
    (ret : Word) (onEntry : State → State) :
    enterException s0 clearP clearI vector ret s onEntry = takeWriteError s0 s := if_pos hp

/-- At a point where a failed write may be recognized it is, or the machine goes on (R690). -/
theorem reporting_pending {s0 s : State} (hp : s.pendingError = true) (go : State → Out) :
    reporting s0 go s = takeWriteError s0 { s with freeCount := s.freeCount + 1 }
      ∨ reporting s0 go s = go { s with freeCount := s.freeCount + 1 } := by
  unfold reporting
  rw [if_pos hp]
  simp only []
  split
  · exact .inl rfl
  · exact .inr rfl

section Recognized

variable {s : State} {a : Word} (h : FailingAt s a) (hp : s.pendingError = true)
include h hp

/-- An exception is not entered while a failed write waits: that error is, and what the entry would have done away with
stays (R632, R684). -/
theorem enterException_entered (clearP clearI : Bool) (vector : M Byte) (ret : Word) (onEntry : State → State) :
    Goes (enterException s clearP clearI vector ret s onEntry) (ErrorEntered s) :=
  enterException_pending hp clearP clearI vector ret onEntry ▸ takeWriteError_entered h h.continues_refl

theorem trap_entered {sh : Shape} (k : TrapKind) (hc : sh.check s = none) :
    Goes (run sh (stop (.trap k)) s) (ErrorEntered s) := by
  have hrun : run sh (stop (.trap k)) s = takeTrap s k s := by
    simp only [run, finish, checked, hc, stop]
    rfl
  rw [hrun]
  exact enterException_entered h hp ..

theorem dia_entered : Goes (exec .dia s) (ErrorEntered s) := by
  have hbody : (do serialize; return ({ target := some (← getS).pc } : Done)) s = .error .writeError s := by
    simp only [Bind.bind, EStateM.bind, serialize_pending hp]
  have hrun : exec .dia s = takeWriteError s s := run_writeError (check_basic 1 s) hbody
  exact hrun ▸ takeWriteError_entered h h.continues_refl

theorem lpr_upsr_entered (k : RegNum) : Goes (exec (.lpr .b .upsr (.mode (.reg k))) s) (ErrorEntered s) := by
  let v := lowBytes 1 ((s.reg k).setWidth 64)
  let t : State := { s with psr := ((s.psr &&& 0xFF00#16) ||| (v.setWidth 16 &&& 0x00FF#16)) &&& psrMask }
  have hbody : (do
      let v ← readOp (.mode (.reg k)) 1
      loadAReg .upsr v
      return ({ debugLoaded := false } : Done)) s = .error .writeError t := by
    have hload : loadAReg .upsr v s = .error .writeError t := serialize_pending (s := t) hp
    have hread : readOp (.mode (.reg k)) 1 s = .ok v s := rfl
    simp only [Bind.bind, EStateM.bind, hread, hload]
  have hrun : exec (.lpr .b .upsr (.mode (.reg k))) s = takeWriteError s t :=
    run_writeError (lpr_check rfl rfl (.inl rfl)) hbody
  exact hrun ▸ takeWriteError_entered h ⟨h.wf, rfl, rfl, rfl, rfl, List.prefix_refl _⟩

end Recognized

/-! ### The write itself -/

theorem Size.bytes_pos {i : Size} (hi : i ≠ .u) : 1 ≤ i.bytes := by
  cases i with
  | u => exact absurd rfl hi
  | b | w | d => decide

/-- MOVi to memory is one write, after which nothing is left to do (R300). -/
theorem mov_body (i : Size) (d : Disp) (k : RegNum) (s : State) :
    ∃ v, readWrite i.bytes i.bytes i.bits i.bits (.mode (.reg k)) (.mode (.abs d)) (fun a => pure { value := a }) s
      = (do writeRef ⟨stData, s.flagU, false, false⟩ d.value i.bytes v; return ({} : Done)) s :=
  ⟨_, rfl⟩

theorem run_ok {sh : Shape} {body : M Done} {s t : State} {d : Done} (hc : sh.check s = none) (hb : body s = .ok d t) :
    run sh body s = reporting s (complete sh.length s d) t := by
  simp only [run, finish, checked, hc, hb]

/-- An instruction that completes with a failed write in the write buffer leaves it there. -/
theorem complete_pending {s t : State} {len : Nat} (hp : t.pendingError = true) :
    Goes (complete len s {} t) fun r =>
      r.pendingError = true ∧ r.op = t.op ∧ r.regs = t.regs ∧ r.pc = s.pc + BitVec.ofNat 32 len := by
  rw [complete_next rfl rfl rfl]
  obtain ⟨x, y, hcommit, -⟩ := commitRefs_frame (controls {} s t) (t.refs.drop s.refs.length)
    ((controls {} s t).pcMatch s.flagU s.pc) (completed len s {} t)
  rw [hcommit]
  exact ⟨_, rfl, hp, rfl, rfl, rfl⟩

/-- A write to the failing byte stops the instruction, where an earlier failed write is due, or goes on as pending
(R101, R625). -/
theorem writeRef_failing {s : State} {a : Word} (h : FailingAt s a) (k : RefKind) {n : Nat} (hn : 1 ≤ n) (v : Quad) :
    ∃ t, (writeRef k a n v s = .error .writeError t ∨ (writeRef k a n v s = .ok () t ∧ t.pendingError = true))
      ∧ Continues s t ∧ t.op = s.op ∧ t.regs = s.regs := by
  have hfail : anyFrom (fun x => (regionAt s.platform x).writeError) a n = true :=
    anyFrom_of_first hn ((h.region a).1.trans (decide_eq_true rfl))
  have hwrite := writeRef_eq h.readSound k a n v hfail
  obtain ⟨fu, old, hmade⟩ := h.readSound.writeMade_eq k a n v true
  rw [hmade] at hwrite
  have hwf : Memory.wf (s.put a n v).mem = true := storeBytes_wf [] h.wf _ _
  split at hwrite
  · exact ⟨_, .inl hwrite, ⟨hwf, rfl, rfl, rfl, rfl, List.prefix_append ..⟩, rfl, rfl⟩
  · exact ⟨_, .inr ⟨hwrite, rfl⟩, ⟨hwf, rfl, rfl, rfl, rfl, List.prefix_append ..⟩, rfl, rfl⟩

/-- MOVi to the failing byte: the error is recognized, at once or when the instruction has completed, or stays pending
(R288, R690). -/
theorem mov_failing {s : State} {i : Size} {d : Disp} (h : FailingAt s d.value) (hi : i ≠ .u) (hd : d.wf = true)
    (k : RegNum) :
    Goes (exec (.mov i (.mode (.reg k)) (.mode (.abs d))) s) fun t =>
      ErrorEntered s t ∨ (t.pendingError = true ∧ t.op = s.op ∧ t.regs = s.regs
        ∧ t.pc = nextPc (.mov i (.mode (.reg k)) (.mode (.abs d))) s) := by
  have hcheck : Shape.check
      { basic := 2, size := i, ops := [rd (.mode (.reg k)) i.bytes, wr (.mode (.abs d)) i.bytes] } s = none :=
    check_none rfl hi (legal_two (legal_reg ..) (abs_legal hd .write)) (.inl rfl) rfl rfl
  have hlen : (encode (.mov i (.mode (.reg k)) (.mode (.abs d)))).length = _ := enc4_length ..
  obtain ⟨v, hbody⟩ := mov_body i d k s
  obtain ⟨t, hwrite | ⟨hwrite, hpending⟩, hcont, hop, hregs⟩ :=
    writeRef_failing h ⟨stData, s.flagU, false, false⟩ (Size.bytes_pos hi) v
  · simp only [Bind.bind, EStateM.bind, hwrite] at hbody
    have hrun : exec (.mov i (.mode (.reg k)) (.mode (.abs d))) s = takeWriteError s t := run_writeError hcheck hbody
    rw [hrun]
    exact (takeWriteError_entered h hcont).mono fun _ => .inl
  · simp only [Bind.bind, EStateM.bind, hwrite] at hbody
    have hrun : exec (.mov i (.mode (.reg k)) (.mode (.abs d))) s = reporting s (complete _ s {}) t :=
      run_ok hcheck hbody
    rw [hrun]
    rcases reporting_pending hpending (complete _ s {}) with hnow | hlater
    · rw [hnow]
      exact (takeWriteError_entered h (hcont.book ..)).mono fun _ => .inl
    · rw [hlater]
      refine (complete_pending (t := { t with freeCount := t.freeCount + 1 }) hpending).mono ?_
      rintro r ⟨hrp, hrop, hrregs, hpc⟩
      exact .inr ⟨hrp, hrop.trans hop, hrregs.trans hregs, hpc.trans (by rw [nextPc, hlen]; rfl)⟩

/-- Settles O20: MOVi either way; a serializing instruction drains the write buffer, where the error is recognized; the
traps, Trap (DBG) and the interrupts wait for the write buffer before they do anything. -/
theorem nonRestartableBusError : Obligations.NonRestartableBusError := by
  intro s i d k hwf hreplies hcache hdirect hi hd hregion hframe hentry entered
  have h : FailingAt s d.value := ⟨hwf, hreplies, hcache, hdirect, hregion, hframe, hentry⟩
  have hexc (hp : s.pendingError = true) := enterException_entered h hp
  refine ⟨mov_failing h hi hd k, fun hp => ⟨?_, hexc hp .., fun _ => hexc hp ..⟩⟩
  simp only [List.forall_mem_cons, List.not_mem_nil, false_imp_iff, implies_true, and_true]
  exact ⟨dia_entered h hp, lpr_upsr_entered h hp k, trap_entered h hp .svc (check_basic 1 s),
    trap_entered h hp .bpt (check_basic 1 s), trap_entered h hp .und (check_basic 3 s)⟩

end Sys2Proof.Machine
end

section
/-! SUPPORT. Values of `n` bytes as bit vectors, and the moves of a plain state: a source moved to a destination through
a function of its value, a value written to a destination, the address of an operand (R11, R262 to R265). -/

namespace Sys2Proof.Machine

/-! ### Values of an integer operand fit its size -/

theorem ofBytes_lt (bs : List Byte) : (ofBytes bs).toNat < 2 ^ (8 * bs.length) := by
  induction bs with
  | nil => decide
  | cons b rest ih =>
    have hpow : 2 ^ (8 * (b :: rest).length) = 2 ^ (8 * rest.length) * 2 ^ 8 := by
      rw [← Nat.pow_add]
      rfl
    have hhigh : (ofBytes rest <<< 8).toNat < 2 ^ (8 * (b :: rest).length) := by
      rw [BitVec.toNat_shiftLeft, Nat.shiftLeft_eq]
      refine (Nat.mod_le _ _).trans_lt ?_
      omega
    have hlow : (b.setWidth 64 : Quad).toNat < 2 ^ (8 * (b :: rest).length) := by
      have hone : 1 ≤ 2 ^ (8 * rest.length) := Nat.one_le_two_pow
      have hb := b.isLt
      rw [BitVec.toNat_setWidth]
      refine (Nat.mod_le _ _).trans_lt ?_
      omega
    rw [ofBytes, BitVec.toNat_or]
    exact Nat.or_lt_two_pow hhigh hlow

theorem lowBytes_lt {i : Size} (hi : i ≠ .u) (v : Quad) : (lowBytes i.bytes v).toNat < 2 ^ i.bits := by
  cases i with
  | u => exact absurd rfl hi
  | b => exact Nat.and_le_right.trans_lt (by decide : (0xFF#64).toNat < 2 ^ 8)
  | w => exact Nat.and_le_right.trans_lt (by decide : (0xFFFF#64).toNat < 2 ^ 16)
  | d => exact Nat.and_le_right.trans_lt (by decide : (0xFFFFFFFF#64).toNat < 2 ^ 32)

theorem Size.bits_eq {i : Size} (hi : i ≠ .u) : i.bits = 8 * i.bytes := by
  cases i with
  | u => exact absurd rfl hi
  | b | w | d => rfl

theorem Size.bytes_le_bits (i : Size) : 8 * i.bytes ≤ i.bits := by cases i <;> decide

theorem Size.bits_le (i : Size) : i.bits ≤ 32 := by cases i <;> decide

theorem load_lt (s : State) (a : Word) {i : Size} (hi : i ≠ .u) : (s.load a i.bytes).toNat < 2 ^ i.bits := by
  rw [Size.bits_eq hi]
  exact (ofBytes_lt _).trans_eq (by rw [bytesFrom_length])

theorem locValue_lt (s : State) {i : Size} (hi : i ≠ .u) (l : Loc) : (locValue s i.bytes l).toNat < 2 ^ i.bits := by
  cases l with
  | reg k => exact lowBytes_lt hi _
  | imm v => exact lowBytes_lt hi v
  | mem a => exact load_lt s a hi
  | tos => exact load_lt s s.sp hi

/-- An operand is its low bits, zero-extended (R262). -/
theorem setWidth_src (s : State) {i : Size} (hi : i ≠ .u) (g : Gen) :
    ((src s i.bytes g).setWidth i.bits).setWidth 64 = src s i.bytes g := by
  refine BitVec.eq_of_toNat_eq ?_
  have hlt : (src s i.bytes g).toNat < 2 ^ i.bits := locValue_lt s hi _
  rw [BitVec.toNat_setWidth, BitVec.toNat_setWidth, Nat.mod_eq_of_lt hlt, Nat.mod_eq_of_lt (BitVec.isLt _)]

/-- An operand extended by zeros is the same number (R303, R304). -/
theorem zeroExtend_src (s : State) {i : Size} (hi : i ≠ .u) (g : Gen) {k : Nat} (h : i.bits ≤ k) :
    (((src s i.bytes g).setWidth i.bits).setWidth k).setWidth 64 = src s i.bytes g :=
  (BitVec.setWidth_setWidth (by omega)).trans (setWidth_src s hi g)

/-! ### A write of `n` bytes depends on the low `n` bytes of the value only -/

theorem toBytes_setWidth {n w : Nat} (h : 8 * n ≤ w) (v : Quad) :
    toBytes n ((v.setWidth w).setWidth 64) = toBytes n v := by
  refine List.ext_getElem? fun k => ?_
  rw [getElem?_toBytes, getElem?_toBytes]
  by_cases hk : k < n
  · have hbyte :
        (((v.setWidth w).setWidth 64 : Quad) >>> (8 * k)).setWidth 8 = ((v >>> (8 * k)).setWidth 8 : Byte) := by
      refine BitVec.eq_of_getLsbD_eq fun j hj => ?_
      have hw : 8 * k + j < w := by omega
      by_cases hq : 8 * k + j < 64
      · simp [hj, hw, hq]
      · simp [hj, hq, BitVec.getLsbD_of_ge v (8 * k + j) (by omega)]
    simp only [hbyte]
  · simp only [hk, if_false]

/-- A mask of `w` bits does not see the bits above them. -/
theorem setWidth_and_of_lt (v : Quad) {w : Nat} {m : Word} (hm : m.toNat < 2 ^ w) :
    ((v.setWidth w).setWidth 32 : Word) &&& m = v.setWidth 32 &&& m := by
  refine BitVec.eq_of_getLsbD_eq fun j hj => ?_
  by_cases hw : j < w
  · simp [hj, hw]
  · have hclear : m.getLsbD j = false :=
      Nat.testBit_lt_two_pow (hm.trans_le (Nat.pow_le_pow_right (by decide) (Nat.le_of_not_lt hw)))
    simp [hclear]

theorem mergeLow_setWidth (i : Size) (old : Word) (v : Quad) :
    mergeLow i.bytes old ((v.setWidth i.bits).setWidth 64) = mergeLow i.bytes old v := by
  cases i with
  | u | d => simp [mergeLow, Size.bytes, Size.bits]
  | b | w => simp [mergeLow, Size.bytes, Size.bits, setWidth_and_of_lt]

/-- An operand of size `i` written takes the low bits of the value (R263). -/
theorem written_setWidth (s : State) (i : Size) (v : Quad) (l : Loc) :
    written s i.bytes ((v.setWidth i.bits).setWidth 64) l = written s i.bytes v l := by
  cases l with
  | reg k => simp only [written, State.regPut, mergeLow_setWidth]
  | imm _ => rfl
  | mem a => simp only [written, State.put, toBytes_setWidth (Size.bytes_le_bits i)]
  | tos => simp only [written, State.pushed, State.put, toBytes_setWidth (Size.bytes_le_bits i)]

/-! ### Operands -/

/-- An operand that may be written may be addressed (R260, R241). -/
theorem legal_addr_of_write {g : Gen} (h : legal .write g = true) : legal .addr g = true := by
  cases g with
  | mode m => cases m <;> exact h
  | reserved | idx | idxBad => exact h

theorem addrOp_plain {u : State} (h : u.ram = true) {c : Access} {g : Gen} (hg : legal c g = true) {a : Word}
    (ha : addrOf u g = some a) : Reaches (addrOp g) u fun v u' => v = a ∧ u' = u := by
  refine Reaches.bind (locGen_plain h hg) ?_
  rintro _ _ ⟨rfl, rfl⟩
  unfold addrOf at ha
  generalize genLoc _ g = l at ha ⊢
  cases l with
  | mem x => exact Reaches.pure ⟨Option.some.inj ha, rfl⟩
  | tos => exact Reaches.getS fun _ _ _ _ => Reaches.pure ⟨Option.some.inj ha, rfl⟩
  | reg | imm => exact absurd ha nofun

/-! ### Instructions that move -/

/-- A displacement of the instruction's own passes the checks if it is well formed (R201, R242). -/
theorem check_none_disp {sh : Shape} {s : State} {d : Disp} (hdisp : sh.disp = some d) (hd : d.wf = true)
    (hc : Shape.check { sh with disp := none } s = none) : sh.check s = none := by
  rw [← hc, ← check_disp hd s, ← hdisp]

/-- gen1 read, a function of its value written to gen2 (R264). -/
theorem moved_completes {I : Instr} {basic n1 n2 w1 w2 : Nat} {i : Size} {g1 g2 : Gen} {res : Option Refusal}
    {s : State} {f : BitVec w1 → BitVec w2} {h : Quad → Quad} (hs : s.plain = true) (hi : i ≠ .u)
    (hres : res = none) (h1 : legal .read g1 = true) (h2 : legal .write g2 = true)
    (hexec : exec I s = run { basic := basic, size := i, ops := [rd g1 n1, wr g2 n2], reserved := res }
      (readWrite n1 n2 w1 w2 g1 g2 fun a => pure { value := f a }) s)
    (hlen : (encode I).length = basic + (g1.length n1 + g2.length n2))
    (hval : (f ((src s n1 g1).setWidth w1)).setWidth 64 = h (src s n1 g1)) :
    Completes I s (moved s n1 g1 n2 g2 h) := by
  refine completes_of_reaches hexec hlen hs (check_none rfl hi (legal_two h1 h2) (.inl rfl) rfl hres) ?_
  refine (readWrite_plain (plain_ram hs) h1 h2 rfl).mono ?_
  rintro _ _ ⟨rfl, rfl⟩
  exact ⟨rfl, congrArg (written (afterSrc s n1 g1) n2 · (genLoc (afterSrc s n1 g1) g2)) hval⟩

/-- A destination located and a value written to it: the last actions of an instruction that has a value (R263). -/
theorem locWrite_plain {u : State} (h : u.ram = true) {g : Gen} (hg : legal .write g = true) (n : Nat) (v : Quad) :
    Reaches (do let l ← locGen g; writeLoc n v l; return ({} : Done)) u fun d u' =>
      d = {} ∧ u' = written u n v (genLoc u g) := by
  refine Reaches.bind (locGen_plain h hg) ?_
  rintro _ _ ⟨rfl, rfl⟩
  refine Reaches.bind (writeLoc_plain h n v (genLoc_not_imm (by decide) hg)) ?_
  rintro _ _ rfl
  exact Reaches.pure ⟨rfl, rfl⟩

end Sys2Proof.Machine
end

section
/-! PROOF. The moves: source to destination, extended or not; a quick value; an effective address; a block of elements
(R300 to R307). -/

namespace Sys2Proof.Machine

/-- The elements of MOVMi are moved one after the other (R302). -/
theorem moveElements_plain (n : Nat) (a1 a2 : Word) (k : Nat) {u : State} (h : u.ram = true) :
    Reaches (moveElements n a1 a2 k) u fun _ u' => u' = blockMoved n a1 a2 k u := by
  induction k generalizing a1 a2 u with
  | zero => exact Reaches.pure rfl
  | succ k ih =>
    refine Reaches.bind (memRead_plain h a1 n) ?_
    rintro _ _ ⟨rfl, rfl⟩
    refine Reaches.bind (memWrite_plain h a2 n _) ?_
    rintro _ _ rfl
    exact ih _ _ h

theorem quick_eq (i : Size) (q : BitVec 4) : quick i q = ((q.signExtend 32).setWidth 64 : Quad).setWidth i.bits := by
  revert q
  cases i with
  | b | w | u | d => decide

section Completes

variable {i : Size} {g1 g2 : Gen} {s : State} (hs : s.plain = true) (h2 : legal .write g2 = true)
include hs h2

/-- MOVQi (R301). -/
theorem movq_completes (hi : i ≠ .u) (q : BitVec 4) :
    Completes (.movq i q g2) s (written s i.bytes ((q.signExtend 32).setWidth 64) (genLoc s g2)) := by
  rw [← written_setWidth, ← quick_eq]
  exact completes_of_reaches (by rfl) (by exact encQ_length ..) hs
    (check_none rfl hi (legal_one h2) (.inl rfl) rfl rfl) (locWrite_plain (plain_ram hs) h2 i.bytes _)

variable (h1 : legal .addr g1 = true)
include h1

/-- ADDR (R307). -/
theorem addr_completes {a : Word} (ha : addrOf s g1 = some a) :
    Completes (.addr .d g1 g2) s (written s 4 (a.setWidth 64) (genLoc s g2)) := by
  refine completes_of_reaches (by rfl) (by exact enc4_length ..) hs
    (check_none rfl (by exact nofun) (legal_two h1 h2) (.inl rfl) rfl rfl) ?_
  refine Reaches.bind (addrOp_plain (plain_ram hs) h1 ha) ?_
  rintro _ _ ⟨rfl, rfl⟩
  exact locWrite_plain (plain_ram hs) h2 4 _

/-- MOVMi (R302): both addresses, then the elements. -/
theorem movm_completes (hi : i ≠ .u) {d : Disp} (hd : d.wf = true) (hblock : blockOk i d = true) {a1 a2 : Word}
    (ha1 : addrOf s g1 = some a1) (ha2 : addrOf s g2 = some a2) :
    Completes (.movm i g1 g2 d) s (blockMoved i.bytes a1 a2 (d.value.toNat / i.bytes + 1) s) := by
  have hram := plain_ram hs
  have hres : refuseIf (!blockOk i d) .blockLength = none := by simp [refuseIf, hblock]
  refine completes_of_reaches (by rfl) (by exact encTwo_disp_length ..) hs
    (check_none_disp rfl hd (check_none rfl hi (legal_two h1 (legal_addr_of_write h2)) (.inl rfl) rfl hres)) ?_
  refine Reaches.bind (addrOp_plain hram h1 ha1) ?_
  rintro _ _ ⟨rfl, rfl⟩
  refine Reaches.bind (addrOp_plain hram h2 ha2) ?_
  rintro _ _ ⟨rfl, rfl⟩
  refine Reaches.bind (moveElements_plain i.bytes _ _ _ hram) ?_
  rintro _ _ rfl
  exact Reaches.pure ⟨rfl, rfl⟩

end Completes

/-- Settles O24: each move is a source read and a value written; a source extended by zeros is the same number, and a
destination takes of a quick value the low bits, so that it may be extended to any width. -/
theorem moves : Obligations.Moves := by
  intro i q g1 g2 d s hi hs h2
  refine ⟨fun h1 => ⟨?_, ?_, ?_, fun hd => ?_⟩, movq_completes hs h2 hi q, fun h1 _ => addr_completes hs h2 h1,
    fun h1 hd hblock _ _ => movm_completes hs h2 h1 hi hd hblock⟩
  · exact moved_completes hs hi rfl h1 h2 (f := id) rfl (enc4_length ..) (setWidth_src s hi g1)
  · exact moved_completes (i := .b) hs nofun rfl h1 h2 rfl (encTwo_length ..)
      (zeroExtend_src s (i := .b) nofun g1 (by decide))
  · exact moved_completes (i := .b) hs nofun rfl h1 h2 rfl (encTwo_length ..) rfl
  · have hres : refuseIf (i == .d) .extendSize = none := by simp [refuseIf, hd]
    exact ⟨moved_completes hs hi hres h1 h2 rfl (encTwo_length ..) (zeroExtend_src s hi g1 (Size.bits_le i)),
      moved_completes hs hi hres h1 h2 rfl (encTwo_length ..) rfl⟩

end Sys2Proof.Machine
end

section
/-! SUPPORT. Results in `n` bits against the exact integers: when a signed integer fits, sums, differences, products,
quotients, negatives and shifts, rotations (R320, R329 to R332, R340, R367 to R369). -/

namespace Sys2Proof.Machine

variable {n : Nat}

/-! ### When an integer fits -/

/-- An integer is outside the signed range exactly when it is not what its `n` bits say (R340). -/
theorem outside_eq (hn : 0 < n) (x : Int) : outside n x = decide ((BitVec.ofInt n x).toInt ≠ x) := by
  unfold outside
  rw [← Bool.decide_or]
  refine decide_eq_decide.mpr ⟨fun hout heq => ?_, fun hne => ?_⟩
  · have hle := BitVec.le_toInt (BitVec.ofInt n x)
    have hlt := BitVec.toInt_lt (x := BitVec.ofInt n x)
    omega
  · by_contra hin
    exact hne (BitVec.toInt_ofInt_eq_self hn (by omega) (by omega))

theorem ofInt_sub (x y : Int) : BitVec.ofInt n (x - y) = BitVec.ofInt n x - BitVec.ofInt n y := by
  rw [Int.sub_eq_add_neg, BitVec.ofInt_add, BitVec.ofInt_neg, ← BitVec.sub_eq_add_neg]

theorem ofInt_toNat (a : BitVec n) : BitVec.ofInt n (a.toNat : Int) = a := by
  rw [BitVec.ofInt_natCast, BitVec.ofNat_toNat, BitVec.setWidth_eq]

theorem ofInt_bool (c : Bool) : BitVec.ofInt n (c.toNat : Int) = bitOf c := by cases c <;> simp [bitOf]

/-! ### Sums and differences (R320) -/

/-- The sum in `n` bits is that of the signed and that of the unsigned readings. -/
theorem sum_eq (b a : BitVec n) (c : Bool) :
    b + a + bitOf c = BitVec.ofInt n (b.toInt + a.toInt + c.toNat)
      ∧ b + a + bitOf c = BitVec.ofNat n (b.toNat + a.toNat + c.toNat) := by
  constructor
  · simp only [BitVec.ofInt_add, BitVec.ofInt_toInt, ofInt_bool]
  · simp only [← BitVec.ofInt_natCast, Int.natCast_add, BitVec.ofInt_add, ofInt_toNat, ofInt_bool]

/-- The difference in `n` bits is that of the signed and that of the unsigned readings. -/
theorem difference_eq (b a : BitVec n) (c : Bool) :
    b - a - bitOf c = BitVec.ofInt n (b.toInt - a.toInt - c.toNat)
      ∧ b - a - bitOf c = BitVec.ofInt n ((b.toNat : Int) - a.toNat - c.toNat) := by
  constructor
  · simp only [ofInt_sub, BitVec.ofInt_toInt, ofInt_bool]
  · simp only [ofInt_sub, ofInt_toNat, ofInt_bool]

/-- C is the carry out; F and the overflow say that the exact signed sum does not fit (R321 to R323). -/
theorem addResult_eq (hn : 0 < n) (b a : BitVec n) (c : Bool) :
    let r := BitVec.ofNat n (b.toNat + a.toNat + c.toNat)
    let f := decide (r.toInt ≠ b.toInt + a.toInt + c.toNat)
    addResult b a c = { value := r, psr := setCF (decide (2 ^ n ≤ b.toNat + a.toNat + c.toNat)) f, overflow := f } := by
  obtain ⟨hsigned, hunsigned⟩ := sum_eq b a c
  simp only [addResult, carry, addOvf, outside_eq hn, ← hsigned, ← hunsigned, Nat.add_comm a.toNat b.toNat]

/-- C is the borrow out; F and the overflow say that the exact signed difference does not fit (R324, R325). -/
theorem subResult_eq (hn : 0 < n) (b a : BitVec n) (c : Bool) :
    let r := BitVec.ofInt n ((b.toNat : Int) - a.toNat - c.toNat)
    let f := decide (r.toInt ≠ b.toInt - a.toInt - c.toNat)
    subResult b a c = { value := r, psr := setCF (decide (b.toNat < a.toNat + c.toNat)) f, overflow := f } := by
  obtain ⟨hsigned, hunsigned⟩ := difference_eq b a c
  simp only [subResult, borrow, subOvf, outside_eq hn, ← hsigned, ← hunsigned]

/-! ### Products, quotients and remainders (R328 to R332) -/

theorem mulResult_eq (hn : 0 < n) (b a : BitVec n) :
    mulResult b a = { value := b * a, overflow := decide ((b * a).toInt ≠ b.toInt * a.toInt) } := by
  simp only [mulResult, outside_eq hn, BitVec.ofInt_mul, BitVec.ofInt_toInt]

theorem quoResult_eq (hn : 0 < n) (b a : BitVec n) :
    quoResult b a = { value := b.sdiv a, overflow := decide ((b.sdiv a).toInt ≠ b.toInt.tdiv a.toInt) } := by
  have hvalue : BitVec.ofInt n (b.toInt.tdiv a.toInt) = b.sdiv a :=
    BitVec.eq_of_toInt_eq (by rw [BitVec.toInt_ofInt, BitVec.toInt_sdiv])
  simp only [quoResult, outside_eq hn, hvalue]

theorem divResult_eq (hn : 0 < n) (b a : BitVec n) :
    let r := BitVec.ofInt n (b.toInt.fdiv a.toInt)
    divResult b a = { value := r, overflow := decide (r.toInt ≠ b.toInt.fdiv a.toInt) } := by
  simp only [divResult, outside_eq hn]

theorem remResult_eq (b a : BitVec n) : remResult b a = { value := b.srem a } := by
  simp only [remResult, ← BitVec.toInt_srem, BitVec.ofInt_toInt]

theorem modResult_eq (b a : BitVec n) : modResult b a = { value := b.smod a } := by
  simp only [modResult, ← BitVec.toInt_smod, BitVec.ofInt_toInt]

theorem dividing_pure {a : BitVec n} (ha : a ≠ 0#n) (f : BitVec n → BitVec n → Result n) (b : BitVec n) :
    dividing f b a = pure (f b a) := if_neg ha

/-! ### Negatives (R326, R327) -/

/-- The value without a negative is the least of the signed range. -/
theorem isMin_eq (hn : 0 < n) (a : BitVec n) : isMin a = decide (a.toInt = -(2 : Int) ^ (n - 1)) := by
  rw [isMin, beq_eq_decide, ← BitVec.toInt_intMin_of_pos hn]
  exact decide_eq_decide.mpr BitVec.toInt_inj.symm

theorem ne_zero_eq (a : BitVec n) : (a != 0#n) = decide (a.toNat ≠ 0) := by
  have hiff : a ≠ 0#n ↔ a.toNat ≠ 0 := by simp [← BitVec.toNat_inj]
  rw [← decide_eq_decide.mpr hiff, bne, beq_eq_decide, decide_not]

theorem ofInt_natAbs (a : BitVec n) : BitVec.ofInt n a.toInt.natAbs = if a.msb then -a else a := by
  cases h : a.msb with
  | false =>
    have hpos : 0 ≤ a.toInt := BitVec.toInt_nonneg_of_msb_false h
    rw [Int.natAbs_of_nonneg hpos, BitVec.ofInt_toInt]
    rfl
  | true =>
    have hneg : a.toInt < 0 := of_decide_eq_true (BitVec.msb_eq_toInt.symm.trans h)
    rw [Int.ofNat_natAbs_of_nonpos hneg.le, BitVec.ofInt_neg, BitVec.ofInt_toInt]
    rfl

/-! ### Shifts and rotations (R367 to R369) -/

/-- A left shift multiplies by a power of 2. -/
theorem shiftLeft_eq_ofInt (b : BitVec n) (k : Nat) : b <<< k = BitVec.ofInt n (b.toInt * 2 ^ k) := by
  have htwo : BitVec.ofInt n (2 ^ k) = BitVec.twoPow n k := by
    rw [← Nat.cast_ofNat (R := Int), ← Int.natCast_pow, BitVec.ofInt_natCast]
    exact BitVec.eq_of_toNat_eq (by rw [BitVec.toNat_ofNat, BitVec.toNat_twoPow])
  rw [BitVec.ofInt_mul, BitVec.ofInt_toInt, htwo, BitVec.mul_twoPow_eq_shiftLeft]

theorem inRange_true {c : Int} (hlow : -(n : Int) ≤ c) (hhigh : c ≤ n) :
    (decide (-(n : Int) ≤ c) && decide (c ≤ n)) = true := by
  rw [decide_eq_true hlow, decide_eq_true hhigh, Bool.and_true]

theorem logicalShift_left {b : BitVec n} {c : Byte} (h0 : 0 ≤ c.toInt) (h : c.toInt ≤ n) :
    logicalShift b c = pure { value := b <<< c.toInt.toNat } := by
  have hrange := inRange_true (n := n) (c := c.toInt) (by omega) (by omega)
  simp only [logicalShift, hrange, h0, if_true]

theorem logicalShift_right {b : BitVec n} {c : Byte} (h0 : c.toInt < 0) (h : -(n : Int) ≤ c.toInt) :
    logicalShift b c = pure { value := b >>> (-c.toInt).toNat } := by
  have hrange := inRange_true (n := n) (c := c.toInt) (by omega) (by omega)
  simp only [logicalShift, hrange, h0.not_ge, if_true, if_false]

/-- A left shift overflows when the exact product does not fit (R340). -/
theorem arithmeticShift_left {b : BitVec n} {c : Byte} (hn : 0 < n) (h0 : 0 ≤ c.toInt) (h : c.toInt ≤ n) :
    let r := b <<< c.toInt.toNat
    arithmeticShift b c = pure { value := r, overflow := decide (r.toInt ≠ b.toInt * 2 ^ c.toInt.toNat) } := by
  have hrange := inRange_true (n := n) (c := c.toInt) (by omega) (by omega)
  simp only [arithmeticShift, hrange, h0, if_true, decide_true, Bool.true_and, outside_eq hn, ← shiftLeft_eq_ofInt]

theorem arithmeticShift_right {b : BitVec n} {c : Byte} (h0 : c.toInt < 0) (h : -(n : Int) ≤ c.toInt) :
    arithmeticShift b c = pure { value := b.sshiftRight (-c.toInt).toNat } := by
  have hrange := inRange_true (n := n) (c := c.toInt) (by omega) (by omega)
  simp only [arithmeticShift, hrange, h0.not_ge, if_true, if_false, decide_false, Bool.false_and]

/-- A rotation by a count of either sign is one to the left by the count modulo `n` (R369). -/
theorem rotate_eq {b : BitVec n} {c : Byte} (hlow : -(n : Int) < c.toInt) (hhigh : c.toInt < n) :
    rotate b c =
      pure { value := if 0 ≤ c.toInt then b.rotateLeft c.toInt.toNat else b.rotateRight (-c.toInt).toNat } := by
  have hrange : (decide (-(n : Int) < c.toInt) && decide (c.toInt < n)) = true := by simp [hlow, hhigh]
  have hvalue : (b <<< (c.toInt.emod n).toNat) ||| (b >>> (n - (c.toInt.emod n).toNat))
      = if 0 ≤ c.toInt then b.rotateLeft c.toInt.toNat else b.rotateRight (-c.toInt).toNat := by
    split
    case isTrue h =>
      have hmod : c.toInt.emod n = c.toInt := Int.emod_eq_of_lt h hhigh
      rw [BitVec.rotateLeft_def, hmod, Nat.mod_eq_of_lt (by omega)]
    case isFalse h =>
      have hmod : c.toInt.emod n = c.toInt + n := by
        rw [← Int.emod_eq_of_lt (show 0 ≤ c.toInt + n by omega) (show c.toInt + n < n by omega)]
        exact (Int.add_emod_right ..).symm
      have hleft : (c.toInt + n).toNat = n - (-c.toInt).toNat := by omega
      have hright : n - (n - (-c.toInt).toNat) = (-c.toInt).toNat := by omega
      rw [BitVec.rotateRight_def, hmod, Nat.mod_eq_of_lt (by omega), hleft, hright, BitVec.or_comm]
  simp only [rotate, hrange, if_true, hvalue]

end Sys2Proof.Machine
end

section
/-! SUPPORT. An instruction that completes and traps on an integer overflow, and one that takes a trap while it acts
(R340, R602, R620, R622): the exception is entered from a state that is the expected one but for its bookkeeping and the
debug bits, which the service sequence does not look at. -/

namespace Sys2Proof.Machine

/-! ### What `Agrees` leaves out -/

/-- `u` with the fields of `t` that `Agrees` leaves out. -/
def State.marked (u t : State) : State :=
  { u with
    writeBuffer := t.writeBuffer, fetchUnit := t.fetchUnit, freeCount := t.freeCount, refs := t.refs,
    elementRefs := t.elementRefs, dsr := t.dsr, dbgPending := t.dbgPending }

theorem Agrees.marked {s u t : State} (h : Agrees s u t) : t.marked u = u := h.1

theorem setSp_marked (u t : State) (v : Word) : (u.marked t).setSp v = (u.setSp v).marked t := by
  have hS : (u.marked t).flagS = u.flagS := rfl
  unfold State.setSp
  rw [hS]
  split <;> rfl

theorem pushed_marked (u t : State) (n : Nat) (v : Quad) : (u.marked t).pushed n v = (u.pushed n v).marked t := by
  have hsp : (u.marked t).sp = u.sp := rfl
  simp only [State.pushed, hsp, setSp_marked]
  rfl

theorem entryPushed_marked (clearI : Bool) (copy : Half) (u t : State) :
    entryPushed clearI copy (u.marked t) = (entryPushed clearI copy u).marked t := by
  have hpsr : ({ u.marked t with psr := entryPsr clearI copy } : State)
      = State.marked { u with psr := entryPsr clearI copy } t := rfl
  have hde : (u.marked t).cfgDE = u.cfgDE := rfl
  simp only [entryPushed, hpsr, hde, pushed_marked]
  split
  · exact setSp_marked ..
  · rfl

/-- An entry does not look at what `Agrees` leaves out, and keeps it (R641). -/
theorem entryState_marked (clearI : Bool) (v : Byte) (copy : Half) (ret : Word) (u t : State) :
    entryState clearI v copy ret (u.marked t) = (entryState clearI v copy ret u).marked t := by
  have hde : (u.marked t).cfgDE = u.cfgDE := rfl
  simp only [entryState, entryPushed_marked, hde]
  generalize entryPushed clearI copy u = w
  split
  · exact congrArg (fun x : State => { x with op := .executing, midString := false, afterException := true })
      (pushed_marked { w with pc := _ } t 4 _)
  · exact congrArg (fun x : State => { x with op := .executing, midString := false, afterException := true })
      (pushed_marked { w with mod := _, pc := _, sb := _ } t 4 _)

theorem entryState_debug (clearI : Bool) (v : Byte) (copy : Half) (ret : Word) (s : State) :
    (entryState clearI v copy ret s).dsr = s.dsr ∧ (entryState clearI v copy ret s).dbgPending = s.dbgPending := by
  cases hde : s.cfgDE <;> simp [entryState, entryPushed, hde]

theorem Agrees.ram {s u t : State} (h : Agrees s u t) : t.ram = u.ram := by
  have e := congrArg State.ram h.marked
  exact e

theorem Agrees.psr {s u t : State} (h : Agrees s u t) : t.psr = u.psr := by
  have e := congrArg State.psr h.marked
  exact e

theorem Agrees.pc {s u t : State} (h : Agrees s u t) : t.pc = u.pc := by
  have e := congrArg State.pc h.marked
  exact e

theorem Agrees.dcr {s u t : State} (h : Agrees s u t) : t.dcr = u.dcr := by
  have e := congrArg State.dcr h.marked
  exact e

/-- An exception taken from a state that agrees with `u` leaves what its entry from `u` does (R641). -/
theorem Agrees.takeException {s u w : State} (h : Agrees s u w) (hram : u.ram = true) (hdcr : u.dcr = s.dcr)
    (hp : w.pendingError = false) (clearP clearI : Bool) (v : Byte) (ret : Word) :
    Goes (takeException clearP clearI (pure v) ret w)
      (Agrees s (entryState clearI v (entryCopy clearP u.psr) ret u)) := by
  have hw : w.plain = true := by simp [State.plain, h.ram, hram, hp]
  refine (takeException_agrees hw clearP clearI v ret).mono fun t ht => ?_
  rw [h.psr] at ht
  have hentry := entryState_marked clearI v (entryCopy clearP u.psr) ret w u
  rw [h.marked] at hentry
  obtain ⟨hdsr, hpending⟩ := entryState_debug clearI v (entryCopy clearP u.psr) ret w
  rw [hentry]
  have hden : w.dcr = s.dcr := h.dcr.trans hdcr
  obtain ⟨heq, hmask, hkept⟩ := ht
  obtain ⟨-, hmask', hkept'⟩ := h
  refine ⟨congrArg (·.marked u) heq, (hmask.trans (hdsr ▸ rfl)).trans hmask', fun h0 => ?_⟩
  obtain ⟨h1, h2⟩ := hkept (hden ▸ h0)
  obtain ⟨h3, h4⟩ := hkept' h0
  exact ⟨(h1.trans hdsr).trans h3, (h2.trans hpending).trans h4⟩

/-! ### Trap (OVF) (R622) -/

/-- An overflow with V set is trapped from the state in which the instruction would have completed. -/
theorem complete_overflow {s t : State} (len : Nat) (hv : s.flagV = true) :
    ∃ w, complete len s {} t = .next w ∧ w.writeBuffer = t.writeBuffer
      ∧ complete len s { overflow := true } t = takeOverflow s w := by
  refine ⟨_, complete_next rfl rfl rfl, rfl, ?_⟩
  simp only [complete, hv, Bool.and_self, if_true]
  rfl

theorem complete_overflow_agrees {s u t : State} (len : Nat) (hv : s.flagV = true) (hsim : Sim u t)
    (hram : u.ram = true) (hdcr : u.dcr = s.dcr) :
    let pc := s.pc + BitVec.ofNat 32 len
    Goes (complete len s { overflow := true } t) (Agrees s (entryState false 13#8 u.psr pc (u.retired pc))) := by
  intro pc
  obtain ⟨w, hw, hbuffer, htrap⟩ := complete_overflow (t := t) len hv
  obtain ⟨w', hw', hagrees⟩ := complete_agrees (d := {}) len hsim rfl rfl (.inl rfl)
  obtain rfl : w = w' := Host.Outcome.next.inj (hw.symm.trans hw')
  have hp : w.pendingError = false := (congrArg (·.any (·.failed)) hbuffer).trans hsim.pendingError
  have hpc : w.pc = pc := hagrees.pc
  have hentered : takeOverflow s w = takeException false false (pure 13#8) w.pc w := if_neg (ne_true_of_eq_false hp)
  rw [htrap, hentered, hpc]
  exact hagrees.takeException hram hdcr hp false false 13#8 pc

/-- An instruction whose checks pass, whose actions leave `u` and which detects an overflow as `ov` says (R340). Where
it never does, this says that it completes: `CompletesUnless false` is `Completes`. -/
theorem completesUnless_of_reaches {I : Instr} {sh : Shape} {body : M Done} {s u : State} {ov : Bool}
    (hexec : exec I s = run sh body s) (hlen : (encode I).length = sh.length) (hs : s.plain = true)
    (hc : sh.check s = none) (hram : u.ram = true) (hdcr : u.dcr = s.dcr)
    (hb : Reaches body s fun d u' => d = { overflow := ov } ∧ u' = u) : CompletesUnless ov I s u := by
  obtain ⟨_, _, t, hok, hsim, rfl, rfl⟩ := hb s (Sim.refl (plain_pendingError hs))
  have hrun : exec I s = complete sh.length s { overflow := ov } t :=
    hexec.trans (run_complete hc hok hsim.pendingError)
  unfold CompletesUnless Overflows Completes nextPc
  rw [hrun, hlen]
  split
  case isTrue h =>
    obtain ⟨rfl, hv⟩ := (Bool.and_eq_true _ _).mp h
    exact complete_overflow_agrees sh.length hv hsim hram hdcr
  case isFalse h =>
    refine complete_agrees (d := { overflow := ov }) sh.length hsim rfl rfl ?_
    simpa only [Bool.and_eq_true, not_and_or, Bool.not_eq_true] using h

/-! ### A trap taken while the instruction acts (R602, R620) -/

section Stops

variable {α β : Type} {e : Stop} {u w : State}

/-- From every state that is `u` but for the bookkeeping, the action stops with `e` in a state that is `w` but for the
bookkeeping. -/
def Stops (e : Stop) (m : M α) (u w : State) : Prop := ∀ t, Sim u t → ∃ t', m t = .error e t' ∧ Sim w t'

theorem Stops.stop (u : State) : Stops e (Machine.stop e : M α) u u := fun t ht => ⟨t, rfl, ht⟩

theorem Stops.bind {m : M α} {k : α → M β} (h : Stops e m u w) : Stops e (m >>= k) u w := by
  intro t ht
  obtain ⟨t', hm, hsim⟩ := h t ht
  exact ⟨t', by simp [Bind.bind, EStateM.bind, hm], hsim⟩

theorem Reaches.bind_stops {m : M α} {k : α → M β} {P : α → State → Prop} (h : Reaches m u P)
    (hk : ∀ a u', P a u' → Stops e (k a) u' w) : Stops e (m >>= k) u w := by
  intro t ht
  obtain ⟨a, u', t', hm, hsim, hp⟩ := h t ht
  obtain ⟨t'', hk', hsim'⟩ := hk a u' hp t' hsim
  exact ⟨t'', by simp [Bind.bind, EStateM.bind, hm, hk'], hsim'⟩

theorem Stops.getS {k : State → M β} (hk : ∀ wb sc fc rf, Stops e (k (u.book wb sc fc rf)) u w) :
    Stops e (Machine.getS >>= k) u w := by
  rintro _ ⟨wb, sc, fc, rf, hw, rfl⟩
  exact hk wb sc fc rf _ ⟨wb, sc, fc, rf, hw, rfl⟩

end Stops

/-- Reading a source changes nothing that survives a suspension: a popped stack pointer is put back (R602). -/
theorem suspend_afterSrc (s : State) (n : Nat) (g : Gen) (wb sc fc rf) :
    suspend s ((afterSrc s n g).book wb sc fc rf) = s.book wb sc fc rf := by
  unfold afterSrc
  cases genLoc s g with
  | reg | imm | mem => rfl
  | tos => simp only [suspend, afterRead, State.book, State.popped_mem, State.popped_icache, State.popped_dcache,
      State.popped_icuReplies, State.popped_slaveReplies, State.popped_busReplies]

/-- Other bookkeeping is not seen (`Agrees`). -/
theorem agrees_book (s : State) (wb sc fc rf) : Agrees s s (s.book wb sc fc rf) := ⟨rfl, rfl, fun _ => ⟨rfl, rfl⟩⟩

/-- An instruction that has read its source and then stops with a trap leaves nothing but the entry (R602, R620). -/
theorem traps_of_stops {I : Instr} {sh : Shape} {body : M Done} {s : State} {k : TrapKind} {n : Nat} {g : Gen}
    (hs : s.plain = true) (hexec : exec I s = run sh body s) (hc : sh.check s = none)
    (hb : Stops (.trap k) body s (afterSrc s n g)) : Traps I s k := by
  obtain ⟨t, herr, wb, sc, fc, rf, hw, rfl⟩ := hb s (Sim.refl (plain_pendingError hs))
  have hrun : exec I s = takeTrap s k (s.book wb sc fc rf) := by
    simp only [hexec, run, finish, checked, hc, herr, suspend_afterSrc]
  have hp : (s.book wb sc fc rf).pendingError = false := hw
  have hentered : takeTrap s k (s.book wb sc fc rf)
      = takeException k.clearsP false (pure k.vector) s.pc (s.book wb sc fc rf) := if_neg (ne_true_of_eq_false hp)
  unfold Traps
  rw [hrun, hentered]
  exact (agrees_book s wb sc fc rf).takeException (plain_ram hs) rfl hp ..

end Sys2Proof.Machine
end

section
/-! SUPPORT. Two-operand instructions that may overflow: gen1 read, gen2 written or replaced with a result of known
value, flags and overflow (R264, R320, R340). -/

namespace Sys2Proof.Machine

theorem Size.bits_pos (i : Size) : 0 < i.bits := by cases i <;> decide

/-! ### What writing an operand leaves -/

theorem written_frame (s : State) (n : Nat) (v : Quad) (l : Loc) :
    (written s n v l).ram = s.ram ∧ (written s n v l).dcr = s.dcr := by
  cases l <;> simp [written]

theorem rewritten_frame (s : State) (n : Nat) (v : Quad) (l : Loc) :
    (rewritten s n v l).ram = s.ram ∧ (rewritten s n v l).dcr = s.dcr := by
  cases l <;> simp [rewritten]

theorem afterSrc_dcr (s : State) (n : Nat) (g : Gen) : (afterSrc s n g).dcr = s.dcr := (afterSrc_frame s n g).1

theorem afterSrc_psr (s : State) (n : Nat) (g : Gen) : (afterSrc s n g).psr = s.psr := by
  unfold afterSrc
  cases genLoc s g <;> simp [afterRead]

theorem afterSrc_flagC (s : State) (n : Nat) (g : Gen) : (afterSrc s n g).flagC = s.flagC :=
  congrArg (·.getLsbD 0) (afterSrc_psr s n g)

/-! ### Instructions with a result -/

section Results

variable {I : Instr} {basic n1 n2 w1 w2 : Nat} {i : Size} {g1 g2 : Gen} {s : State} {v : BitVec w2} {p : Half → Half}
  {ov : Bool}

/-- gen2 replaced with a result of its old value and of gen1. -/
theorem replaced_completesUnless {f : State → BitVec w2 → BitVec w1 → M (Result w2)} (hs : s.plain = true) (hi : i ≠ .u)
    (h1 : legal .read g1 = true) (h2 : legal .rmw g2 = true)
    (hexec : exec I s = run { basic := basic, size := i, ops := [rd g1 n1, rw g2 n2] }
      (readModify n1 n2 w1 w2 g1 g2 f) s)
    (hlen : (encode I).length = basic + (g1.length n1 + g2.length n2))
    (hf : ∀ wb sc fc rf, f ((afterSrc s n1 g1).book wb sc fc rf) ((dest s n1 g1 n2 g2).setWidth w2)
      ((src s n1 g1).setWidth w1) = pure { value := v, psr := p, overflow := ov }) :
    CompletesUnless ov I s ((replaced s n1 g1 n2 g2 (v.setWidth 64)).withPsr p) := by
  have hram : (afterSrc s n1 g1).ram = true := (afterSrc_ram s n1 g1).trans (plain_ram hs)
  obtain ⟨hram', hdcr'⟩ := rewritten_frame (afterSrc s n1 g1) n2 (v.setWidth 64) (genLoc (afterSrc s n1 g1) g2)
  refine completesUnless_of_reaches hexec hlen hs (check_none rfl hi (legal_two h1 h2) (.inl rfl) rfl rfl)
    (hram'.trans hram) (hdcr'.trans (afterSrc_dcr ..)) ?_
  refine (readModify_plain (plain_ram hs) h1 h2 (P := (· = { value := v, psr := p, overflow := ov }))
    fun wb sc fc rf => ?_).mono ?_
  · intro u1
    rw [hf]
    exact Reaches.pure ⟨rfl, rfl⟩
  · rintro _ _ ⟨_, rfl, rfl, rfl⟩
    exact ⟨rfl, rfl⟩

/-- gen2 written with a result of gen1. -/
theorem written_completesUnless {f : BitVec w1 → M (Result w2)} (hs : s.plain = true) (hi : i ≠ .u)
    (h1 : legal .read g1 = true) (h2 : legal .write g2 = true)
    (hexec : exec I s = run { basic := basic, size := i, ops := [rd g1 n1, wr g2 n2] }
      (readWrite n1 n2 w1 w2 g1 g2 f) s)
    (hlen : (encode I).length = basic + (g1.length n1 + g2.length n2))
    (hf : f ((src s n1 g1).setWidth w1) = pure { value := v, psr := p, overflow := ov }) :
    CompletesUnless ov I s ((moved s n1 g1 n2 g2 fun _ => v.setWidth 64).withPsr p) := by
  have hram : (afterSrc s n1 g1).ram = true := (afterSrc_ram s n1 g1).trans (plain_ram hs)
  obtain ⟨hram', hdcr'⟩ := written_frame (afterSrc s n1 g1) n2 (v.setWidth 64) (genLoc (afterSrc s n1 g1) g2)
  exact completesUnless_of_reaches hexec hlen hs (check_none rfl hi (legal_two h1 h2) (.inl rfl) rfl rfl)
    (hram'.trans hram) (hdcr'.trans (afterSrc_dcr ..)) (readWrite_plain (plain_ram hs) h1 h2 hf)

end Results

section Integers

variable {I : Instr} {basic : Nat} {i : Size} {g1 g2 : Gen} {s : State} {v : BitVec i.bits} {p : Half → Half}
  {ov : Bool} (hs : s.plain = true) (hi : i ≠ .u) (h1 : legal .read g1 = true)
include hs hi h1

theorem unary_completesUnless {f : BitVec i.bits → M (Result i.bits)} (h2 : legal .write g2 = true)
    (hexec : exec I s = unary i g1 g2 f s) (hlen : (encode I).length = 3 + (g1.length i.bytes + g2.length i.bytes))
    (hf : f ((src s i.bytes g1).setWidth i.bits) = pure { value := v, psr := p, overflow := ov }) :
    CompletesUnless ov I s ((moved s i.bytes g1 i.bytes g2 fun _ => v.setWidth 64).withPsr p) :=
  written_completesUnless hs hi h1 h2 hexec hlen hf

variable (h2 : legal .rmw g2 = true)
include h2

/-- Reading gen1 leaves C, the one flag that a result may depend on, as it was. -/
theorem binary_completesUnless {f : State → BitVec i.bits → BitVec i.bits → M (Result i.bits)}
    (hexec : exec I s = binary basic i g1 g2 f s)
    (hlen : (encode I).length = basic + (g1.length i.bytes + g2.length i.bytes))
    (hf : ∀ t, t.flagC = s.flagC → f t ((dest s i.bytes g1 i.bytes g2).setWidth i.bits)
      ((src s i.bytes g1).setWidth i.bits) = pure { value := v, psr := p, overflow := ov }) :
    CompletesUnless ov I s ((replaced s i.bytes g1 i.bytes g2 (v.setWidth 64)).withPsr p) :=
  replaced_completesUnless hs hi h1 h2 hexec hlen fun _ _ _ _ => hf _ (afterSrc_flagC s i.bytes g1)

/-- A division by another divisor than 0 (R329 to R332). -/
theorem division_completesUnless {f : BitVec i.bits → BitVec i.bits → Result i.bits}
    (hexec : exec I s = binary 3 i g1 g2 (fun _ => dividing f) s)
    (hlen : (encode I).length = 3 + (g1.length i.bytes + g2.length i.bytes))
    (ha : (src s i.bytes g1).setWidth i.bits ≠ 0#i.bits)
    (hf : f ((dest s i.bytes g1 i.bytes g2).setWidth i.bits) ((src s i.bytes g1).setWidth i.bits)
      = { value := v, overflow := ov }) :
    CompletesUnless ov I s (replaced s i.bytes g1 i.bytes g2 (v.setWidth 64)) :=
  binary_completesUnless (p := id) hs hi h1 h2 hexec hlen fun _ _ => (dividing_pure ha f _).trans (congrArg pure hf)

/-- A shift or rotation, whose count is one byte (R367 to R369). -/
theorem shift_completesUnless {f : BitVec i.bits → Byte → M (Result i.bits)} (hexec : exec I s = shift i g1 g2 f s)
    (hlen : (encode I).length = 3 + (g1.length 1 + g2.length i.bytes))
    (hf : f ((dest s 1 g1 i.bytes g2).setWidth i.bits) ((src s 1 g1).setWidth 8)
      = pure { value := v, overflow := ov }) :
    CompletesUnless ov I s (replaced s 1 g1 i.bytes g2 (v.setWidth 64)) :=
  replaced_completesUnless (p := id) hs hi h1 h2 hexec hlen fun _ _ _ _ => hf

end Integers

/-- A result that is no value but a stop leaves gen1 read and gen2 as it was. -/
theorem readModify_stops {n1 n2 w1 w2 : Nat} {g1 g2 : Gen} {e : Stop}
    {f : State → BitVec w2 → BitVec w1 → M (Result w2)} {u : State} (hram : u.ram = true)
    (h1 : legal .read g1 = true) (h2 : legal .rmw g2 = true)
    (hf : ∀ t b, f t b ((src u n1 g1).setWidth w1) = stop e) :
    Stops e (readModify n1 n2 w1 w2 g1 g2 f) u (afterSrc u n1 g1) := by
  have hram' : (afterSrc u n1 g1).ram = true := (afterSrc_ram u n1 g1).trans hram
  refine Reaches.bind_stops (readOp_plain hram h1 n1) ?_
  rintro _ _ ⟨rfl, rfl⟩
  refine Reaches.bind_stops (locGen_plain hram' h2) ?_
  rintro _ _ ⟨rfl, rfl⟩
  refine Reaches.bind_stops (readRmw_plain hram' n2 _) ?_
  rintro _ _ ⟨rfl, rfl⟩
  refine Stops.getS fun wb sc fc rf => Stops.bind ?_
  rw [hf]
  exact Stops.stop _

theorem readInt_plain {u : State} (h : u.ram = true) (i : Size) {g : Gen} (hg : legal .read g = true) :
    Reaches (readInt i g) u fun v u' => v = (src u i.bytes g).setWidth i.bits ∧ u' = afterSrc u i.bytes g := by
  refine Reaches.bind (readOp_plain h hg i.bytes) ?_
  rintro _ _ ⟨rfl, rfl⟩
  exact Reaches.pure ⟨rfl, rfl⟩

/-- Reading the halves of a double-length operand changes nothing. -/
theorem readDouble_unchanged {u : State} (h : u.ram = true) (n : Nat) (l : Loc) :
    Reaches (readDouble n l) u fun _ u' => u' = u := by
  cases l with
  | reg k => exact Reaches.getS fun _ _ _ _ => Reaches.pure rfl
  | tos => exact Reaches.getS fun _ _ _ _ => Reaches.bind (memReadRmw_plain h _ _) fun _ _ ⟨_, hu⟩ => Reaches.pure hu
  | imm => exact Reaches.pure rfl
  | mem a => exact Reaches.bind (memReadRmw_plain h a _) fun _ _ ⟨_, hu⟩ => Reaches.pure hu

end Sys2Proof.Machine
end

section
/-! PROOF. Integer arithmetic with its flags and its overflow; division by zero (R320 to R332, R340, R341, R364,
R365). -/

namespace Sys2Proof.Machine

/-- Settles O25: the least value is the one whose negative does not fit. -/
theorem unaryOperations : Obligations.UnaryOperations := by
  intro i g1 g2 s hi hs h1 h2 a least out
  have hleast : isMin a = least := isMin_eq (Size.bits_pos i) a
  refine ⟨?_, ?_, ?_, ?_⟩
  · rw [← ne_zero_eq, ← hleast]
    exact unary_completesUnless hs hi h1 h2 rfl (encTwo_length ..) rfl
  · rw [ofInt_natAbs, ← hleast]
    exact unary_completesUnless hs hi h1 h2 rfl (encTwo_length ..) rfl
  · exact unary_completesUnless (p := id) (ov := false) hs hi h1 h2 rfl (encTwo_length ..) rfl
  · exact unary_completesUnless (p := id) (ov := false) hs hi h1 h2 rfl (encTwo_length ..) rfl

/-! ### Sums and differences -/

/-- ADDQi (R322): gen2 replaced with a result of its old value. -/
theorem addq_completesUnless {i : Size} {g : Gen} {s : State} {q : BitVec 4} {v : BitVec i.bits} {p : Half → Half}
    {ov : Bool} (hs : s.plain = true) (hi : i ≠ .u) (hg : legal .rmw g = true)
    (hf : addResult ((locValue s i.bytes (genLoc s g)).setWidth i.bits) (quick i q) false
      = { value := v, psr := p, overflow := ov }) :
    CompletesUnless ov (.addq i q g) s ((rewritten s i.bytes (v.setWidth 64) (genLoc s g)).withPsr p) := by
  have hram := plain_ram hs
  obtain ⟨hram', hdcr'⟩ := rewritten_frame s i.bytes (v.setWidth 64) (genLoc s g)
  refine completesUnless_of_reaches (by rfl) (by exact encQ_length ..) hs
    (check_none rfl hi (legal_one hg) (.inl rfl) rfl rfl) (hram'.trans hram) hdcr' ?_
  refine Reaches.bind (locGen_plain hram hg) ?_
  rintro _ _ ⟨rfl, rfl⟩
  refine Reaches.bind (readRmw_plain hram i.bytes _) ?_
  rintro _ _ ⟨rfl, rfl⟩
  simp only [hf]
  refine Reaches.bind (writeRmw_plain hram i.bytes _ (genLoc_not_imm (by decide) hg)) ?_
  rintro _ _ rfl
  refine Reaches.bind (Reaches.updPsr (Q := fun _ u' => u' = _) rfl) ?_
  rintro _ _ rfl
  exact Reaches.pure ⟨rfl, rfl⟩

/-- Settles O27: C is judged on the unsigned and F on the signed reading of one sum or difference (`addResult_eq`,
`subResult_eq`). -/
theorem addAndSubtract : Obligations.AddAndSubtract := by
  intro i q g1 g2 s hi hs h2 sum difference
  have hn := Size.bits_pos i
  refine ⟨fun h1 => ⟨?_, ?_, ?_, ?_⟩, addq_completesUnless hs hi h2 (addResult_eq hn ..)⟩
  · exact binary_completesUnless hs hi h1 h2 rfl (enc4_length ..) fun _ _ => congrArg pure (addResult_eq hn ..)
  · exact binary_completesUnless hs hi h1 h2 rfl (enc4_length ..) fun _ hc => congrArg pure (hc ▸ addResult_eq hn ..)
  · exact binary_completesUnless hs hi h1 h2 rfl (enc4_length ..) fun _ _ => congrArg pure (subResult_eq hn ..)
  · exact binary_completesUnless hs hi h1 h2 rfl (enc4_length ..) fun _ hc => congrArg pure (hc ▸ subResult_eq hn ..)

/-! ### Products and quotients -/

/-- Settles O28: the result is the low bits of the exact product or quotient, with an overflow if they are not all of
it; a remainder always fits. -/
theorem multiplyAndDivide : Obligations.MultiplyAndDivide := by
  intro i g1 g2 s hi hs h1 h2 a b out
  have hn := Size.bits_pos i
  refine ⟨?_, fun ha => ⟨?_, ?_, ?_, ?_⟩⟩
  · exact binary_completesUnless (p := id) hs hi h1 h2 rfl (encTwo_length ..)
      fun _ _ => congrArg pure (mulResult_eq hn b a)
  · exact division_completesUnless hs hi h1 h2 rfl (encTwo_length ..) ha (quoResult_eq hn b a)
  · exact division_completesUnless (ov := false) hs hi h1 h2 rfl (encTwo_length ..) ha (remResult_eq b a)
  · exact division_completesUnless hs hi h1 h2 rfl (encTwo_length ..) ha (divResult_eq hn b a)
  · exact division_completesUnless (ov := false) hs hi h1 h2 rfl (encTwo_length ..) ha (modResult_eq b a)

/-! ### Division by zero -/

section ByZero

variable {i : Size} {g1 g2 : Gen} {s : State} (hs : s.plain = true) (hi : i ≠ .u) (h1 : legal .read g1 = true)
  (h2 : legal .rmw g2 = true) (hzero : (src s i.bytes g1).setWidth i.bits = 0#i.bits)
include hs hi h1 h2 hzero

theorem division_traps {I : Instr} {f : BitVec i.bits → BitVec i.bits → Result i.bits}
    (hexec : exec I s = binary 3 i g1 g2 (fun _ => dividing f) s) : Traps I s .dvz :=
  traps_of_stops hs hexec (check_none rfl hi (legal_two h1 h2) (.inl rfl) rfl rfl)
    (readModify_stops (plain_ram hs) h1 h2 fun _ _ => if_pos hzero)

/-- DEIi reads both halves of its destination before it looks at the divisor (R334). -/
theorem dei_traps (hodd : oddRegister g2 = false) : Traps (.dei i g1 g2) s .dvz := by
  have hram' : (afterSrc s i.bytes g1).ram = true := (afterSrc_ram s i.bytes g1).trans (plain_ram hs)
  have hres : refuseIf (oddRegister g2) .oddPair = none := if_neg (ne_true_of_eq_false hodd)
  refine traps_of_stops (n := i.bytes) (g := g1) hs (by rfl)
    (check_none rfl hi (legal_two h1 h2) (.inl rfl) rfl hres) ?_
  refine Reaches.bind_stops (readInt_plain (plain_ram hs) i h1) ?_
  rintro _ _ ⟨rfl, rfl⟩
  refine Reaches.bind_stops (locGen_plain hram' h2) ?_
  rintro _ _ ⟨rfl, rfl⟩
  refine Reaches.bind_stops (readDouble_unchanged hram' i.bytes _) ?_
  rintro _ _ rfl
  simp only [hzero, if_true]
  exact Stops.stop _

end ByZero

/-- Settles O29: the divisor is read and found 0 before anything is written; TOS, if it was the source, is put back. -/
theorem divideByZero : Obligations.DivideByZero := by
  intro i g1 g2 s hi hs h1 h2 hsrc
  have hzero : (src s i.bytes g1).setWidth i.bits = 0#i.bits := by rw [hsrc, BitVec.setWidth_zero]
  refine ⟨?_, dei_traps hs hi h1 h2 hzero⟩
  have hdivision {I : Instr} {f : BitVec i.bits → BitVec i.bits → Result i.bits}
      (hexec : exec I s = binary 3 i g1 g2 (fun _ => dividing f) s) := division_traps hs hi h1 h2 hzero hexec
  simp only [List.forall_mem_cons, List.not_mem_nil, false_imp_iff, implies_true, and_true]
  exact ⟨hdivision rfl, hdivision rfl, hdivision rfl, hdivision rfl⟩

end Sys2Proof.Machine
end

section
/-! PROOF. Comparisons (R337 to R339). -/

namespace Sys2Proof.Machine

theorem getLsbD_setBit_same (p : Half) {k : Nat} (hk : k < 16) (b : Bool) : (setBit p k b).getLsbD k = b := by
  cases b <;> simp [setBit, hk]

theorem getLsbD_setBit_other (p : Half) {k j : Nat} (hj : j < 16) (h : j ≠ k) (b : Bool) :
    (setBit p k b).getLsbD j = p.getLsbD j :=
  bit_eq_of_and_eq (setBit_and (m := BitVec.twoPow 16 j) p b (by simp [BitVec.getLsbD_twoPow, h]))
    (by simp [hj])

theorem getLsbD_setBit (p : Half) {k j : Nat} (hk : k < 16) (hj : j < 16) (b : Bool) :
    (setBit p k b).getLsbD j = if j = k then b else p.getLsbD j := by
  split
  case isTrue h => exact h ▸ getLsbD_setBit_same p hk b
  case isFalse h => exact getLsbD_setBit_other p hj h b

/-- Writing Z, N and L again leaves nothing of what was written first. -/
theorem setZNL_setZNL (z n l z' n' l' : Bool) (p : Half) : setZNL z n l (setZNL z' n' l' p) = setZNL z n l p := by
  refine BitVec.eq_of_getLsbD_eq fun j hj => ?_
  have hbit {k : Nat} (hk : k < 16) (q : Half) (b : Bool) := getLsbD_setBit q hk hj b
  simp only [setZNL, hbit (by decide : 2 < 16), hbit (by decide : 6 < 16), hbit (by decide : 7 < 16)]
  split_ifs <;> rfl

/-- The flags of CMPMi: those of the first unequal pair, or those of equality (R339). -/
def pairFlags (i : Size) : Option (Quad × Quad) → Half → Half
  | none => setZNL true false false
  | some (x, y) => compareFlags (x.setWidth i.bits : BitVec i.bits) (y.setWidth i.bits)

/-- With the flags of equality set, the elements are compared up to the first unequal pair, which gives its own. -/
theorem compareElements_plain (i : Size) (a1 a2 : Word) (k : Nat) {u : State} (h : u.ram = true) :
    Reaches (compareElements i a1 a2 k) (u.withPsr (setZNL true false false)) fun _ u' =>
      u' = u.withPsr (pairFlags i (firstUnequal u i.bytes a1 a2 k)) := by
  have hread (a : Word) : Reaches (memRead a i.bytes) (u.withPsr (setZNL true false false)) fun v u' =>
      v = u.load a i.bytes ∧ u' = u.withPsr (setZNL true false false) :=
    memRead_plain (u := u.withPsr (setZNL true false false)) h a i.bytes
  induction k generalizing a1 a2 with
  | zero => exact Reaches.pure rfl
  | succ k ih =>
    refine Reaches.bind (hread a1) ?_
    rintro _ _ ⟨rfl, rfl⟩
    refine Reaches.bind (hread a2) ?_
    rintro _ _ ⟨rfl, rfl⟩
    by_cases heq : u.load a1 i.bytes = u.load a2 i.bytes
    · simp only [firstUnequal, if_pos heq]
      exact ih _ _
    · simp only [firstUnequal, if_neg heq]
      refine Reaches.updPsr ?_
      simp only [State.withPsr, pairFlags, compareFlags, setZNL_setZNL]

section Completes

variable {i : Size} {g1 g2 : Gen} {s : State} (hs : s.plain = true) (hi : i ≠ .u)
include hs hi

/-- CMPi (R337). -/
theorem cmp_completes (h1 : legal .read g1 = true) (h2 : legal .read g2 = true) :
    let s1 := afterSrc s i.bytes g1
    Completes (.cmp i g1 g2) s ((afterSrc s1 i.bytes g2).withPsr
      (compareFlags ((src s i.bytes g1).setWidth i.bits : BitVec i.bits) ((src s1 i.bytes g2).setWidth i.bits))) := by
  intro s1
  have hram : s1.ram = true := (afterSrc_ram s i.bytes g1).trans (plain_ram hs)
  refine completes_of_reaches (by rfl) (by exact enc4_length ..) hs
    (check_none rfl hi (legal_two h1 h2) (.inl rfl) rfl rfl) ?_
  refine Reaches.bind (readInt_plain (plain_ram hs) i h1) ?_
  rintro _ _ ⟨rfl, rfl⟩
  refine Reaches.bind (readInt_plain hram i h2) ?_
  rintro _ _ ⟨rfl, rfl⟩
  refine Reaches.bind (Reaches.updPsr (Q := fun _ u' => u' = _) rfl) ?_
  rintro _ _ rfl
  exact Reaches.pure ⟨rfl, rfl⟩

/-- CMPQi (R338). -/
theorem cmpq_completes (q : BitVec 4) (h2 : legal .read g2 = true) :
    Completes (.cmpq i q g2) s ((afterSrc s i.bytes g2).withPsr
      (compareFlags (quick i q) ((src s i.bytes g2).setWidth i.bits))) := by
  refine completes_of_reaches (by rfl) (by exact encQ_length ..) hs
    (check_none rfl hi (legal_one h2) (.inl rfl) rfl rfl) ?_
  refine Reaches.bind (readInt_plain (plain_ram hs) i h2) ?_
  rintro _ _ ⟨rfl, rfl⟩
  refine Reaches.bind (Reaches.updPsr (Q := fun _ u' => u' = _) rfl) ?_
  rintro _ _ rfl
  exact Reaches.pure ⟨rfl, rfl⟩

/-- CMPMi (R339). -/
theorem cmpm_completes (h1 : legal .addr g1 = true) (h2 : legal .addr g2 = true) {d : Disp} (hd : d.wf = true)
    (hblock : blockOk i d = true) {a1 a2 : Word} (ha1 : addrOf s g1 = some a1) (ha2 : addrOf s g2 = some a2) :
    Completes (.cmpm i g1 g2 d) s
      (s.withPsr (pairFlags i (firstUnequal s i.bytes a1 a2 (d.value.toNat / i.bytes + 1)))) := by
  have hram := plain_ram hs
  have hres : refuseIf (!blockOk i d) .blockLength = none := by simp [refuseIf, hblock]
  refine completes_of_reaches (by rfl) (by exact encTwo_disp_length ..) hs
    (check_none_disp rfl hd (check_none rfl hi (legal_two h1 h2) (.inl rfl) rfl hres)) ?_
  refine Reaches.bind (addrOp_plain hram h1 ha1) ?_
  rintro _ _ ⟨rfl, rfl⟩
  refine Reaches.bind (addrOp_plain hram h2 ha2) ?_
  rintro _ _ ⟨rfl, rfl⟩
  refine Reaches.bind (Reaches.updPsr (Q := fun _ u' => u' = _) rfl) ?_
  rintro _ _ rfl
  refine Reaches.bind (compareElements_plain i _ _ _ hram) ?_
  rintro _ _ rfl
  exact Reaches.pure ⟨rfl, rfl⟩

end Completes

/-- Settles O32: CMPMi writes the flags of equality first, and those of an unequal pair replace all three. -/
theorem comparisons : Obligations.Comparisons := by
  intro i q g1 g2 d s hi hs flags
  refine ⟨cmp_completes hs hi, cmpq_completes hs hi q, fun h1 h2 hd hblock a1 a2 ha1 ha2 => ?_⟩
  have h := cmpm_completes hs hi h1 h2 hd hblock ha1 ha2
  cases hpair : firstUnequal s i.bytes a1 a2 (d.value.toNat / i.bytes + 1) with
  | none | some => exact hpair ▸ h

end Sys2Proof.Machine
end

section
/-! PROOF. Shifts and rotations by a count in range (R367 to R369). -/

namespace Sys2Proof.Machine

/-- Settles O33: a left shift is a product by a power of 2, a rotation either way one to the left by the count modulo
the size. -/
theorem shifts : Obligations.Shifts := by
  intro i g1 g2 s hi hs h1 h2 c b out
  refine ⟨fun hlow hhigh => ⟨?_, ?_⟩, fun hneg hlow => ⟨?_, ?_⟩, fun hlow hhigh => ?_⟩
  · exact shift_completesUnless (ov := false) hs hi h1 h2 rfl (encTwo_length ..) (logicalShift_left hlow hhigh)
  · exact shift_completesUnless hs hi h1 h2 rfl (encTwo_length ..) (arithmeticShift_left (Size.bits_pos i) hlow hhigh)
  · exact shift_completesUnless (ov := false) hs hi h1 h2 rfl (encTwo_length ..) (logicalShift_right hneg hlow)
  · exact shift_completesUnless (ov := false) hs hi h1 h2 rfl (encTwo_length ..) (arithmeticShift_right hneg hlow)
  · exact shift_completesUnless (ov := false) hs hi h1 h2 rfl (encTwo_length ..) (rotate_eq hlow hhigh)

end Sys2Proof.Machine
end

section
/-! PROOF. ANDi, ORi, BICi and XORi (R360 to R363): each works bit by bit, so that the low bits of a result are the
result of the low bits. -/

namespace Sys2Proof.Machine

/-- An operand of size `i` written in place takes the low bits of the value (R263). -/
theorem rewritten_setWidth (s : State) (i : Size) (v : Quad) (l : Loc) :
    rewritten s i.bytes ((v.setWidth i.bits).setWidth 64) l = rewritten s i.bytes v l := by
  cases l with
  | reg k => exact written_setWidth s i v (.reg k)
  | imm _ => rfl
  | mem a => exact written_setWidth s i v (.mem a)
  | tos => exact written_setWidth s i v (.mem s.sp)

/-- An operation that gives the low bits of `v` for the low bits of its operands leaves gen2 replaced by `v`, and no
flag changed. -/
theorem logical_completes {I : Instr} {i : Size} {g1 g2 : Gen} {s : State} {v : Quad}
    {f : BitVec i.bits → BitVec i.bits → BitVec i.bits} (hs : s.plain = true) (hi : i ≠ .u)
    (h1 : legal .read g1 = true) (h2 : legal .rmw g2 = true)
    (hexec : exec I s = binary 2 i g1 g2 (fun _ b a => pure { value := f b a }) s)
    (hlen : (encode I).length = 2 + (g1.length i.bytes + g2.length i.bytes))
    (hv : f ((dest s i.bytes g1 i.bytes g2).setWidth i.bits) ((src s i.bytes g1).setWidth i.bits) = v.setWidth i.bits) :
    Completes I s (replaced s i.bytes g1 i.bytes g2 v) := by
  have hlow : replaced s i.bytes g1 i.bytes g2 ((v.setWidth i.bits).setWidth 64) = replaced s i.bytes g1 i.bytes g2 v :=
    rewritten_setWidth ..
  rw [← hlow, ← hv]
  exact binary_completesUnless (p := id) (ov := false) hs hi h1 h2 hexec hlen fun _ _ => rfl

/-- Settles O26: an operation on bits and the cut to the operand's size may be done in either order. -/
theorem logicalOperations : Obligations.LogicalOperations := by
  intro i g1 g2 s hi hs h1 h2 a b
  have hnot : ~~~(a.setWidth i.bits) = (~~~a).setWidth i.bits :=
    (BitVec.setWidth_not ((Size.bits_le i).trans (by decide))).symm
  refine ⟨?_, ?_, ?_, ?_⟩
  · exact logical_completes hs hi h1 h2 rfl (enc4_length ..) BitVec.setWidth_and.symm
  · exact logical_completes hs hi h1 h2 rfl (enc4_length ..) BitVec.setWidth_or.symm
  · exact logical_completes hs hi h1 h2 rfl (enc4_length ..)
      ((congrArg (b.setWidth i.bits &&& ·) hnot).trans BitVec.setWidth_and.symm)
  · exact logical_completes hs hi h1 h2 rfl (enc4_length ..) BitVec.setWidth_xor.symm

end Sys2Proof.Machine
end

section
/-! PROOF. The sixteen conditions (R211): the branches and Scondi are each one instruction with a condition as a
parameter (R366, R441, R442). -/

namespace Sys2Proof.Machine

/-- The condition codes in the order of their encodings (R211). -/
def conditionCodes : List Cond :=
  [.eq, .ne, .cs, .cc, .hi, .ls, .gt, .le, .fs, .fc, .lo, .hs, .lt, .ge, .always, .never]

/-- The branch on a condition (R212, R442). -/
def branchOn (d : Disp) : Cond → Instr
  | .eq => .beq d
  | .ne => .bne d
  | .cs => .bcs d
  | .cc => .bcc d
  | .hi => .bhi d
  | .ls => .bls d
  | .gt => .bgt d
  | .le => .ble d
  | .fs => .bfs d
  | .fc => .bfc d
  | .lo => .blo d
  | .hs => .bhs d
  | .lt => .blt d
  | .ge => .bge d
  | .always => .br d
  | .never => .bnever d

theorem exec_branchOn (d : Disp) (c : Cond) (s : State) : exec (branchOn d c) s = branch c d s := by cases c <;> rfl

/-- A branch goes to its own address plus the displacement where its condition holds, and past its bytes where it does
not; it makes no reference, so that memory may be any (R441, R442). -/
theorem branchOn_completesAt {d : Disp} (hd : d.wf = true) {s : State} (hp : s.pendingError = false) (c : Cond) :
    CompletesAt (branchOn d c) s s
      (if condHolds s c then s.pc + d.value else s.pc + 1#32 + BitVec.ofNat 32 d.length) := by
  have hcheck : Shape.check { basic := 1, disp := some d } s = none := check_none_disp rfl hd (check_basic 1 s)
  have hrun : exec (branchOn d c) s = complete (1 + d.length) s
      { target := if condHolds s c then some (s.pc + d.value) else none } s :=
    (exec_branchOn d c s).trans (run_complete hcheck rfl hp)
  have hnext : s.pc + 1#32 + BitVec.ofNat 32 d.length = s.pc + BitVec.ofNat 32 (1 + d.length) := by
    rw [BitVec.add_assoc, BitVec.ofNat_add]
  unfold CompletesAt
  rw [hrun, hnext]
  cases condHolds s c with
  | true | false => exact complete_agrees (1 + d.length) (Sim.refl hp) rfl rfl (.inl rfl)

/-- The truth of a condition is stored as an operand of size `i` (R366). -/
theorem scond_completes {i : Size} (hi : i ≠ .u) {g : Gen} {s : State} (hs : s.plain = true)
    (hg : legal .write g = true) (c : Cond) :
    Completes (.scond i c g) s (written s i.bytes (if condHolds s c then 1#64 else 0#64) (genLoc s g)) := by
  have hram := plain_ram hs
  refine completes_of_reaches (by rfl) (by exact encQ_length ..) hs
    (check_none rfl hi (legal_one hg) (.inl rfl) rfl rfl) ?_
  refine Reaches.bind (locGen_plain hram hg) ?_
  rintro _ _ ⟨rfl, rfl⟩
  refine Reaches.getS fun _ _ _ _ => ?_
  refine Reaches.bind (writeLoc_plain hram i.bytes _ (genLoc_not_imm (by decide) hg)) ?_
  rintro _ _ rfl
  exact Reaches.pure ⟨rfl, rfl⟩

/-- Settles O23: each row of either table is a condition with its truth. -/
theorem conditions : Obligations.Conditions := by
  intro d i g s
  refine ⟨fun hd hp p hrow => ?_, fun hi hs hg p hrow => ?_⟩
  · obtain ⟨c, -, rfl⟩ : ∃ c ∈ conditionCodes, (branchOn d c, condHolds s c) = p := List.mem_map.mp hrow
    exact branchOn_completesAt hd hp c
  · obtain ⟨c, -, rfl⟩ : ∃ c ∈ conditionCodes, (c, condHolds s c) = p := List.mem_map.mp hrow
    exact scond_completes hi hs hg c

end Sys2Proof.Machine
end

section
/-! SUPPORT. In a state whose memory is RAM, the base of a bit field is located, a field inside its base is read and
replaced, and what is inserted is the source (R268, R400, R402). -/

namespace Sys2Proof.Machine

/-- Reading a source may pop the stack, which leaves the general registers as they were. -/
theorem afterSrc_reg (s : State) (n : Nat) (g : Gen) (k : RegNum) : (afterSrc s n g).reg k = s.reg k := by
  unfold afterSrc
  cases genLoc s g with
  | tos => exact State.setSp_reg s _ k
  | reg | imm | mem => rfl

/-- A register set to a value that does not look at the bookkeeping. -/
theorem setReg_plain {u : State} (k : RegNum) (f : State → Word)
    (hf : ∀ wb sc fc rf, f (u.book wb sc fc rf) = f u) :
    Reaches (upd fun t => t.setReg k (f t)) u fun _ u' => u' = u.setReg k (f u) :=
  Reaches.upd (u' := u.setReg k (f u))
    (fun wb sc fc rf => congrArg ((u.book wb sc fc rf).setReg k) (hf wb sc fc rf)) rfl

theorem baseOp_plain {u : State} (h : u.ram = true) {g : Gen} (hg : legal .regaddr g = true) :
    Reaches (baseOp g) u fun b u' => b = baseOf u g ∧ u' = u := by
  have hnotImm := genLoc_not_imm (u := u) (by decide) hg
  refine Reaches.bind (locGen_plain h hg) ?_
  rintro _ _ ⟨rfl, rfl⟩
  unfold baseOf
  generalize genLoc _ g = l at hnotImm ⊢
  cases l with
  | reg | mem => exact Reaches.pure ⟨rfl, rfl⟩
  | tos => exact Reaches.getS fun _ _ _ _ => Reaches.pure ⟨rfl, rfl⟩
  | imm w => exact absurd rfl (hnotImm w)

/-- A field inside its base is no free value (R400). -/
theorem fieldRead_plain {u : State} (h : u.ram = true) {b : Base} {o : Int} {len : Nat}
    (hin : insideBase b o len = true) :
    Reaches (fieldRead b o len) u fun v u' => v = fieldAt u o len b ∧ u' = u := by
  cases b with
  | reg k =>
    refine Reaches.getS fun _ _ _ _ => ?_
    have hregister : insideRegister o len = true := hin
    simp only [hregister, if_true]
    exact Reaches.pure ⟨rfl, rfl⟩
  | mem a =>
    refine Reaches.bind (memRead_plain h _ _) ?_
    rintro _ _ ⟨rfl, rfl⟩
    exact Reaches.pure ⟨rfl, rfl⟩

/-- A field inside its base is replaced, and nothing else of the base (R400). -/
theorem fieldWrite_plain {u : State} (h : u.ram = true) {b : Base} {o : Int} {len : Nat}
    (hin : insideBase b o len = true) (v : Quad) :
    Reaches (fieldWrite b o len v) u fun _ u' => u' = fieldPut u o len v b := by
  cases b with
  | reg k =>
    refine Reaches.getS fun _ _ _ _ => ?_
    have hregister : insideRegister o len = true := hin
    simp only [hregister, if_true]
    exact setReg_plain k _ fun _ _ _ _ => rfl
  | mem a =>
    refine Reaches.bind (memReadRmw_plain h _ _) ?_
    rintro _ _ ⟨rfl, rfl⟩
    exact memWrite_plain h _ _ _

theorem lengthOk_unrefused {d : Disp} (h : lengthOk d = true) : refuseIf (!lengthOk d) .fieldLength = none := by
  simp [refuseIf, h]

/-- A source that covers the field is inserted as it is (R402). -/
theorem insertSource_of_le {i : Size} {len : Nat} (hlen : len ≤ i.bits) (v : BitVec i.bits) :
    insertSource i v len = pure (v.setWidth 64) := if_pos hlen

/-! ### The byte of EXTSi and INSSi (R403) -/

theorem shortOffset_eq (c : Byte) : shortOffset c = ((c >>> 5).toNat : Int) := by
  have hc := c.isLt
  simp only [shortOffset, BitVec.extractLsb'_toNat, BitVec.toNat_ushiftRight, Nat.shiftRight_eq_div_pow]
  omega

theorem shortLength_eq (c : Byte) : shortLength c = (c &&& 0x1F#8).toNat + 1 := by
  have hmask : c.toNat &&& 0x1F = c.toNat % 2 ^ 5 := Nat.and_two_pow_sub_one_eq_mod c.toNat 5
  simp only [shortLength, BitVec.extractLsb'_toNat, BitVec.toNat_and, Nat.shiftRight_zero]
  exact congrArg (· + 1) hmask.symm

end Sys2Proof.Machine
end

section
/-! PROOF. Bit fields extracted and inserted, at an offset in a register or a short one in the instruction (R401 to
R404). -/

namespace Sys2Proof.Machine

section Actions

variable {u : State} (h : u.ram = true) {b : Base} {o : Int} {len : Nat} (hin : insideBase b o len = true)
include h hin

/-- A field read and written to gen2: the last actions of EXTi and EXTSi. -/
theorem extract_plain {g : Gen} (hg : legal .write g = true) (n : Nat) :
    Reaches (do let f ← fieldRead b o len; writeLoc n f (genLoc u g); return ({} : Done)) u fun d u' =>
      d = {} ∧ u' = written u n (fieldAt u o len b) (genLoc u g) := by
  refine Reaches.bind (fieldRead_plain h hin) ?_
  rintro _ _ ⟨rfl, rfl⟩
  refine Reaches.bind (writeLoc_plain h n _ (genLoc_not_imm (by decide) hg)) ?_
  rintro _ _ rfl
  exact Reaches.pure ⟨rfl, rfl⟩

/-- A field replaced: the last action of INSi and INSSi. -/
theorem insert_plain (v : Quad) :
    Reaches (do fieldWrite b o len v; return ({} : Done)) u fun d u' => d = {} ∧ u' = fieldPut u o len v b := by
  refine Reaches.bind (fieldWrite_plain h hin v) ?_
  rintro _ _ rfl
  exact Reaches.pure ⟨rfl, rfl⟩

end Actions

section Extract

variable {i : Size} {g1 g2 : Gen} {s : State} (hi : i ≠ .u) (hs : s.plain = true) (h1 : legal .regaddr g1 = true)
  (h2 : legal .write g2 = true)
include hi hs h1 h2

/-- EXTi (R401). -/
theorem extf_completes {r : RegNum} {d : Disp} (hd : d.wf = true) (hlength : lengthOk d = true)
    (hin : insideBase (baseOf s g1) (s.reg r).toInt d.value.toNat = true) :
    Completes (.extf i r g1 g2 d) s
      (written s i.bytes (fieldAt s (s.reg r).toInt d.value.toNat (baseOf s g1)) (genLoc s g2)) := by
  have hram := plain_ram hs
  refine completes_of_reaches (by rfl) (by exact encTwo_disp_length ..) hs
    (check_none_disp rfl hd (check_none rfl hi (legal_two h1 h2) (.inl rfl) rfl (lengthOk_unrefused hlength))) ?_
  refine Reaches.bind (baseOp_plain hram h1) ?_
  rintro _ _ ⟨rfl, rfl⟩
  refine Reaches.bind (locGen_plain hram h2) ?_
  rintro _ _ ⟨rfl, rfl⟩
  exact Reaches.getS fun _ _ _ _ => extract_plain hram hin h2 i.bytes

/-- EXTSi (R403). -/
theorem exts_completes {c : Byte} (hin : insideBase (baseOf s g1) (shortOffset c) (shortLength c) = true) :
    Completes (.exts i g1 g2 c) s
      (written s i.bytes (fieldAt s (shortOffset c) (shortLength c) (baseOf s g1)) (genLoc s g2)) := by
  have hram := plain_ram hs
  refine completes_of_reaches (by rfl) (by exact encTwo_byte_length ..) hs
    (check_none rfl hi (legal_two h1 h2) (.inl rfl) rfl rfl) ?_
  refine Reaches.bind (baseOp_plain hram h1) ?_
  rintro _ _ ⟨rfl, rfl⟩
  refine Reaches.bind (locGen_plain hram h2) ?_
  rintro _ _ ⟨rfl, rfl⟩
  exact extract_plain hram hin h2 i.bytes

end Extract

section Insert

variable {i : Size} {g1 g2 : Gen} {s : State} (hi : i ≠ .u) (hs : s.plain = true) (h1 : legal .read g1 = true)
  (h2 : legal .regaddr g2 = true)
include hi hs h1 h2

/-- INSi (R402). -/
theorem ins_completes {r : RegNum} {d : Disp} (hd : d.wf = true) (hlength : lengthOk d = true)
    (hin : insideBase (baseOf (afterSrc s i.bytes g1) g2) (s.reg r).toInt d.value.toNat = true)
    (hcover : d.value.toNat ≤ i.bits) :
    Completes (.ins i r g1 g2 d) s (fieldPut (afterSrc s i.bytes g1) (s.reg r).toInt d.value.toNat
      (src s i.bytes g1) (baseOf (afterSrc s i.bytes g1) g2)) := by
  have hram : (afterSrc s i.bytes g1).ram = true := (afterSrc_ram s i.bytes g1).trans (plain_ram hs)
  refine completes_of_reaches (by rfl) (by exact encTwo_disp_length ..) hs
    (check_none_disp rfl hd (check_none rfl hi (legal_two h1 h2) (.inl rfl) rfl (lengthOk_unrefused hlength))) ?_
  refine Reaches.bind (readInt_plain (plain_ram hs) i h1) ?_
  rintro _ _ ⟨rfl, rfl⟩
  refine Reaches.bind (baseOp_plain hram h2) ?_
  rintro _ _ ⟨rfl, rfl⟩
  refine Reaches.getS fun _ _ _ _ => ?_
  rw [insertSource_of_le hcover, setWidth_src s hi g1, State.book_reg, afterSrc_reg]
  exact insert_plain hram hin _

/-- INSSi (R404). -/
theorem inss_completes {c : Byte}
    (hin : insideBase (baseOf (afterSrc s i.bytes g1) g2) (shortOffset c) (shortLength c) = true) :
    Completes (.inss i g1 g2 c) s (fieldPut (afterSrc s i.bytes g1) (shortOffset c) (shortLength c)
      (src s i.bytes g1) (baseOf (afterSrc s i.bytes g1) g2)) := by
  have hram : (afterSrc s i.bytes g1).ram = true := (afterSrc_ram s i.bytes g1).trans (plain_ram hs)
  refine completes_of_reaches (by rfl) (by exact encTwo_byte_length ..) hs
    (check_none rfl hi (legal_two h1 h2) (.inl rfl) rfl rfl) ?_
  refine Reaches.bind (readInt_plain (plain_ram hs) i h1) ?_
  rintro _ _ ⟨rfl, rfl⟩
  refine Reaches.bind (baseOp_plain hram h2) ?_
  rintro _ _ ⟨rfl, rfl⟩
  rw [setWidth_src s hi g1]
  exact insert_plain hram hin _

end Insert

/-- Settles O37: inside its base a field is no free value; the source is zero-extended by being read (R404), and
covers the field of INSi. -/
theorem bitFields : Obligations.BitFields := by
  intro i r g1 g2 d c s hi hs hd hlength o len so slen
  obtain ⟨hso, hslen⟩ : shortOffset c = so ∧ shortLength c = slen := ⟨shortOffset_eq c, shortLength_eq c⟩
  rw [← hso, ← hslen]
  exact ⟨fun h1 h2 => ⟨extf_completes hi hs h1 h2 hd hlength, exts_completes hi hs h1 h2⟩,
    fun h1 h2 => ⟨ins_completes hi hs h1 h2 hd hlength, inss_completes hi hs h1 h2⟩⟩

end Sys2Proof.Machine
end

section
/-! PROOF. Arrays: a bit offset from an address, a bounds check and an index step (R405, R410, R411). -/

namespace Sys2Proof.Machine

/-- A value is inside the bounds or beyond one of them (R410). -/
theorem not_inside_eq (lower upper v : Int) :
    (!(decide (lower ≤ v) && decide (v ≤ upper))) = decide (v < lower ∨ upper < v) := by
  simp only [Bool.not_and, ← decide_not, not_le, Bool.decide_or]

/-- The index step in 32 bits is that of the unsigned readings (R411). -/
theorem indexStep_eq (x : Word) {w : Nat} {n k : Quad} (hn : n.toNat < 2 ^ w) (hk : k.toNat < 2 ^ w) :
    x * ((n.setWidth w).setWidth 32 + 1#32) + (k.setWidth w).setWidth 32
      = BitVec.ofNat 32 (x.toNat * (n.toNat + 1) + k.toNat) := by
  have hnarrow {q : Quad} (hq : q.toNat < 2 ^ w) : ((q.setWidth w).setWidth 32 : Word) = BitVec.ofNat 32 q.toNat := by
    refine BitVec.eq_of_toNat_eq ?_
    rw [BitVec.toNat_setWidth, BitVec.toNat_setWidth, Nat.mod_eq_of_lt hq, BitVec.toNat_ofNat]
  have hx : BitVec.ofNat 32 x.toNat = x := (BitVec.ofNat_toNat 32 x).trans (BitVec.setWidth_eq x)
  rw [hnarrow hn, hnarrow hk, BitVec.ofNat_add, BitVec.ofNat_mul, BitVec.ofNat_add, hx]

section Completes

variable {i : Size} {r : RegNum} {g1 g2 : Gen} {s : State} (hs : s.plain = true)
include hs

/-- CVTP (R405). -/
theorem cvtp_completes (h1 : legal .addr g1 = true) (h2 : legal .write g2 = true) {a : Word}
    (ha : addrOf s g1 = some a) :
    Completes (.cvtp .d r g1 g2) s (written s 4 ((8#32 * a + s.reg r).setWidth 64) (genLoc s g2)) := by
  have hram := plain_ram hs
  refine completes_of_reaches (by rfl) (by exact encTwo_length ..) hs
    (check_none rfl (by exact nofun) (legal_two h1 h2) (.inl rfl) rfl rfl) ?_
  refine Reaches.bind (addrOp_plain hram h1 ha) ?_
  rintro _ _ ⟨rfl, rfl⟩
  refine Reaches.bind (locGen_plain hram h2) ?_
  rintro _ _ ⟨rfl, rfl⟩
  refine Reaches.getS fun _ _ _ _ => ?_
  refine Reaches.bind (writeLoc_plain hram 4 _ (genLoc_not_imm (by decide) h2)) ?_
  rintro _ _ rfl
  exact Reaches.pure ⟨rfl, rfl⟩

variable (hi : i ≠ .u) (h2 : legal .read g2 = true)
include hi h2

/-- CHECKi (R410): the upper bound, the lower one behind it, then the value. -/
theorem check_completesUnless (h1 : legal .addr g1 = true) {a : Word} (ha : addrOf s g1 = some a) :
    let upper := ((s.load a i.bytes).setWidth i.bits).toInt
    let lower := ((s.load (a + BitVec.ofNat 32 i.bytes) i.bytes).setWidth i.bits).toInt
    let v := ((src s i.bytes g2).setWidth i.bits).toInt
    let bad := decide (v < lower ∨ upper < v)
    CompletesUnless bad (.check i r g1 g2) s
      (((afterSrc s i.bytes g2).setReg r (BitVec.ofInt 32 (v - lower))).withPsr (setF bad)) := by
  have hram := plain_ram hs
  intro upper lower v bad
  refine completesUnless_of_reaches (by rfl) (by exact encTwo_length ..) hs
    (check_none rfl hi (legal_two h1 h2) (.inl rfl) rfl rfl) ((afterSrc_ram ..).trans hram) (afterSrc_dcr ..) ?_
  refine Reaches.bind (addrOp_plain hram h1 ha) ?_
  rintro _ _ ⟨rfl, rfl⟩
  refine Reaches.bind (memRead_plain hram _ _) ?_
  rintro _ _ ⟨rfl, rfl⟩
  refine Reaches.bind (memRead_plain hram _ _) ?_
  rintro _ _ ⟨rfl, rfl⟩
  refine Reaches.bind (readInt_plain hram i h2) ?_
  rintro _ _ ⟨rfl, rfl⟩
  simp only [not_inside_eq]
  refine Reaches.bind (setReg_plain r _ fun _ _ _ _ => rfl) ?_
  rintro _ _ rfl
  refine Reaches.bind (Reaches.updPsr (Q := fun _ u' => u' = _) rfl) ?_
  rintro _ _ rfl
  exact Reaches.pure ⟨rfl, rfl⟩

/-- INDEXi (R411). -/
theorem index_completes (h1 : legal .read g1 = true) :
    let s1 := afterSrc s i.bytes g1
    Completes (.index i r g1 g2) s ((afterSrc s1 i.bytes g2).setReg r
      (BitVec.ofNat 32 ((s.reg r).toNat * ((src s i.bytes g1).toNat + 1) + (src s1 i.bytes g2).toNat))) := by
  intro s1
  have hram : s1.ram = true := (afterSrc_ram s i.bytes g1).trans (plain_ram hs)
  have hreg : (afterSrc s1 i.bytes g2).reg r = s.reg r := (afterSrc_reg ..).trans (afterSrc_reg ..)
  have hn : (src s i.bytes g1).toNat < 2 ^ i.bits := locValue_lt s hi _
  have hk : (src s1 i.bytes g2).toNat < 2 ^ i.bits := locValue_lt s1 hi _
  rw [← indexStep_eq _ hn hk, ← hreg]
  refine completes_of_reaches (by rfl) (by exact encTwo_length ..) hs
    (check_none rfl hi (legal_two h1 h2) (.inl rfl) rfl rfl) ?_
  refine Reaches.bind (readInt_plain (plain_ram hs) i h1) ?_
  rintro _ _ ⟨rfl, rfl⟩
  refine Reaches.bind (readInt_plain hram i h2) ?_
  rintro _ _ ⟨rfl, rfl⟩
  refine Reaches.bind (setReg_plain r _ fun _ _ _ _ => rfl) ?_
  rintro _ _ rfl
  exact Reaches.pure ⟨rfl, rfl⟩

end Completes

/-- Settles O39: a value is out of bounds when it is not inside them, and the operands of an index step are their own
unsigned readings. -/
theorem arrayInstructions : Obligations.ArrayInstructions := by
  intro i r g1 g2 s hi hs
  exact ⟨fun h1 h2 _ => cvtp_completes hs h1 h2, fun h1 h2 _ => check_completesUnless hs hi h2 h1,
    fun h1 h2 => index_completes hs hi h2 h1⟩

end Sys2Proof.Machine
end

section
/-! SUPPORT. An instruction that transfers control: it completes with the PC at the target, or, with an overflow
detected and V set, traps with the target as return address (R23, R340, R622). -/

namespace Sys2Proof.Machine

/-- The checks of an instruction without operands whose displacement is well formed (R201, R242). -/
theorem check_basic_disp {n : Nat} {d : Disp} (hd : d.wf = true) (s : State) :
    Shape.check { basic := n, disp := some d } s = none := check_none_disp rfl hd (check_basic n s)

/-- Completion keeps the write buffer (R101). -/
theorem complete_pendingError {s t w : State} {len : Nat} {d : Done} (he : d.element = false)
    (hu : d.unfinished = false) (hv : d.overflow = false) (h : complete len s d t = .next w) : w.pendingError = t.pendingError := by
  rw [complete_next he hu hv] at h
  cases h
  rfl

/-- The instruction completes with the PC at `pc` and leaves what `u` says, and no write waits that has failed: from
what it leaves the next instruction can be followed in the same way. -/
def CompletesClean (i : Instr) (s u : State) (pc : Word) : Prop :=
  Goes (exec i s) fun t => Agrees s (u.retired pc) t ∧ t.pendingError = false

theorem CompletesClean.completesAt {i : Instr} {s u : State} {pc : Word} (h : CompletesClean i s u pc) :
    CompletesAt i s u pc := h.mono fun _ ht => ht.1

/-- An instruction whose checks pass and whose actions leave `u` completes, at its target if it has one. -/
theorem completesClean_of_ok {I : Instr} {sh : Shape} {body : M Done} {s t u : State} {target : Option Word}
    (hexec : exec I s = run sh body s) (hc : sh.check s = none) (hb : body s = .ok { target := target } t)
    (hsim : Sim u t) : CompletesClean I s u (target.getD (s.pc + BitVec.ofNat 32 sh.length)) := by
  obtain ⟨w, hw, hagrees⟩ := complete_agrees (d := { target := target }) sh.length hsim rfl rfl (.inl rfl)
  exact ⟨w, (hexec.trans (run_complete hc hb hsim.pendingError)).trans hw, hagrees,
    (complete_pendingError rfl rfl rfl hw).trans hsim.pendingError⟩

theorem completesClean_of_reaches {I : Instr} {sh : Shape} {body : M Done} {s u : State} {target : Option Word}
    (hexec : exec I s = run sh body s) (hs : s.plain = true) (hc : sh.check s = none)
    (hb : Reaches body s fun d u' => d = { target := target } ∧ u' = u) :
    CompletesClean I s u (target.getD (s.pc + BitVec.ofNat 32 sh.length)) := by
  obtain ⟨_, _, t, hok, hsim, rfl, rfl⟩ := hb s (Sim.refl (plain_pendingError hs))
  exact completesClean_of_ok hexec hc hok hsim

theorem completesAt_of_reaches {I : Instr} {sh : Shape} {body : M Done} {s u : State} {pc : Word}
    (hexec : exec I s = run sh body s) (hs : s.plain = true) (hc : sh.check s = none)
    (hb : Reaches body s fun d u' => d = { target := some pc } ∧ u' = u) : CompletesAt I s u pc :=
  (completesClean_of_reaches hexec hs hc hb).completesAt

/-- The same where the actions need the address after the instruction. -/
theorem completesClean_of_reaches_next {I : Instr} {sh : Shape} {body : Word → M Done} {s u : State} {pc : Word}
    (hexec : exec I s = runNext sh body s) (hlen : (encode I).length = sh.length) (hs : s.plain = true)
    (hc : sh.check s = none) (hb : Reaches (body (nextPc I s)) s fun d u' => d = { target := some pc } ∧ u' = u) :
    CompletesClean I s u pc := by
  refine completesClean_of_reaches (body := body (nextPc I s)) (target := some pc) ?_ hs hc hb
  rw [hexec, runNext, nextPc, hlen]

/-- An overflow with V set is trapped from the state in which the instruction would have completed, wherever it goes
on. -/
theorem complete_overflow_target {s u t : State} (len : Nat) (target : Option Word) (hv : s.flagV = true)
    (hsim : Sim u t) (hram : u.ram = true) (hdcr : u.dcr = s.dcr) :
    let pc := target.getD (s.pc + BitVec.ofNat 32 len)
    Goes (complete len s { target := target, overflow := true } t)
      (Agrees s (entryState false 13#8 u.psr pc (u.retired pc))) := by
  intro pc
  obtain ⟨w, hw, hagrees⟩ := complete_agrees (d := { target := target }) len hsim rfl rfl (.inl rfl)
  have hp : w.pendingError = false := (complete_pendingError rfl rfl rfl hw).trans hsim.pendingError
  have htrap : complete len s { target := target, overflow := true } t = takeOverflow s w := by
    cases hw.symm.trans (complete_next rfl rfl rfl)
    simp only [complete, hv, Bool.and_self, if_true]
    rfl
  have hentered : takeOverflow s w = takeException false false (pure 13#8) w.pc w := if_neg (ne_true_of_eq_false hp)
  have hpc : w.pc = pc := hagrees.pc
  rw [htrap, hentered, hpc]
  exact hagrees.takeException hram hdcr hp false false 13#8 pc

/-- An instruction that may overflow and may transfer control (R340, R444). -/
theorem completesAt_unless_overflow {I : Instr} {sh : Shape} {body : M Done} {s u : State} {ov : Bool}
    {target : Option Word} {pc : Word} (hexec : exec I s = run sh body s) (hs : s.plain = true)
    (hc : sh.check s = none) (hpc : target.getD (s.pc + BitVec.ofNat 32 sh.length) = pc) (hram : u.ram = true)
    (hdcr : u.dcr = s.dcr) (hb : Reaches body s fun d u' => d = { target := target, overflow := ov } ∧ u' = u) :
    if ov && s.flagV then Goes (exec I s) (Agrees s (entryState false 13#8 u.psr pc (u.retired pc)))
    else CompletesAt I s u pc := by
  obtain ⟨_, _, t, hok, hsim, rfl, rfl⟩ := hb s (Sim.refl (plain_pendingError hs))
  have hrun : exec I s = complete sh.length s { target := target, overflow := ov } t :=
    hexec.trans (run_complete hc hok hsim.pendingError)
  unfold CompletesAt
  rw [hrun, ← hpc]
  split
  case isTrue h =>
    obtain ⟨rfl, hv⟩ := (Bool.and_eq_true _ _).mp h
    exact complete_overflow_target sh.length target hv hsim hram hdcr
  case isFalse h =>
    refine complete_agrees (d := { target := target, overflow := ov }) sh.length hsim rfl rfl ?_
    simpa only [Bool.and_eq_true, not_and_or, Bool.not_eq_true] using h

end Sys2Proof.Machine
end

section
/-! PROOF. Jumps, calls and returns of subroutines, and the counted branch (R440, R443 to R447). -/

namespace Sys2Proof.Machine

theorem exec_jsr (g : Gen) (s : State) : exec (.jsr .d g) s = execJsr .d g s := rfl

theorem exec_bsr (d : Disp) (s : State) : exec (.bsr d) s = execBsr d s := rfl

/-- An exact signed sum does not fit when it is not what its `n` bits say (R340). -/
theorem addOvf_eq {n : Nat} (hn : 0 < n) (b a : BitVec n) :
    addOvf b a false = decide ((b + a).toInt ≠ b.toInt + a.toInt) := by
  rw [addOvf, outside_eq hn, (sum_eq b a false).1.symm]
  simp [bitOf]

/-- The last address loaded into the stack pointer stays (R26). -/
theorem setSp_setSp (s : State) (v w : Word) : (s.setSp v).setSp w = s.setSp w := by
  by_cases hS : s.flagS = true
  · simp only [State.setSp, if_pos hS]
    exact if_pos hS
  · simp only [State.setSp, if_neg hS]
    exact if_neg hS

section Completes

variable {s : State} (hs : s.plain = true)
include hs

/-- JUMP (R440). -/
theorem jump_completesAt {g : Gen} (hg : legal .addr g = true) {a : Word} (ha : addrOf s g = some a) :
    CompletesAt (.jump .d g) s s a := by
  refine completesAt_of_reaches (by rfl) hs (check_none rfl (by exact nofun) (legal_one hg) (.inl rfl) rfl rfl) ?_
  refine Reaches.bind (addrOp_plain (plain_ram hs) hg ha) ?_
  rintro _ _ ⟨rfl, rfl⟩
  exact Reaches.pure ⟨rfl, rfl⟩

/-- JSR (R445): the target is found before the return address is pushed. -/
theorem jsr_completesAt {g : Gen} (hg : legal .addr g = true) {a : Word} (ha : addrOf s g = some a) :
    CompletesAt (.jsr .d g) s (s.pushed 4 ((nextPc (.jsr .d g) s).setWidth 64)) a := by
  refine CompletesClean.completesAt (completesClean_of_reaches_next (by exact exec_jsr g s) (by exact encG_length ..) hs
    (check_none rfl (by exact nofun) (legal_one hg) (.inl rfl) rfl rfl) ?_)
  refine Reaches.bind (addrOp_plain (plain_ram hs) hg ha) ?_
  rintro _ _ ⟨rfl, rfl⟩
  refine Reaches.bind (push_plain (plain_ram hs) 4 _) ?_
  rintro _ _ rfl
  exact Reaches.pure ⟨rfl, rfl⟩

/-- CASEi (R443). -/
theorem casei_completesAt {i : Size} (hi : i ≠ .u) {g : Gen} (hg : legal .read g = true) :
    CompletesAt (.casei i g) s (afterSrc s i.bytes g)
      (s.pc + ((src s i.bytes g).setWidth i.bits).signExtend 32) := by
  have hpc : (afterSrc s i.bytes g).pc = s.pc := by
    unfold afterSrc
    cases genLoc s g with
    | tos => exact State.setSp_pc s _
    | reg | imm | mem => rfl
  refine completesAt_of_reaches (by rfl) hs (check_none rfl hi (legal_one hg) (.inl rfl) rfl rfl) ?_
  refine Reaches.bind (readInt_plain (plain_ram hs) i hg) ?_
  rintro _ _ ⟨rfl, rfl⟩
  exact Reaches.getS fun _ _ _ _ => Reaches.pure ⟨by rw [State.book_pc, hpc], rfl⟩

variable {d : Disp} (hd : d.wf = true)
include hd

/-- BSR (R446). -/
theorem bsr_completesAt :
    CompletesAt (.bsr d) s (s.pushed 4 ((nextPc (.bsr d) s).setWidth 64)) (s.pc + d.value) := by
  refine CompletesClean.completesAt (completesClean_of_reaches_next (exec_bsr d s) (by exact cons_disp_length ..)
    hs (check_basic_disp hd s) ?_)
  refine Reaches.bind (push_plain (plain_ram hs) 4 _) ?_
  rintro _ _ rfl
  exact Reaches.getS fun _ _ _ _ => Reaches.pure ⟨by rw [State.book_pc, State.pushed_pc], rfl⟩

/-- RET (R447): the return address is popped, then the displacement discarded. -/
theorem ret_completesAt : CompletesAt (.ret d) s (s.setSp (s.sp + 4#32 + d.value)) (s.load32 s.sp) := by
  refine completesAt_of_reaches (by rfl) hs (check_basic_disp hd s) ?_
  refine Reaches.bind (pop_plain (plain_ram hs) 4) ?_
  rintro _ _ ⟨rfl, rfl⟩
  refine Reaches.bind (setSp_upd (fun t => t.sp + d.value) (fun _ _ _ _ => rfl) (Q := fun _ u' => u' = _) rfl) ?_
  rintro _ _ rfl
  exact Reaches.pure ⟨rfl, by rw [State.popped, State.setSp_sp, setSp_setSp]⟩

/-- ACBi (R444): the counter is replaced by its sum with the quick value; at 0 the instruction goes on behind itself. -/
theorem acb_completesAt {i : Size} (hi : i ≠ .u) (q : BitVec 4) {g : Gen} (hg : legal .rmw g = true) :
    let b : BitVec i.bits := (locValue s i.bytes (genLoc s g)).setWidth i.bits
    let u := rewritten s i.bytes ((b + quick i q).setWidth 64) (genLoc s g)
    let pc := if b + quick i q = 0#i.bits then nextPc (.acb i q g d) s else s.pc + d.value
    if addOvf b (quick i q) false && s.flagV then
      Goes (exec (.acb i q g d) s) (Agrees s (entryState false 13#8 u.psr pc (u.retired pc)))
    else CompletesAt (.acb i q g d) s u pc := by
  intro b u pc
  have hram := plain_ram hs
  obtain ⟨hram', hdcr'⟩ := rewritten_frame s i.bytes ((b + quick i q).setWidth 64) (genLoc s g)
  have hpc : u.pc = s.pc := by
    simp only [u]
    cases genLoc s g with
    | reg | imm | mem | tos => rfl
  have hlen : (encode (.acb i q g d)).length = 2 + g.length i.bytes + d.length := encQ_disp_length ..
  have htarget : (if b + quick i q = 0#i.bits then none else some (s.pc + d.value)).getD
      (s.pc + BitVec.ofNat 32 (2 + g.length i.bytes + d.length)) = pc := by
    simp only [pc, nextPc, hlen]
    split <;> rfl
  refine completesAt_unless_overflow (by rfl) hs
    (check_none_disp rfl hd (check_none rfl hi (legal_one hg) (.inl rfl) rfl rfl)) (by exact htarget)
    (hram'.trans hram) hdcr' ?_
  refine Reaches.bind (locGen_plain hram hg) ?_
  rintro _ _ ⟨rfl, rfl⟩
  refine Reaches.bind (readRmw_plain hram i.bytes _) ?_
  rintro _ _ ⟨rfl, rfl⟩
  refine Reaches.bind (writeRmw_plain hram i.bytes _ (genLoc_not_imm (by decide) hg)) ?_
  rintro _ _ rfl
  exact Reaches.getS fun _ _ _ _ => Reaches.pure ⟨by rw [State.book_pc, hpc], rfl⟩

end Completes

/-- Settles O41: the counter of ACBi is 0 exactly when it reads as 0, and its sum overflows exactly when the exact one
does not fit. -/
theorem jumpsAndSubroutines : Obligations.JumpsAndSubroutines := by
  intro i q g d s hi hs hd
  refine ⟨fun hg a ha => ⟨jump_completesAt hs hg ha, jsr_completesAt hs hg ha⟩, casei_completesAt hs hi,
    bsr_completesAt hs hd, ret_completesAt hs hd, fun hg => ?_⟩
  intro b r
  have hzero : (r.toNat = 0) = (r = 0#i.bits) := propext (BitVec.toNat_inj (y := 0#i.bits))
  simp only [hzero]
  rw [← addOvf_eq (Size.bits_pos i)]
  exact acb_completesAt hs hd hi q hg

end Sys2Proof.Machine
end

section
/-! PROOF. Calls through procedure descriptors and the return from them (R450 to R453; D20). -/

namespace Sys2Proof.Machine

theorem exec_cxp (d : Disp) (s : State) : exec (.cxp d) s = execCxp d s := rfl

theorem exec_cxpd (g : Gen) (s : State) : exec (.cxpd .d g) s = execCxpd .d g s := rfl

/-- A module is entered: MOD is loaded, then SB is read from its descriptor (R450). -/
theorem enterModule_plain {u : State} (h : u.ram = true) (m : Half) :
    Reaches (enterModule m) u fun _ u' => u' = moduleEntered u m := by
  refine Reaches.bind (setMod_plain h m) ?_
  rintro _ _ ⟨rfl, h'⟩
  refine Reaches.bind (memRead32_plain h' _) ?_
  rintro _ _ ⟨rfl, rfl⟩
  exact (setSb_plain h' _).mono fun _ _ ⟨hw, _⟩ => hw

theorem called_ram (s : State) (desc next : Word) : (called s desc next).ram = s.ram := by
  change ((s.pushed 4 (s.mod.setWidth 64)).pushed 4 (next.setWidth 64)).ram = s.ram
  rw [State.pushed_ram, State.pushed_ram]

/-- The call itself, once its descriptor is read (R451, R452). -/
theorem callModule_plain {u : State} (h : u.ram = true) (desc next : Word) :
    Reaches (callModule desc next) u fun d u' =>
      d = { target := some (calledPc (called u desc next) desc) } ∧ u' = called u desc next := by
  refine Reaches.getS fun _ _ _ _ => ?_
  refine Reaches.bind (push_plain h 4 _) ?_
  rintro _ _ rfl
  have h1 := (State.pushed_ram u 4 (u.mod.setWidth 64)).trans h
  refine Reaches.bind (push_plain h1 4 _) ?_
  rintro _ _ rfl
  refine Reaches.bind (enterModule_plain ((State.pushed_ram ..).trans h1) _) ?_
  rintro _ _ rfl
  refine Reaches.bind (memRead32_plain ((called_ram u desc next).trans h) _) ?_
  rintro _ _ ⟨rfl, rfl⟩
  exact Reaches.pure ⟨rfl, rfl⟩

section Completes

variable {s : State} (hs : s.plain = true)
include hs

/-- CXPD (R452). -/
theorem cxpd_completes {g : Gen} (hg : legal .addr g = true) {a : Word} (ha : addrOf s g = some a) :
    let u := called s (s.load32 a) (nextPc (.cxpd .d g) s)
    CompletesClean (.cxpd .d g) s u (calledPc u (s.load32 a)) := by
  have hram := plain_ram hs
  refine completesClean_of_reaches_next (by exact exec_cxpd g s) (by exact encG_length ..) hs
    (check_none rfl (by exact nofun) (legal_one hg) (.inl rfl) rfl rfl) ?_
  refine Reaches.bind (addrOp_plain hram hg ha) ?_
  rintro _ _ ⟨rfl, rfl⟩
  refine Reaches.bind (memRead32_plain hram _) ?_
  rintro _ _ ⟨rfl, rfl⟩
  exact callModule_plain hram _ _

variable {d : Disp} (hd : d.wf = true)
include hd

/-- CXP (R451): the descriptor is an entry of the module's link table. -/
theorem cxp_completes :
    let desc := s.load32 (s.load32 (s.modAddr + 4#32) + 4#32 * d.value)
    let u := called s desc (nextPc (.cxp d) s)
    CompletesClean (.cxp d) s u (calledPc u desc) := by
  have hram := plain_ram hs
  refine completesClean_of_reaches_next (exec_cxp d s) (by exact cons_disp_length ..) hs (check_basic_disp hd s) ?_
  refine Reaches.getS fun _ _ _ _ => ?_
  refine Reaches.bind (memRead32_plain hram _) ?_
  rintro _ _ ⟨rfl, rfl⟩
  refine Reaches.bind (memRead32_plain hram _) ?_
  rintro _ _ ⟨rfl, rfl⟩
  exact callModule_plain hram _ _

/-- RXP (R453): the return address is popped before MOD. -/
theorem rxp_completesAt :
    let s1 := moduleEntered ((s.popped 4).popped 4) ((s.load (s.sp + 4#32) 4).setWidth 16)
    CompletesAt (.rxp d) s (s1.setSp (s1.sp + d.value)) (s.load32 s.sp) := by
  have hram := plain_ram hs
  have hsp : (s.popped 4).sp = s.sp + 4#32 := State.setSp_sp ..
  have hmod : (s.popped 4).load (s.popped 4).sp 4 = s.load (s.sp + 4#32) 4 := by
    rw [hsp]
    exact load_congr (State.popped_mem s 4) ..
  refine completesAt_of_reaches (by rfl) hs (check_basic_disp hd s) ?_
  refine Reaches.bind (pop_plain hram 4) ?_
  rintro _ _ ⟨rfl, rfl⟩
  have h1 := (State.popped_ram s 4).trans hram
  refine Reaches.bind (pop_plain h1 4) ?_
  rintro _ _ ⟨rfl, rfl⟩
  rw [hmod]
  refine Reaches.bind (enterModule_plain ((State.popped_ram ..).trans h1) _) ?_
  rintro _ _ rfl
  refine Reaches.bind (setSp_upd (fun t => t.sp + d.value) (fun _ _ _ _ => rfl) (Q := fun _ u' => u' = _) rfl) ?_
  rintro _ _ rfl
  exact Reaches.pure ⟨rfl, rfl⟩

end Completes

/-- Settles O42: both calls read their descriptor first and then do the same. -/
theorem externalProcedures : Obligations.ExternalProcedures := by
  intro g d s hs hd
  exact ⟨(cxp_completes hs hd).completesAt, fun hg _ ha => (cxpd_completes hs hg ha).completesAt, rxp_completesAt hs hd⟩

end Sys2Proof.Machine
end

section
/-! PROOF. The returns from exceptions: the frame taken from the selected stack, and the End of Interrupt cycles of RETI
(R457, R458, R634, R650). -/

namespace Sys2Proof.Machine

/-! ### The frame -/

/-- The end of a return: the stack above the frame discarded (R458). -/
theorem discard_plain (u : State) (x : Word) (pc : Word) :
    Reaches (do upd fun s => s.setSp (s.sp + x); serialize; return ({ target := some pc } : Done)) u fun d u' =>
      d = { target := some pc } ∧ u' = u.setSp (u.sp + x) := by
  refine Reaches.bind (setSp_upd (fun t => t.sp + x) (fun _ _ _ _ => rfl) (Q := fun _ u' => u' = _) rfl) ?_
  rintro _ _ rfl
  refine Reaches.bind (serialize_plain _) ?_
  rintro _ _ rfl
  exact Reaches.pure ⟨rfl, rfl⟩

/-- The word between the PC and the PSR copy is read only where there is a MOD to restore (C10; log 38). -/
theorem returnFrom_plain {u : State} (h : u.ram = true) (x : Word) :
    Reaches (returnFrom x) u fun d u' => d = { target := some (u.load32 u.sp) } ∧ u' = returned u x := by
  let w := (u.popped 8).withPsr fun _ => (u.load (u.sp + 6#32) 2).setWidth 16 &&& psrMask
  have hw : w.ram = true := (State.popped_ram u 8).trans h
  have hframe {k : M Done} {Q : Done → State → Prop} (hk : Reaches k w Q) :
      Reaches (do
        upd fun s => s.setSp (s.sp + 8#32)
        updPsr fun _ => (u.load (u.sp + 6#32) 2).setWidth 16 &&& psrMask
        k) u Q := by
    refine Reaches.bind (setSp_upd (fun t => t.sp + 8#32) (fun _ _ _ _ => rfl) (Q := fun _ u' => u' = _) rfl) ?_
    rintro _ _ rfl
    refine Reaches.bind (Reaches.updPsr (Q := fun _ u' => u' = _) rfl) ?_
    rintro _ _ rfl
    exact hk
  cases hde : u.cfgDE with
  | true =>
    have hret : returned u x = w.setSp (w.sp + x) := by simp only [returned, hde, if_true, w]
    rw [hret]
    refine Reaches.getS fun _ _ _ _ => Reaches.bind (memRead32_plain h _) ?_
    rintro _ _ ⟨rfl, rfl⟩
    refine Reaches.of_true hde (Reaches.bind (Reaches.pure (P := fun _ u' => u' = _) rfl) ?_)
    rintro _ _ rfl
    refine Reaches.bind (memRead16_plain h _) ?_
    rintro _ _ ⟨rfl, rfl⟩
    exact hframe (Reaches.of_true hde (discard_plain w x _))
  | false =>
    have hmodular : ¬u.cfgDE = true := ne_true_of_eq_false hde
    let w' := moduleEntered w ((u.load (u.sp + 4#32) 2).setWidth 16)
    have hret : returned u x = w'.setSp (w'.sp + x) := by
      simp only [returned, hde, Bool.false_eq_true, if_false, w', w]
    rw [hret]
    refine Reaches.getS fun _ _ _ _ => Reaches.bind (memRead32_plain h _) ?_
    rintro _ _ ⟨rfl, rfl⟩
    refine Reaches.of_false hmodular (Reaches.bind (memRead16_plain h _) ?_)
    rintro _ _ ⟨rfl, rfl⟩
    refine Reaches.bind (memRead16_plain h _) ?_
    rintro _ _ ⟨rfl, rfl⟩
    refine hframe (Reaches.of_false hmodular (Reaches.bind (enterModule_plain hw _) ?_))
    rintro _ _ rfl
    exact discard_plain w' x _

/-! ### The interrupt control unit -/

/-- A state with other answers of the interrupt control units to come. -/
def State.withReplies (s : State) (rs : List Byte) : State := { s with icuReplies := rs }

theorem bind_of_ok {α β : Type} {m : M α} {k : α → M β} {s t : State} {a : α} (h : m s = .ok a t) :
    (m >>= k) s = k a t := by
  simp [Bind.bind, EStateM.bind, h]

theorem icuNow_ok {u t : State} (hram : u.ram = true) (hsim : Sim u t) (status : BitVec 5) (a : Word) :
    ∃ t', icuNow status a t = .ok (t.icuReplies.headD (Config.icuByte t.freeCount a)) t'
      ∧ Sim (u.withReplies u.icuReplies.tail) t' := by
  obtain ⟨wb, sc, fc, rf, hw, rfl⟩ := hsim
  let r : Ref := .mem status a 1 false u.flagU false ((u.icuReplies.headD (Config.icuByte fc a)).setWidth 64)
  let w : State := (u.withReplies u.icuReplies.tail).book wb sc (fc + 1) (rf ++ [r])
  have hreply : useReply w = w := useReply_ram (s := w) hram
  have herror : (regionOf (u.book wb sc fc rf) a).readError = false := (ram_region (s := u) hram a).2.1
  refine ⟨w, ?_, wb, sc, fc + 1, rf ++ [r], hw, rfl⟩
  unfold icuNow
  simp only [herror, Bool.false_eq_true, if_false]
  refine (congrArg (EStateM.Result.ok _) ?_).trans (congrArg (EStateM.Result.ok · w) ?_)
  · rw [← hreply]
    cases hicu : u.icuReplies with
    | nil | cons => simp only [w, r, State.book, hicu]; rfl
  · cases hicu : u.icuReplies with
    | nil | cons => simp only [State.book, hicu]; rfl

/-- A cycle of the interrupt control unit takes the next answer, or the one the unit gives by itself (R145; log 35). -/
theorem icuRead_ok {u t : State} (hram : u.ram = true) (hsim : Sim u t) (status : BitVec 5) (a : Word) :
    ∃ t', icuRead status a t = .ok (t.icuReplies.headD (Config.icuByte t.freeCount a)) t'
      ∧ Sim (u.withReplies u.icuReplies.tail) t' := by
  obtain ⟨_, _, w, hsettled, hw, rfl⟩ := settleWrites_plain u
    (waitsFor ((regionOf t a).iodec && !(regionOf t a).readError && !isAcknowledge status) a 1) t hsim
  obtain ⟨t', hok, hsim'⟩ := icuNow_ok hram hw status a
  refine ⟨t', ?_, hsim'⟩
  have hrun : icuRead status a t = icuNow status a w := bind_of_ok hsettled
  obtain ⟨wb, rfl⟩ := settleWrites_ok hsettled
  exact hrun.trans hok

theorem icuRead_plain {u : State} (h : u.ram = true) (status : BitVec 5) (a : Word) :
    Reaches (icuRead status a) u fun _ u' => u' = u.withReplies u.icuReplies.tail := by
  intro t ht
  obtain ⟨t', hok, hsim⟩ := icuRead_ok h ht status a
  exact ⟨_, _, t', hok, hsim, rfl⟩

theorem Reaches.fatally {α : Type} {m : M α} {u : State} {P : α → State → Prop} (h : Reaches m u P) :
    Reaches (Machine.fatally m) u P := by
  intro t ht
  obtain ⟨a, u', t', hok, hrest⟩ := h t ht
  exact ⟨a, u', t', by simp only [Machine.fatally, hok], hrest⟩

/-- What the End of Interrupt cycles leave of the answers of the interrupt control units. -/
def repliesLeft (s : State) : List Byte :=
  let b := s.icuReplies.headD (Config.icuByte s.freeCount 0xFFFFFE00#32)
  if s.cfgI && b.getLsbD 7 then s.icuReplies.tail.tail else s.icuReplies.tail

theorem cascade_plain {u : State} (h : u.ram = true) (c : Bool) (slot : Word) :
    Reaches (if c then do
        let ca ← fatally (memRead32 slot)
        let _ ← fatally (icuRead 0b00111#5 ca)
        pure ()
      else pure ()) u
      fun _ u' => u' = u.withReplies (if c then u.icuReplies.tail else u.icuReplies) := by
  cases c with
  | false => exact Reaches.pure rfl
  | true =>
    refine Reaches.bind (memRead32_plain h _).fatally ?_
    rintro _ _ ⟨rfl, rfl⟩
    refine Reaches.bind (icuRead_plain h _ _).fatally ?_
    rintro _ _ rfl
    exact Reaches.pure rfl

/-- The End of Interrupt cycles: the master's, and that of the cascaded unit the answer names (R457). -/
theorem endOfInterrupt_ok {s : State} (hs : s.plain = true) :
    ∃ t, endOfInterrupt s = .ok () t ∧ Sim (s.withReplies (repliesLeft s)) t := by
  obtain ⟨t, hok, hsim⟩ := icuRead_ok (plain_ram hs) (Sim.refl (plain_pendingError hs)) 0b00110#5 0xFFFFFE00#32
  generalize hb : s.icuReplies.headD (Config.icuByte s.freeCount 0xFFFFFE00#32) = b at hok
  obtain ⟨⟨⟩, _, t', hcascade, hsim', rfl⟩ := cascade_plain (u := s.withReplies s.icuReplies.tail)
    (plain_ram hs) (s.cfgI && b.getLsbD 7) (s.intbase + 4#32 * b.signExtend 32) t hsim
  refine ⟨t', ?_, ?_⟩
  · have hmaster : fatally (icuRead 0b00110#5 0xFFFFFE00#32) s = .ok b t := by simp only [fatally, hok]
    exact (bind_of_ok hmaster).trans hcascade
  · simp only [repliesLeft, hb]
    exact hsim'

/-! ### RETT and RETI -/

theorem setSp_withReplies (u : State) (rs : List Byte) (v : Word) :
    (u.withReplies rs).setSp v = (u.setSp v).withReplies rs := by
  have hS : (u.withReplies rs).flagS = u.flagS := rfl
  unfold State.setSp
  rw [hS]
  split <;> rfl

theorem withPsr_withReplies (u : State) (rs : List Byte) (f : Half → Half) :
    (u.withReplies rs).withPsr f = (u.withPsr f).withReplies rs := rfl

theorem moduleEntered_withReplies (u : State) (rs : List Byte) (m : Half) :
    moduleEntered (u.withReplies rs) m = (moduleEntered u m).withReplies rs := rfl

theorem withReplies_sp (u : State) (rs : List Byte) : (u.withReplies rs).sp = u.sp := rfl

theorem withReplies_load (u : State) (rs : List Byte) (a : Word) (n : Nat) : (u.withReplies rs).load a n = u.load a n :=
  rfl

/-- A return does not look at the answers of the interrupt control units. -/
theorem returned_withReplies (u : State) (x : Word) (rs : List Byte) :
    returned (u.withReplies rs) x = (returned u x).withReplies rs := by
  have hde : (u.withReplies rs).cfgDE = u.cfgDE := rfl
  simp only [returned, State.popped, hde, withReplies_sp, withReplies_load, setSp_withReplies, withPsr_withReplies,
    moduleEntered_withReplies]
  split
  · rw [withReplies_sp, setSp_withReplies]
  · rw [withReplies_sp, setSp_withReplies]

section Completes

variable {s : State} (hs : s.plain = true) (hu : s.flagU = false)
include hs hu

/-- RETT (R458). -/
theorem rett_completesAt {d : Disp} (hd : d.wf = true) :
    CompletesAt (.rett d) s (returned s d.value) (s.load32 s.sp) :=
  completesAt_of_reaches (by rfl) hs
    (check_none_disp rfl hd (check_none rfl (by exact nofun) legal_nil (.inr hu) rfl rfl))
    (returnFrom_plain (plain_ram hs) _)

/-- RETI (R457). -/
theorem reti_completesAt :
    CompletesAt .reti s ((returned s 0#32).withReplies (repliesLeft s)) (s.load32 s.sp) := by
  obtain ⟨t, hok, hsim⟩ := endOfInterrupt_ok hs
  obtain ⟨_, _, t', hok', hsim', rfl, rfl⟩ :=
    returnFrom_plain (u := s.withReplies (repliesLeft s)) (plain_ram hs) 0#32 t hsim
  rw [returned_withReplies] at hsim'
  refine (completesClean_of_ok (target := some (s.load32 s.sp)) (by rfl)
    (check_none rfl (by exact nofun) legal_nil (.inr hu) rfl rfl) ?_ hsim').completesAt
  exact (bind_of_ok hok).trans hok'

end Completes

/-- Settles O44: the frame is read where the stack pointer stands, and the answers of the interrupt control units are
all that RETI changes besides. -/
theorem returns : Obligations.Returns := by
  intro d s hs hd hu
  exact ⟨rett_completesAt hs hu hd, reti_completesAt hs hu⟩

end Sys2Proof.Machine
end

section
/-! PROOF. The trap instructions and the undefined instructions (R241, R454 to R456, R620). -/

namespace Sys2Proof.Machine

/-- An instruction that stops with a trap before it has changed anything leaves nothing but the entry (R602, R620). -/
theorem traps_of_unchanged {I : Instr} {sh : Shape} {body : M Done} {s : State} {k : TrapKind} (hs : s.plain = true)
    (hexec : exec I s = run sh body s) (hc : sh.check s = none) (hb : Stops (.trap k) body s s) : Traps I s k :=
  traps_of_stops (n := 4) (g := .mode (.reg 0#3)) hs hexec hc hb

/-- An instruction that only traps. -/
theorem traps_at_once {I : Instr} {n : Nat} {s : State} {k : TrapKind} (hs : s.plain = true)
    (hexec : exec I s = run { basic := n } (stop (.trap k)) s) : Traps I s k :=
  traps_of_unchanged hs hexec (check_basic n s) (Stops.stop s)

/-- FLAG looks at F and at nothing else (R455). -/
theorem flag_traps {s : State} (hs : s.plain = true) (hF : s.flagF = true) : Traps .flag s .flg := by
  refine traps_of_unchanged hs (by rfl) (check_basic 1 s) (Stops.getS fun wb sc fc rf => ?_)
  rw [if_pos (show (s.book wb sc fc rf).flagF = true from hF)]
  exact Stops.stop s

/-- Settles O15: SVC, BPT and the undefined instructions do nothing but trap. -/
theorem trapInstructions : Obligations.TrapInstructions := by
  intro s w nnn gen op i hs
  refine ⟨traps_at_once (n := 1) hs rfl, traps_at_once (n := 1) hs rfl, flag_traps hs, ?_⟩
  have hthree {I : Instr} (hexec : exec I s = undefined 3 s) : Traps I s .und := traps_at_once hs hexec
  simp only [List.forall_mem_cons, List.not_mem_nil, false_imp_iff, implies_true, and_true]
  and_intros
  on_goal 21 => exact traps_at_once (n := 2) hs rfl
  on_goal 20 => exact traps_at_once (n := 1) hs rfl
  all_goals exact hthree rfl

end Sys2Proof.Machine
end

section
/-! SUPPORT. What the stack holds: values of `n` bytes stored and loaded, memory outside what is pushed, register lists
pushed and popped (R26, R82, R83, R461, R462). -/

namespace Sys2Proof.Machine

/-! ### Values in memory -/

theorem memGet_put_other {s : State} (hm : Memory.wf s.mem = true) {a x : Word} {n : Nat} (hn : n ≤ 4294967295)
    (v : Quad) (h : n ≤ (x - a).toNat) : memGet (s.put a n v).mem x.toNat = memGet s.mem x.toNat := by
  rw [State.put_mem, memGet_storeBytes (fun _ => rfl) hm (by simpa using hn), byteAt_toBytes, if_neg h.not_gt,
    Option.getD_none]

theorem put_wf {s : State} (hm : Memory.wf s.mem = true) (a : Word) (n : Nat) (v : Quad) :
    Memory.wf (s.put a n v).mem = true := storeBytes_wf [] hm a _

/-- Bytes stored are the bytes loaded (R82, R83). -/
theorem load_put_bytes {s : State} (hm : Memory.wf s.mem = true) (a : Word) {n : Nat} (hn : n ≤ 4294967295) (v : Quad) :
    (s.put a n v).load a n = ofBytes (toBytes n v) := by
  refine congrArg ofBytes (List.ext_getElem? fun k => ?_)
  rw [bytesFrom_eq_map, getElem?_toBytes]
  by_cases hk : k < n
  · have hoff : (a + BitVec.ofNat 32 k - a).toNat = k := by bv_omega
    rw [List.getElem?_map, List.getElem?_range hk, Option.map_some, State.put_mem,
      memGet_storeBytes (fun _ => rfl) hm (by simpa using hn), byteAt_toBytes, hoff, if_pos hk, Option.getD_some]
  · rw [List.getElem?_map, List.getElem?_eq_none (by simpa using hk), if_neg hk, Option.map_none]

/-- A word stored is the word loaded (R81). -/
theorem load16_put {s : State} (hm : Memory.wf s.mem = true) (a : Word) (h : Half) :
    ((s.put a 2 (h.setWidth 64)).load a 2).setWidth 16 = h := by
  rw [load_put_bytes hm a (by decide)]
  refine BitVec.eq_of_getLsbD_eq fun k hk => ?_
  rw [BitVec.getLsbD_setWidth, getLsbD_ofBytes_toBytes 2 _ (by omega), BitVec.getLsbD_setWidth]
  simp [hk, show k < 64 by omega]

/-- A double-word stored is the double-word loaded (R81). -/
theorem load32_put {s : State} (hm : Memory.wf s.mem = true) (a w : Word) :
    (s.put a 4 (w.setWidth 64)).load32 a = w := by
  rw [State.load32, load_put_same hm]
  simp

/-- What is loaded depends on the bytes of the reference only (R82). -/
theorem load_of_bytes {s t : State} {a : Word} {n : Nat}
    (h : ∀ k, k < n → memGet t.mem (a + BitVec.ofNat 32 k).toNat = memGet s.mem (a + BitVec.ofNat 32 k).toNat) :
    t.load a n = s.load a n := by
  unfold State.load
  rw [bytesFrom_eq_map, bytesFrom_eq_map]
  exact congrArg ofBytes (List.map_congr_left fun k hk => h k (List.mem_range.mp hk))

/-! ### Pushes -/

theorem pushed_sp (s : State) (n : Nat) (v : Quad) : (s.pushed n v).sp = s.sp - BitVec.ofNat 32 n := by
  rw [State.pushed, State.put_sp, State.setSp_sp]

theorem pushed_mem (s : State) (n : Nat) (v : Quad) :
    (s.pushed n v).mem = (s.put (s.sp - BitVec.ofNat 32 n) n v).mem := by
  rw [State.pushed, State.setSp_sp, State.put_mem, State.setSp_mem, State.put_mem]

theorem pushed_wf {s : State} (hm : Memory.wf s.mem = true) (n : Nat) (v : Quad) :
    Memory.wf (s.pushed n v).mem = true :=
  pushed_mem s n v ▸ put_wf hm _ n v

theorem popped_sp (s : State) (n : Nat) : (s.popped n).sp = s.sp + BitVec.ofNat 32 n := State.setSp_sp ..

/-- A double-word pushed is on top of the stack. -/
theorem load32_pushed {s : State} (hm : Memory.wf s.mem = true) (w : Word) :
    (s.pushed 4 (w.setWidth 64)).load32 (s.sp - 4#32) = w :=
  (congrArg (BitVec.setWidth 32) (load_congr (pushed_mem s 4 _) ..)).trans (load32_put hm _ w)

/-- `x` is not one of the `n` bytes below the selected stack pointer. -/
def OffStack (s : State) (n : Nat) (x : Word) : Prop := n ≤ (s.sp - 1#32 - x).toNat

theorem memGet_pushed {s : State} (hm : Memory.wf s.mem = true) {x : Word} (v : Quad) (h : OffStack s 4 x) :
    memGet (s.pushed 4 v).mem x.toNat = memGet s.mem x.toNat := by
  rw [pushed_mem]
  refine memGet_put_other hm (by decide) v ?_
  unfold OffStack at h
  bv_omega

theorem OffStack.pushed {s : State} {k : Nat} {x : Word} (v : Quad) (h : OffStack s (4 + k) x) :
    OffStack s 4 x ∧ OffStack (s.pushed 4 v) k x := by
  unfold OffStack at h ⊢
  rw [pushed_sp]
  constructor
  · omega
  · bv_omega

/-! ### Register lists -/

/-- The register of a list byte's bit pushed, or nothing (R461). -/
def bitPushed (m : Byte) (n : RegNum) (s : State) : State :=
  if m.getLsbD n.toNat then s.pushed 4 ((s.reg n).setWidth 64) else s

/-- The register that a list byte's bit names when popping (R462). -/
def bitPopped (m : Byte) (n : RegNum) (s : State) : State :=
  if m.getLsbD n.toNat then (s.popped 4).setReg (7#3 - n) (s.load32 s.sp) else s

/-- The general registers, PSR, FP and the selected stack pointer are the same. -/
structure SameRegisters (s w : State) : Prop where
  regs : w.regs = s.regs
  psr : w.psr = s.psr
  fp : w.fp = s.fp
  sp : w.sp = s.sp

theorem listPushed_cons (m : Byte) (n : RegNum) (rest : List RegNum) (s : State) :
    listPushed m (n :: rest) s = listPushed m rest (bitPushed m n s) := rfl

theorem listPopped_append (m : Byte) (xs ys : List RegNum) (s : State) :
    listPopped m (xs ++ ys) s = listPopped m ys (listPopped m xs s) := by
  induction xs generalizing s with
  | nil => rfl
  | cons n rest ih => exact ih _

theorem bitPushed_wf (m : Byte) (n : RegNum) {s : State} (hm : Memory.wf s.mem = true) :
    Memory.wf (bitPushed m n s).mem = true := by
  unfold bitPushed
  split
  · exact pushed_wf hm 4 _
  · exact hm

theorem bitPushed_ram (m : Byte) (n : RegNum) (s : State) : (bitPushed m n s).ram = s.ram := by
  unfold bitPushed
  split
  · exact State.pushed_ram ..
  · rfl

theorem bitPushed_memGet (m : Byte) (n : RegNum) {s : State} (hm : Memory.wf s.mem = true) {k : Nat} {x : Word}
    (h : OffStack s (4 + k) x) :
    memGet (bitPushed m n s).mem x.toNat = memGet s.mem x.toNat ∧ OffStack (bitPushed m n s) k x := by
  unfold bitPushed
  split
  · obtain ⟨hoff, hoff'⟩ := h.pushed ((s.reg n).setWidth 64)
    exact ⟨memGet_pushed hm _ hoff, hoff'⟩
  · exact ⟨rfl, (Nat.le_add_left k 4).trans h⟩

/-- Pushing a list changes at most four bytes for each register below the stack pointer (R461). -/
theorem listPushed_memGet (m : Byte) (l : List RegNum) {s : State} (hm : Memory.wf s.mem = true) {x : Word}
    (h : OffStack s (4 * l.length) x) : memGet (listPushed m l s).mem x.toNat = memGet s.mem x.toNat := by
  induction l generalizing s with
  | nil => rfl
  | cons n rest ih =>
    obtain ⟨hbyte, hoff⟩ := bitPushed_memGet m n hm (k := 4 * rest.length) (by rwa [Nat.add_comm])
    exact (ih (bitPushed_wf m n hm) hoff).trans hbyte

theorem listPushed_ram (m : Byte) (l : List RegNum) (s : State) : (listPushed m l s).ram = s.ram := by
  induction l generalizing s with
  | nil => rfl
  | cons n rest ih => exact (ih _).trans (bitPushed_ram m n s)

/-- The bits of a list byte when popping, for those of a list when pushing (R462). -/
def mirrored (l : List RegNum) : List RegNum := (l.map fun n => 7#3 - n).reverse

theorem mirrored_cons (n : RegNum) (rest : List RegNum) : mirrored (n :: rest) = mirrored rest ++ [7#3 - n] := by
  simp [mirrored]

theorem mirrored_listBits : mirrored listBits = listBits := rfl

theorem mirror_mirror (n : RegNum) : 7#3 - (7#3 - n) = n := by
  revert n
  decide

theorem reverse_bit (m : Byte) (n : RegNum) : m.reverse.getLsbD (7#3 - n).toNat = m.getLsbD n.toNat := by
  have hlt : n.toNat < 8 := n.isLt
  have hn : (7#3 - n).toNat = 7 - n.toNat := by bv_omega
  have hbit : 8 - 1 - (7 - n.toNat) = n.toNat := by omega
  rw [BitVec.getLsbD_reverse, BitVec.getMsbD, hn, hbit, decide_eq_true (by omega), Bool.true_and]

theorem setReg_self {s w : State} (h : w.regs = s.regs) (n : RegNum) : (w.setReg n (s.reg n)).regs = s.regs := by
  simp only [State.setReg, State.reg, h]
  exact Vector.set_getElem_self ..

/-- A bit popped gives back what it pushed (R461, R462). -/
theorem bitPopped_bitPushed (m : Byte) (n : RegNum) {s w : State} (hm : Memory.wf s.mem = true)
    (hw : SameRegisters (bitPushed m n s) w)
    (hmem : ∀ k, k < 4 → memGet w.mem (w.sp + BitVec.ofNat 32 k).toNat
      = memGet (bitPushed m n s).mem (w.sp + BitVec.ofNat 32 k).toNat) :
    SameRegisters s (bitPopped m.reverse (7#3 - n) w) ∧ (bitPopped m.reverse (7#3 - n) w).mem = w.mem := by
  obtain ⟨hregs, hpsr, hfp, hsp⟩ := hw
  unfold bitPopped
  rw [reverse_bit, mirror_mirror]
  unfold bitPushed at hregs hpsr hfp hsp hmem
  split
  case isFalse hbit =>
    rw [if_neg hbit] at hregs hpsr hfp hsp
    exact ⟨⟨hregs, hpsr, hfp, hsp⟩, rfl⟩
  case isTrue hbit =>
    rw [if_pos hbit] at hregs hpsr hfp hsp hmem
    have htop : w.load32 w.sp = s.reg n := by
      rw [State.load32, load_of_bytes hmem, hsp, pushed_sp]
      exact load32_pushed hm (s.reg n)
    rw [htop]
    refine ⟨⟨setReg_self ?_ n, ?_, ?_, ?_⟩, ?_⟩
    · rw [State.popped_regs, hregs, State.pushed_regs]
    · rw [State.setReg_psr, State.popped_psr, hpsr, State.pushed_psr]
    · rw [State.setReg_fp, State.popped_fp, hfp, State.pushed_fp]
    · rw [State.setReg_sp, popped_sp, hsp, pushed_sp, BitVec.sub_add_cancel]
    · rw [State.setReg_mem, State.popped_mem]

/-- Popping the mirrored list undoes pushing the list (R461, R462): the bits are popped in the opposite order, so that
each finds its register on top of the stack. -/
theorem listPopped_listPushed (m : Byte) (l : List RegNum) (hl : l.length ≤ 8) {s w : State}
    (hm : Memory.wf s.mem = true) (hw : SameRegisters (listPushed m l s) w) (hmem : w.mem = (listPushed m l s).mem) :
    SameRegisters s (listPopped m.reverse (mirrored l) w) ∧ (listPopped m.reverse (mirrored l) w).mem = w.mem := by
  induction l generalizing s with
  | nil => exact ⟨hw, rfl⟩
  | cons n rest ih =>
    have hrest : rest.length + 1 ≤ 8 := hl
    have hwf := bitPushed_wf m n hm
    obtain ⟨hsame, hkept⟩ := ih (by omega) hwf hw hmem
    rw [mirrored_cons, listPopped_append]
    generalize listPopped m.reverse (mirrored rest) w = v at hsame hkept
    obtain ⟨hback, hmem'⟩ := bitPopped_bitPushed m n hm hsame fun k hk => by
      rw [hkept, hmem, listPushed_cons, listPushed_memGet m rest hwf]
      unfold OffStack
      rw [hsame.sp]
      bv_omega
    exact ⟨hback, hmem'.trans hkept⟩

/-! ### SAVE and RESTORE -/

theorem saveRegs_plain (m : Byte) (l : List RegNum) {u : State} (h : u.ram = true) :
    Reaches (saveRegs m l) u fun _ u' => u' = listPushed m l u := by
  induction l generalizing u with
  | nil => exact Reaches.pure rfl
  | cons n rest ih =>
    by_cases hbit : m.getLsbD n.toNat = true
    · rw [listPushed_cons, bitPushed, if_pos hbit]
      refine Reaches.of_true hbit (Reaches.getS fun _ _ _ _ => Reaches.bind (push_plain h 4 _) ?_)
      rintro _ _ rfl
      exact ih ((State.pushed_ram ..).trans h)
    · rw [listPushed_cons, bitPushed, if_neg hbit]
      exact Reaches.of_false hbit (ih h)

theorem restoreRegs_plain (m : Byte) (l : List RegNum) {u : State} (h : u.ram = true) :
    Reaches (restoreRegs m l) u fun _ u' => u' = listPopped m l u := by
  induction l generalizing u with
  | nil => exact Reaches.pure rfl
  | cons n rest ih =>
    have hcons : listPopped m (n :: rest) u = listPopped m rest (bitPopped m n u) := rfl
    rw [hcons]
    by_cases hbit : m.getLsbD n.toNat = true
    · rw [bitPopped, if_pos hbit]
      refine Reaches.of_true hbit (Reaches.bind (pop_plain h 4) ?_)
      rintro _ _ ⟨rfl, rfl⟩
      refine Reaches.bind (setReg_plain (7#3 - n) _ fun _ _ _ _ => rfl) ?_
      rintro _ _ rfl
      exact ih ((State.setReg_ram ..).trans ((State.popped_ram ..).trans h))
    · rw [bitPopped, if_neg hbit]
      exact Reaches.of_false hbit (ih h)

theorem check_list (s : State) : Shape.check { basic := 1, implied := 1 } s = none :=
  check_none rfl nofun legal_nil (.inl rfl) rfl rfl

/-- SAVE (R461). -/
theorem save_completes {s : State} (hs : s.plain = true) (m : Byte) :
    CompletesClean (.save m) s (listPushed m listBits s) (nextPc (.save m) s) := by
  have hpc : (none : Option Word).getD (s.pc + BitVec.ofNat 32 (Shape.length { basic := 1, implied := 1 }))
      = nextPc (.save m) s := rfl
  rw [← hpc]
  refine completesClean_of_reaches (by rfl) hs (check_list s) ?_
  refine Reaches.bind (saveRegs_plain m listBits (plain_ram hs)) ?_
  rintro _ _ rfl
  exact Reaches.pure ⟨rfl, rfl⟩

/-- RESTORE (R462). -/
theorem restore_completes {s : State} (hs : s.plain = true) (m : Byte) :
    Completes (.restore m) s (listPopped m listBits s) := by
  refine completes_of_reaches (by rfl) (by rfl) hs (check_list s) ?_
  refine Reaches.bind (restoreRegs_plain m listBits (plain_ram hs)) ?_
  rintro _ _ rfl
  exact Reaches.pure ⟨rfl, rfl⟩

end Sys2Proof.Machine
end

section
/-! PROOF. What is pushed comes back: by RETT after a trap, by RESTORE after SAVE, by RXP after CXP (R451, R453, R458,
R461, R462, R620). -/

namespace Sys2Proof.Machine

/-! ### An instruction after another -/

theorem Goes.of_next {o : Out} {p : State → Prop} {t : State} (h : Goes o p) (hn : o = .next t) : p t := by
  obtain ⟨w, hw, hp⟩ := h
  cases hw.symm.trans hn
  exact hp

theorem Agrees.plain {s u t : State} (h : Agrees s u t) (hram : u.ram = true) (hp : t.pendingError = false) :
    t.plain = true := by
  simp [State.plain, h.ram, hram, hp]

theorem Agrees.mem {s u t : State} (h : Agrees s u t) : t.mem = u.mem := (congrArg State.mem h.marked :)

theorem Agrees.sameRegisters {s u t : State} {pc : Word} (h : Agrees s (u.retired pc) t) : SameRegisters u t :=
  ⟨(congrArg State.regs h.marked :), (congrArg State.psr h.marked :), (congrArg State.fp h.marked :),
    (congrArg State.sp h.marked :)⟩

theorem SameRegisters.trans {s u w : State} (h : SameRegisters s u) (h' : SameRegisters u w) : SameRegisters s w :=
  ⟨h'.regs.trans h.regs, h'.psr.trans h.psr, h'.fp.trans h.fp, h'.sp.trans h.sp⟩

theorem setSp_self (s : State) : s.setSp s.sp = s := by
  by_cases hS : s.flagS = true
  · simp only [State.setSp, State.sp, if_pos hS]
  · simp only [State.setSp, State.sp, if_neg hS]

theorem offStack_of_le {s : State} {n : Nat} {a : Word} (h : n ≤ (a - (s.sp - BitVec.ofNat 32 n)).toNat) :
    OffStack s n a := by
  unfold OffStack
  bv_omega

/-! ### SAVE and RESTORE -/

theorem restore_undoes_save {s t : State} (hs : s.plain = true) (hm : Memory.wf s.mem = true) {m : Byte}
    (hsave : exec (.save m) s = .next t) :
    Goes (exec (.restore m.reverse) t) fun u => SameRegisters s u ∧ u.mem = (listPushed m listBits s).mem := by
  obtain ⟨hagrees, hp⟩ := (save_completes hs m).of_next hsave
  have ht : t.plain = true := hagrees.plain ((listPushed_ram m listBits s).trans (plain_ram hs)) hp
  have hmem : t.mem = (listPushed m listBits s).mem := hagrees.mem
  obtain ⟨hback, hkept⟩ := listPopped_listPushed m listBits (by decide) hm hagrees.sameRegisters hmem
  rw [mirrored_listBits] at hback hkept
  exact (restore_completes ht m.reverse).mono fun u hu =>
    ⟨hback.trans hu.sameRegisters, hu.mem.trans (hkept.trans hmem)⟩

/-! ### CXP and RXP -/

/-- The two double-words that a call pushes (R451, D20). -/
theorem called_stack {s : State} (hm : Memory.wf s.mem = true) (desc next : Word) :
    let t := called s desc next
    t.sp = s.sp - 8#32 ∧ t.load32 t.sp = next ∧ (t.load (t.sp + 4#32) 4).setWidth 16 = s.mod
      ∧ ∀ x, OffStack s 8 x → memGet t.mem x.toNat = memGet s.mem x.toNat := by
  intro t
  let v := s.pushed 4 (s.mod.setWidth 64)
  have hv : v.sp = s.sp - 4#32 := pushed_sp s 4 _
  have hwf : Memory.wf v.mem = true := pushed_wf hm 4 _
  have hsp : t.sp = v.sp - 4#32 := pushed_sp v 4 (next.setWidth 64)
  have hmem : t.mem = (v.pushed 4 (next.setWidth 64)).mem := rfl
  refine ⟨?_, ?_, ?_, fun x hx => ?_⟩
  · rw [hsp, hv]
    bv_omega
  · rw [hsp]
    exact (congrArg (BitVec.setWidth 32) (load_congr hmem ..)).trans (load32_pushed hwf next)
  · have hslot : s.mod.setWidth 64 = (s.mod.setWidth 32 : Word).setWidth 64 := by
      ext k hk
      simp
    have hload : t.load (t.sp + 4#32) 4 = v.load (s.sp - 4#32) 4 := by
      rw [hsp, BitVec.sub_add_cancel, hv]
      refine load_of_bytes fun k hk => hmem ▸ memGet_pushed hwf _ ?_
      unfold OffStack
      rw [hv]
      bv_omega
    have hpushed : v.load (s.sp - 4#32) 4 = (s.mod.setWidth 32 : Word).setWidth 64 := by
      simp only [v, hslot]
      exact (load_congr (pushed_mem s 4 _) ..).trans (load_put_same hm _ _)
    rw [hload, hpushed]
    ext k hk
    simp
  · obtain ⟨hoff, hoff'⟩ := OffStack.pushed (k := 4) (s.mod.setWidth 64) hx
    rw [hmem, memGet_pushed hwf _ hoff', memGet_pushed hm _ hoff]

theorem called_registers (s : State) (desc next : Word) :
    (called s desc next).regs = s.regs ∧ (called s desc next).psr = s.psr :=
  ⟨(State.pushed_regs (s.pushed 4 _) 4 (next.setWidth 64)).trans (State.pushed_regs s 4 (s.mod.setWidth 64)),
    (State.pushed_psr (s.pushed 4 _) 4 (next.setWidth 64)).trans (State.pushed_psr s 4 (s.mod.setWidth 64))⟩

/-- RXP 0 takes the return address and MOD from the stack, and reads SB again (R453). -/
theorem rxp_zero {t : State} (ht : t.plain = true) :
    Goes (exec (.rxp (.d7 0#7)) t) fun u =>
      u.pc = t.load32 t.sp ∧ u.mod = (t.load (t.sp + 4#32) 4).setWidth 16 ∧ u.sb = u.load32 u.modAddr
        ∧ u.sp = t.sp + 8#32 ∧ u.regs = t.regs ∧ u.psr = t.psr ∧ u.mem = t.mem := by
  let p := (t.popped 4).popped 4
  have hsp : p.sp = t.sp + 8#32 := by
    simp only [p, popped_sp]
    bv_omega
  have hregs : p.regs = t.regs := by simp only [p, State.popped_regs]
  have hpsr : p.psr = t.psr := by simp only [p, State.popped_psr]
  have hmem : p.mem = t.mem := by simp only [p, State.popped_mem]
  refine (rxp_completesAt ht (d := .d7 0#7) (by decide)).mono fun u hu => ?_
  let s1 := moduleEntered p ((t.load (t.sp + 4#32) 4).setWidth 16)
  have hs1 : s1.setSp (s1.sp + Disp.value (.d7 0#7)) = s1 := by
    have hzero : Disp.value (.d7 0#7) = 0#32 := rfl
    rw [hzero, BitVec.add_zero, setSp_self]
  change Agrees t ((s1.setSp (s1.sp + Disp.value (.d7 0#7))).retired (t.load32 t.sp)) u at hu
  rw [hs1] at hu
  have hmod : u.mod = s1.mod := (congrArg State.mod hu.marked :)
  have hsb : u.sb = s1.sb := (congrArg State.sb hu.marked :)
  have hload : u.load32 u.modAddr = s1.sb := by
    rw [State.modAddr, hmod]
    exact congrArg (BitVec.setWidth 32) (load_congr (t := u) (s := p) hu.mem ..)
  obtain ⟨hr, hp, -, hs⟩ := hu.sameRegisters
  exact ⟨hu.pc, hmod, hsb.trans hload.symm, hs.trans hsp, hr.trans hregs, hp.trans hpsr, hu.mem.trans hmem⟩

/-- RXP 0 goes on behind the call, in the caller's module. -/
theorem rxp_undoes_cxp {s t : State} (hs : s.plain = true) (hm : Memory.wf s.mem = true) {d : Disp}
    (hcxp : exec (.cxp d) s = .next t) :
    Goes (exec (.rxp (.d7 0#7)) t) fun u =>
      u.pc = nextPc (.cxp d) s ∧ u.mod = s.mod ∧ u.sb = u.load32 s.modAddr ∧ u.sp = s.sp ∧ u.regs = s.regs
        ∧ u.psr = s.psr ∧ ∀ x, OffStack s 8 x → memGet u.mem x.toNat = memGet s.mem x.toNat := by
  have hd : d.wf = true := by
    by_contra hreserved
    cases hcxp.symm.trans (run_reservedDisp (eq_false_of_ne_true hreserved))
  obtain ⟨hagrees, hp⟩ := (cxp_completes hs hd).of_next hcxp
  generalize s.load32 (s.load32 (s.modAddr + 4#32) + 4#32 * d.value) = desc at hagrees
  have ht : t.plain = true := hagrees.plain ((called_ram s desc (nextPc (.cxp d) s)).trans (plain_ram hs)) hp
  obtain ⟨hsp, hret, hmod, hmem⟩ := called_stack hm desc (nextPc (.cxp d) s)
  have hsame : t.mem = (called s desc (nextPc (.cxp d) s)).mem := hagrees.mem
  obtain ⟨hr, hpsr, -, htsp⟩ := hagrees.sameRegisters
  have hload (a : Word) (n : Nat) : t.load a n = (called s desc (nextPc (.cxp d) s)).load a n := load_congr hsame a n
  rw [← htsp, ← hload] at hmod
  rw [← htsp, State.load32, ← hload] at hret
  refine (rxp_zero ht).mono fun u ⟨hpc, humod, husb, husp, hur, hupsr, humem⟩ => ?_
  have hmodAddr : u.modAddr = s.modAddr := congrArg (BitVec.setWidth 32) (humod.trans hmod)
  refine ⟨hpc.trans hret, humod.trans hmod, hmodAddr ▸ husb, ?_, ?_, ?_, fun x hx => ?_⟩
  · rw [husp, htsp, hsp]
    bv_omega
  · exact hur.trans (hr.trans (called_registers ..).1)
  · exact hupsr.trans (hpsr.trans (called_registers ..).2)
  · rw [humem, hsame, hmem x hx]

/-! ### A trap and RETT -/

theorem takeTrap_pendingError {s t : State} (hs : s.plain = true) {k : TrapKind} (h : takeTrap s k s = .next t) :
    t.pendingError = false := by
  obtain ⟨⟨⟩, u, w, hok, hsim, -⟩ := service_plain (plain_ram hs) false k.vector (entryCopy k.clearsP s.psr) s.pc _
    (Sim.refl (plain_pendingError hs))
  have hentered : takeTrap s k s = takeException k.clearsP false (pure k.vector) s.pc s :=
    if_neg (ne_true_of_eq_false (plain_pendingError hs))
  have hrun : entryRun k.clearsP false (pure k.vector) s.pc s = .ok () w := hok
  rw [hentered, takeException_ok hrun] at h
  cases h
  exact hsim.pendingError

/-- The PSR copy has no bits that are not implemented, if PSR has none (R33). -/
theorem entryCopy_implemented {p : Half} (h : p &&& ~~~psrMask = 0#16) (c : Bool) :
    entryCopy c p &&& psrMask = entryCopy c p := by
  refine and_eq_self_of_and_not ?_
  cases c with
  | false => exact h
  | true => exact (setBit_and p false (by decide)).trans h

/-- In Direct-Exception mode RETT 0 takes the PC and PSR from the interrupt stack (R458; log 38). -/
theorem returned_direct {t : State} (hde : t.cfgDE = true) (hS : t.flagS = false) :
    returned t 0#32 =
      { t with sp0 := t.sp0 + 8#32, psr := (t.load (t.sp0 + 6#32) 2).setWidth 16 &&& psrMask } := by
  have hpopped : t.popped 8 = { t with sp0 := t.sp0 + 8#32 } := by
    rw [State.popped, sp_supervisor hS, setSp_supervisor hS]
  simp only [returned, hde, if_true, BitVec.add_zero, setSp_self]
  rw [hpopped, sp_supervisor hS]
  rfl

/-- The frame of an entry in Direct-Exception mode (R642). -/
def framed (s : State) (copy : Half) (ret : Word) : State :=
  (s.put (s.sp0 - 2#32) 2 (copy.setWidth 64)).put (s.sp0 - 8#32) 4 (ret.setWidth 64)

theorem framed_loads {s : State} (hm : Memory.wf s.mem = true) (copy : Half) (ret : Word) :
    (framed s copy ret).load32 (s.sp0 - 8#32) = ret
      ∧ ((framed s copy ret).load (s.sp0 - 8#32 + 6#32) 2).setWidth 16 = copy
      ∧ ∀ a : Word, 8 ≤ (a - (s.sp0 - 8#32)).toNat → memGet (framed s copy ret).mem a.toNat = memGet s.mem a.toNat := by
  have hwf := put_wf hm (s.sp0 - 2#32) 2 (copy.setWidth 64)
  refine ⟨load32_put hwf _ ret, ?_, fun a ha => ?_⟩
  · have hslot : s.sp0 - 8#32 + 6#32 = s.sp0 - 2#32 := by bv_omega
    rw [framed, load_put_other hwf (by decide) _ fun k hk => by bv_omega, hslot]
    exact load16_put hm _ copy
  · rw [framed, memGet_put_other hwf (by decide) _ (by omega), memGet_put_other hm (by decide) _ (by bv_omega)]

/-- In Direct-Exception mode RETT 0 undoes the entry of a trap (R458, R620, R642). -/
theorem rett_undoes_trap {s t : State} (hs : s.plain = true) (hm : Memory.wf s.mem = true) {k : TrapKind}
    (hde : s.cfgDE = true) (hpsr : s.psr &&& ~~~psrMask = 0#16) (htrap : takeTrap s k s = .next t) :
    Goes (exec (.rett (.d7 0#7)) t) fun u =>
      u.pc = s.pc ∧ u.psr = entryCopy k.clearsP s.psr ∧ u.sp0 = s.sp0 ∧ u.sp1 = s.sp1 ∧ u.regs = s.regs ∧ u.fp = s.fp
        ∧ u.sb = s.sb ∧ u.mod = s.mod ∧ u.op = .executing
        ∧ ∀ a : Word, 8 ≤ (a - (s.sp0 - 8#32)).toNat → memGet u.mem a.toNat = memGet s.mem a.toNat := by
  have hagrees := (takeTrap_agrees hs k).of_next htrap
  rw [entryState_direct hde] at hagrees
  have ht : t.plain = true := hagrees.plain (plain_ram hs) (takeTrap_pendingError hs htrap)
  have hclear {j : Nat} (hj : j ∈ ([1, 4, 8, 9, 10] : List Nat)) : t.psr.getLsbD j = false :=
    (congrArg (·.getLsbD j) hagrees.psr).trans (entryPsr_clears false (entryCopy k.clearsP s.psr) hj)
  have hsp : t.sp0 = s.sp0 - 8#32 := (congrArg State.sp0 hagrees.marked :)
  have hcfg : t.cfgDE = true := (congrArg State.cfgDE hagrees.marked :).trans hde
  have hmem : t.mem = (framed s (entryCopy k.clearsP s.psr) s.pc).mem := hagrees.mem
  obtain ⟨hpc, hcopy, hkept⟩ := framed_loads hm (entryCopy k.clearsP s.psr) s.pc
  have hS : t.flagS = false := hclear (j := 9) (by decide)
  have hU : t.flagU = false := hclear (j := 8) (by decide)
  refine (rett_completesAt ht hU (d := .d7 0#7) (by decide)).mono fun u hu => ?_
  have hzero : Disp.value (.d7 0#7) = 0#32 := rfl
  rw [hzero, returned_direct hcfg hS, State.load32, sp_supervisor hS, load_congr hmem, load_congr hmem, hsp, hcopy,
    entryCopy_implemented hpsr] at hu
  refine ⟨hu.pc.trans hpc, hu.psr, ?_, ?_, ?_, ?_, ?_, ?_, ?_, fun a ha => ?_⟩
  · exact (congrArg State.sp0 hu.marked :).trans (BitVec.sub_add_cancel ..)
  · exact (congrArg State.sp1 hu.marked :).trans (congrArg State.sp1 hagrees.marked :)
  · exact (congrArg State.regs hu.marked :).trans (congrArg State.regs hagrees.marked :)
  · exact (congrArg State.fp hu.marked :).trans (congrArg State.fp hagrees.marked :)
  · exact (congrArg State.sb hu.marked :).trans (congrArg State.sb hagrees.marked :)
  · exact (congrArg State.mod hu.marked :).trans (congrArg State.mod hagrees.marked :)
  · exact (congrArg State.op hu.marked :).trans (congrArg State.op hagrees.marked :)
  · rw [hu.mem]
    exact hmem ▸ hkept a ha

/-- Settles O22: each pair leaves the stack where it was, and what was pushed on it is read back from the bytes that
the push wrote. -/
theorem pushedStateComesBack : Obligations.PushedStateComesBack := by
  intro s t hs hm
  refine ⟨fun k hde hpsr _ htrap => rett_undoes_trap hs hm hde hpsr htrap, fun m hsave => ?_, fun d hcxp => ?_⟩
  · refine (restore_undoes_save hs hm hsave).mono fun u ⟨⟨hregs, hpsr, hfp, hsp⟩, hmem⟩ => ?_
    exact ⟨hregs, hsp, hpsr, hfp, fun a ha => hmem ▸ listPushed_memGet m listBits hm (offStack_of_le ha)⟩
  · refine (rxp_undoes_cxp hs hm hcxp).mono fun u ⟨hpc, hmod, hsb, hsp, hregs, hpsr, hmem⟩ => ?_
    exact ⟨hpc, hmod, hsb, hsp, hregs, hpsr, fun a ha => hmem a (offStack_of_le ha)⟩

end Sys2Proof.Machine
end

section
/-! PROOF. Trap (ILL) for a privileged instruction in user mode (R242, R480, R620). -/

namespace Sys2Proof.Machine

/-- In user mode a privileged instruction that is not undefined fails the check of privilege (R242). -/
theorem check_ill_of_user {sh : Shape} {s : State} (hslave : s.slaveDisabled sh.slave = false) (hsize : sh.size ≠ .u)
    (hops : sh.ops.any Operand.illegal = false) (hpriv : sh.privileged = true) (hu : s.flagU = true) :
    sh.check s = some (.trap .ill) := by
  simp [Shape.check, hslave, hsize, hops, hpriv, hu]

/-- Whether an operand is one that its class allows does not depend on its size (R241). -/
theorem any_illegal_one {g : Gen} {a : Access} (h : Operand.illegal ⟨g, a, 0⟩ = false) (n : Nat) :
    [Operand.mk g a n].any Operand.illegal = false := (Bool.or_false _).trans h

theorem any_illegal_two {g1 g2 : Gen} {a1 a2 : Access} (h1 : Operand.illegal ⟨g1, a1, 0⟩ = false)
    (h2 : Operand.illegal ⟨g2, a2, 0⟩ = false) (n1 n2 : Nat) :
    [Operand.mk g1 a1 n1, ⟨g2, a2, n2⟩].any Operand.illegal = false :=
  Bool.or_eq_false_iff.mpr ⟨h1, any_illegal_one h2 n2⟩

/-- A privileged instruction in user mode takes Trap (ILL) whatever its own refusal would be (R480). -/
theorem traps_of_privileged {s : State} {I : Instr} {sh : Shape} {body : M Done} (hs : s.plain = true)
    (hu : s.flagU = true) (hexec : exec I s = run sh body s) (hpriv : sh.privileged = true)
    (hslave : s.slaveDisabled sh.slave = false) (hsize : sh.size ≠ .u)
    (hops : sh.ops.any Operand.illegal = false) : Traps I s .ill :=
  traps_of_check hs hexec (check_ill_of_user hslave hsize hops hpriv hu)

/-- Settles O16: each instruction is its checks and its actions, and of the checks those before the privilege pass. -/
theorem privilegedInUserMode : Obligations.PrivilegedInUserMode := by
  intro s i r d g1 g2 short pad a b c p creg ci hs hu hi allowed
  have hforwarded (h : ci ≠ 2#2) : forwardedSize ci ≠ .u := by simp [forwardedSize, h]
  refine ⟨?_, fun h1 => ?_, fun h1 => ?_, fun h1 h2 => ?_⟩
  · simp only [List.forall_mem_cons, List.not_mem_nil, false_imp_iff, implies_true, and_true]
    exact ⟨traps_of_privileged hs hu rfl rfl rfl nofun rfl, traps_of_privileged hs hu rfl rfl rfl nofun rfl,
      traps_of_privileged hs hu rfl rfl rfl hi rfl⟩
  · have hops := any_illegal_one h1
    exact ⟨traps_of_privileged hs hu rfl rfl rfl nofun (hops _),
      fun hr => traps_of_privileged hs hu rfl hr rfl hi (hops _),
      fun hb => ⟨traps_of_privileged hs hu rfl (bne_iff_ne.mpr hb) rfl hi (hops _),
        traps_of_privileged hs hu rfl (bne_iff_ne.mpr hb) rfl hi (hops _)⟩,
      fun hc h => traps_of_privileged hs hu rfl rfl (congrArg not hc) (hforwarded h) (hops _)⟩
  · have hops := any_illegal_one h1
    exact ⟨fun hr => traps_of_privileged hs hu rfl hr rfl hi (hops _),
      fun hc h => traps_of_privileged hs hu rfl rfl (congrArg not hc) (hforwarded h) (hops _)⟩
  · have hops := any_illegal_two h1 h2
    exact ⟨traps_of_privileged hs hu rfl rfl rfl hi (hops ..), traps_of_privileged hs hu rfl rfl rfl hi (hops ..)⟩

end Sys2Proof.Machine
end

section
/-! PROOF. NOP, FLAG with F clear, WAIT and DIA (R455, R490 to R492). -/

namespace Sys2Proof.Machine

section Plain

variable {s : State} (hp : s.pendingError = false)
include hp

/-- An instruction of one byte without operands completes where no failed write waits to be recognized, whatever the
board. -/
theorem basic_completesAt {I : Instr} {u : State} {body : M Done} {target : Option Word}
    (hexec : exec I s = run { basic := 1 } body s)
    (hb : Reaches body s fun d u' => d = { target := target } ∧ u' = u) :
    CompletesAt I s u (target.getD (s.pc + 1#32)) := by
  obtain ⟨_, _, t, hok, hsim, rfl, rfl⟩ := hb s (Sim.refl hp)
  exact (completesClean_of_ok hexec (check_basic 1 s) hok hsim).completesAt

theorem nop_completes : Completes .nop s s :=
  basic_completesAt (target := none) hp rfl (Reaches.pure ⟨rfl, rfl⟩)

/-- FLAG with F clear does nothing (R455). -/
theorem flag_completes (hF : s.flagF = false) : Completes .flag s s :=
  basic_completesAt (target := none) hp rfl
    (Reaches.getS fun _ _ _ _ => Reaches.of_false (ne_true_of_eq_false hF) (Reaches.pure ⟨rfl, rfl⟩))

/-- WAIT waits for the write buffer before it enters the Waiting state (R491). -/
theorem wait_completes : Completes .wait s { s with op := .waiting } := by
  refine basic_completesAt (target := none) hp rfl (Reaches.bind (drain_plain s) ?_)
  rintro _ w rfl
  refine Reaches.bind (P := fun _ u => u = { w with op := .waiting }) (Reaches.upd (fun _ _ _ _ => rfl) rfl) ?_
  rintro _ _ rfl
  exact Reaches.pure ⟨rfl, rfl⟩

/-- DIA branches to itself (R492). -/
theorem dia_completesAt : CompletesAt .dia s s s.pc := by
  refine basic_completesAt (target := some s.pc) hp rfl (Reaches.bind (serialize_plain s) ?_)
  rintro _ _ rfl
  exact Reaches.getS fun _ _ _ _ => Reaches.pure ⟨rfl, rfl⟩

end Plain

/-- Settles O43: none of them has operands, so that no reference can end in a bus error. -/
theorem plainControl : Obligations.PlainControl :=
  ⟨rfl, rfl, fun _ hp => ⟨nop_completes hp, flag_completes hp, wait_completes hp, dia_completesAt hp⟩⟩

end Sys2Proof.Machine
end

section
/-! PROOF. BISPSRi, BICPSRi and ADJSPi: a source is read, and PSR or the selected stack pointer changed by it (R484 to
R486). -/

namespace Sys2Proof.Machine

/-- A byte operand has no bit above PSR[7:0]. -/
theorem src_byte_low (s : State) (g : Gen) :
    ((src s 1 g).setWidth 16 : Half) &&& 0x00FF#16 = (src s 1 g).setWidth 16 := by
  have hlt : (src s 1 g).toNat < 2 ^ 8 := locValue_lt s (i := .b) nofun _
  have hmask : (0x00FF#16).toNat = 2 ^ 8 - 1 := rfl
  refine BitVec.eq_of_toNat_eq ?_
  rw [BitVec.toNat_and, hmask, Nat.and_two_pow_sub_one_eq_mod, BitVec.toNat_setWidth]
  omega

/-- The actions of BISPSRi and BICPSRi, of which `f` says what the operand does to PSR (R484, R485). -/
def changeStatus (f : Half → Half → Half) (i : Size) (g : Gen) : M Done := do
  let v ← readOp g i.bytes
  if i = .b then updPsr fun p => f p (v.setWidth 16 &&& 0x00FF#16) &&& psrMask
  else
    updPsr fun p => f p (v.setWidth 16) &&& psrMask
    serialize
  return {}

/-- The checks of BISPSRi and BICPSRi: the byte forms are allowed in every mode, the double-word forms in none. -/
def statusShape (i : Size) (g : Gen) : Shape :=
  { basic := 2, size := i, ops := [rd g i.bytes], privileged := i != .b, reserved := refuseIf (i == .d) .psrDouble }

theorem exec_bispsr (i : Size) (g : Gen) (s : State) :
    exec (.bispsr i g) s = run (statusShape i g) (changeStatus (· ||| ·) i g) s := rfl

theorem exec_bicpsr (i : Size) (g : Gen) (s : State) :
    exec (.bicpsr i g) s = run (statusShape i g) (changeStatus (fun p v => p &&& ~~~v) i g) s := rfl

section Completes

variable {i : Size} {g : Gen} {s : State} (hs : s.plain = true) (hg : legal .read g = true)
include hs hg

theorem changeStatus_plain (hi : i = .b ∨ i = .w) (f : Half → Half → Half) :
    Reaches (changeStatus f i g) s fun d u =>
      d = {} ∧ u = (afterSrc s i.bytes g).withPsr fun p => f p ((src s i.bytes g).setWidth 16) &&& psrMask := by
  refine Reaches.bind (readOp_plain (plain_ram hs) hg i.bytes) ?_
  rintro _ _ ⟨rfl, rfl⟩
  rcases hi with rfl | rfl
  · have hlow : ((src s Size.b.bytes g).setWidth 16 : Half) &&& 0x00FF#16 = (src s Size.b.bytes g).setWidth 16 :=
      src_byte_low s g
    rw [hlow]
    refine Reaches.of_true rfl (Reaches.bind (Reaches.updPsr (Q := fun _ u => u = _) rfl) ?_)
    rintro _ _ rfl
    exact Reaches.pure ⟨rfl, rfl⟩
  · refine Reaches.of_false nofun (Reaches.bind (Reaches.updPsr (Q := fun _ u => u = _) rfl) ?_)
    rintro _ _ rfl
    refine Reaches.bind (serialize_plain _) ?_
    rintro _ _ rfl
    exact Reaches.pure ⟨rfl, rfl⟩

theorem status_completes (hi : i = .b ∨ i = .w ∧ s.flagU = false) {I : Instr} {f : Half → Half → Half}
    (hexec : exec I s = run (statusShape i g) (changeStatus f i g) s)
    (hlen : (encode I).length = 2 + g.length i.bytes) :
    Completes I s
      ((afterSrc s i.bytes g).withPsr fun p => f p ((src s i.bytes g).setWidth 16) &&& psrMask) := by
  obtain ⟨hsize, hpriv, hres⟩ :
      i ≠ .u ∧ ((i != .b) = false ∨ s.flagU = false) ∧ refuseIf (i == .d) .psrDouble = none := by
    rcases hi with rfl | ⟨rfl, hu⟩
    · exact ⟨nofun, .inl rfl, rfl⟩
    · exact ⟨nofun, .inr hu, rfl⟩
  have hcheck : (statusShape i g).check s = none := check_none rfl hsize (legal_one hg) hpriv rfl hres
  exact completes_of_reaches hexec hlen hs hcheck (changeStatus_plain hs hg (hi.imp_right And.left) f)

/-- ADJSPi (R486): a source on the stack is popped first. -/
theorem adjsp_completes (hi : i ≠ .u) :
    let s1 := afterSrc s i.bytes g
    Completes (.adjsp i g) s (s1.setSp (s1.sp - ((src s i.bytes g).setWidth i.bits).signExtend 32)) := by
  intro s1
  refine completes_of_reaches (by rfl) (by exact encG_length ..) hs
    (check_none rfl hi (legal_one hg) (.inl rfl) rfl rfl) ?_
  refine Reaches.bind (readInt_plain (plain_ram hs) i hg) ?_
  rintro _ _ ⟨rfl, rfl⟩
  refine Reaches.bind (setSp_upd (fun t => t.sp - ((src s i.bytes g).setWidth i.bits).signExtend 32)
    (fun _ _ _ _ => rfl) (Q := fun _ u' => u' = _) rfl) ?_
  rintro _ _ rfl
  exact Reaches.pure ⟨rfl, rfl⟩

end Completes

/-- Settles O48: the byte form masks an operand that has no more bits than the mask leaves, so that both forms do the
same to PSR. -/
theorem statusAndStackAdjust : Obligations.StatusAndStackAdjust := by
  intro i g s hs hg s1 v
  refine ⟨fun hi => ⟨?_, ?_⟩, adjsp_completes hs hg⟩
  · exact status_completes (f := (· ||| ·)) hs hg hi (exec_bispsr i g s) (by exact encG_length ..)
  · exact status_completes (f := fun p v => p &&& ~~~v) hs hg hi (exec_bicpsr i g s) (by exact encG_length ..)

end Sys2Proof.Machine
end

section
/-! PROOF. MOVSUi and MOVUSi: the element moved, and the last references made for it (R496, R497). -/

namespace Sys2Proof.Machine

/-! ### The last references of an instruction -/

/-- `Reaches`, with the last references that the action adds; those of the addressing modes come before them. -/
def RefersLast {α : Type} (m : M α) (u : State) (rs : List Ref) (P : α → State → Prop) : Prop :=
  ∀ t, Sim u t → ∃ a u' t' before, m t = .ok a t' ∧ Sim u' t' ∧ t'.refs = before ++ rs ∧ P a u'

theorem Refers.last {α : Type} {m : M α} {u : State} {rs : List Ref} {P : α → State → Prop}
    (h : Refers m u rs P) : RefersLast m u rs P := by
  intro t ht
  obtain ⟨a, u', t', hm, hsim, hrs, hP⟩ := h t ht
  exact ⟨a, u', t', t.refs, hm, hsim, hrs, hP⟩

theorem Reaches.bind_last {α β : Type} {m : M α} {k : α → M β} {u : State} {rs : List Ref} {P : α → State → Prop}
    {Q : β → State → Prop} (h : Reaches m u P) (hk : ∀ a u', P a u' → RefersLast (k a) u' rs Q) :
    RefersLast (m >>= k) u rs Q := by
  intro t ht
  obtain ⟨a, u', t', hm, hsim, hP⟩ := h t ht
  obtain ⟨b, u'', t'', before, hka, hsim', hrs, hQ⟩ := hk a u' hP t' hsim
  exact ⟨b, u'', t'', before, (bind_of_ok hm).trans hka, hsim', hrs, hQ⟩

/-- Completion makes no reference. -/
theorem complete_refs {s t w : State} {len : Nat} {d : Done} (he : d.element = false) (hu : d.unfinished = false)
    (hv : d.overflow = false) (h : complete len s d t = .next w) : w.refs = t.refs := by
  rw [complete_next he hu hv] at h
  cases h
  rfl

/-- An instruction whose checks pass and whose actions leave `u` completes, its last references those of its actions. -/
theorem completes_of_refersLast {I : Instr} {sh : Shape} {body : M Done} {s u : State} {rs : List Ref}
    (hexec : exec I s = run sh body s) (hlen : (encode I).length = sh.length) (hs : s.plain = true)
    (hc : sh.check s = none) (hb : RefersLast body s rs fun d u' => d = {} ∧ u' = u) :
    Goes (exec I s) fun t => Agrees s (u.retired (nextPc I s)) t ∧ ∃ before, t.refs = before ++ rs := by
  obtain ⟨_, _, t, before, hok, hsim, hrs, rfl, rfl⟩ := hb s (Sim.refl (plain_pendingError hs))
  obtain ⟨w, hw, hagrees⟩ := complete_agrees (d := {}) sh.length hsim rfl rfl (.inl rfl)
  refine ⟨w, (hexec.trans (run_complete hc hok hsim.pendingError)).trans hw, ?_, before,
    (complete_refs rfl rfl rfl hw).trans hrs⟩
  rw [nextPc, hlen]
  exact hagrees

theorem getLast_append_two {α : Type} (l : List α) (x y : α) :
    (l ++ [x, y]).getLast? = some y ∧ (l ++ [x, y]).dropLast.getLast? = some x := by
  simp [List.dropLast_append_of_ne_nil]

/-! ### The moves between address spaces -/

section Moves

variable {i : Size} {g1 g2 : Gen} {s : State} {a1 a2 : Word} (hi : i ≠ .u) (hs : s.plain = true)
  (hu : s.flagU = false) (h1 : legal .addr g1 = true) (h2 : legal .addr g2 = true) (ha1 : addrOf s g1 = some a1)
  (ha2 : addrOf s g2 = some a2)

include hs h1 h2 ha1 ha2 in
/-- Both addresses are found before the element is read (log 34). -/
theorem addresses_last {k : Word → Word → M Done} {rs : List Ref} {Q : Done → State → Prop}
    (hk : Refers (k a1 a2) s rs Q) :
    RefersLast (do let x ← addrOp g1; let y ← addrOp g2; k x y) s rs Q := by
  refine Reaches.bind_last (addrOp_plain (plain_ram hs) h1 ha1) ?_
  rintro _ _ ⟨rfl, rfl⟩
  refine Reaches.bind_last (addrOp_plain (plain_ram hs) h2 ha2) ?_
  rintro _ _ ⟨rfl, rfl⟩
  exact hk.last

include hi hu h1 h2 in
theorem userSpace_check : Shape.check { basic := 3, size := i, ops := [ad g1, ad g2], privileged := true } s = none :=
  check_none rfl hi (legal_two h1 h2) (.inr hu) rfl rfl

include hi hs hu h1 h2 ha1 ha2

/-- MOVSUi (R496): the write is a user-mode reference. -/
theorem movsu_completes :
    Goes (exec (.movsu i g1 g2) s) fun t =>
      Agrees s ((s.put a2 i.bytes (s.load a1 i.bytes)).retired (nextPc (.movsu i g1 g2) s)) t
        ∧ ∃ before, t.refs = before ++ [dataRef a1 i.bytes false false (s.load a1 i.bytes),
            dataRef a2 i.bytes true true (s.load a1 i.bytes)] := by
  refine completes_of_refersLast (by rfl) (by exact encTwo_length ..) hs (userSpace_check hi hu h1 h2)
    (addresses_last hs h1 h2 ha1 ha2 ?_)
  have hread := memRead_refers (plain_ram hs) a1 i.bytes
  rw [hu] at hread
  refine Refers.bind hread ?_
  rintro _ _ ⟨rfl, rfl⟩
  refine Refers.bind_nil (writeRef_refers (plain_ram hs) true false a2 i.bytes _) ?_
  rintro _ _ rfl
  exact Refers.pure ⟨rfl, rfl⟩

/-- MOVUSi (R497): the read is a user-mode reference. -/
theorem movus_completes :
    Goes (exec (.movus i g1 g2) s) fun t =>
      Agrees s ((s.put a2 i.bytes (s.load a1 i.bytes)).retired (nextPc (.movus i g1 g2) s)) t
        ∧ ∃ before, t.refs = before ++ [dataRef a1 i.bytes false true (s.load a1 i.bytes),
            dataRef a2 i.bytes true false (s.load a1 i.bytes)] := by
  refine completes_of_refersLast (by rfl) (by exact encTwo_length ..) hs (userSpace_check hi hu h1 h2)
    (addresses_last hs h1 h2 ha1 ha2 ?_)
  have hwrite := memWrite_refers (plain_ram hs) a2 i.bytes (s.load a1 i.bytes)
  rw [hu] at hwrite
  refine Refers.bind (readRef_refers (plain_ram hs) true true a1 i.bytes) ?_
  rintro _ _ ⟨rfl, rfl⟩
  refine Refers.bind_nil hwrite ?_
  rintro _ _ rfl
  exact Refers.pure ⟨rfl, rfl⟩

end Moves

/-- Settles O50: the addresses are found first, so that the element's read and its write are the last two
references. -/
theorem userSpaceMoves : Obligations.UserSpaceMoves := by
  intro i g1 g2 s hi hs hu h1 h2 a1 a2 ha1 ha2 u v
  refine ⟨(movsu_completes hi hs hu h1 h2 ha1 ha2).mono fun t ⟨hagrees, before, hrs⟩ => ⟨hagrees, ?_⟩,
    (movus_completes hi hs hu h1 h2 ha1 ha2).mono fun t ⟨hagrees, before, hrs⟩ => ⟨hagrees, ?_⟩⟩
  · rw [hrs]
    exact (getLast_append_two ..).1
  · rw [hrs]
    exact getLast_append_two ..

end Sys2Proof.Machine
end

section
/-! PROOF. SETCFG and CINV: the caches that lose their contents, and the bytes that then miss (R44, R45, R487, R495). -/

namespace Sys2Proof.Machine

/-! ### A block invalidated -/

/-- The 16-byte block of an address is its tag and its set (R120, R130). -/
theorem sameBlock_iff (x v : Word) :
    x.extractLsb' 4 28 = v.extractLsb' 4 28 ↔ tagOf x = tagOf v ∧ setOf x = setOf v := by
  have hblock : x.extractLsb' 4 28 = v.extractLsb' 4 28 ↔ x.toNat / 16 = v.toNat / 16 := by
    rw [← BitVec.toNat_inj]
    simp [Nat.shiftRight_eq_div_pow]
    omega
  have htag : tagOf x = tagOf v ↔ x.toNat / 512 = v.toNat / 512 := by
    rw [← BitVec.toNat_inj]
    simp [tagOf, Nat.shiftRight_eq_div_pow]
    omega
  have hset : setOf x = setOf v ↔ x.toNat / 16 % 32 = v.toNat / 16 % 32 := by
    rw [Fin.ext_iff]
    simp [setOf, Nat.shiftRight_eq_div_pow]
  rw [hblock, htag, hset]
  omega

theorem Line.hit_invalidateBlock_same (l : Line) {v x : Word} (h : tagOf x = tagOf v) :
    (l.invalidateBlock v).hit x = false := by
  unfold Line.invalidateBlock
  split
  · exact Line.hit_of_invalid rfl x
  · next hl => exact Bool.and_eq_false_imp.mpr fun hx => absurd (h ▸ hx) hl

theorem Line.hit_invalidateBlock_other (l : Line) {v x : Word} (h : tagOf x ≠ tagOf v) :
    (l.invalidateBlock v).hit x = l.hit x := by
  unfold Line.invalidateBlock
  split
  · next hl =>
    have hmiss : l.hit x = false :=
      Bool.eq_false_iff.mpr fun hx => h (((l.hit_iff x).mp hx).1.symm.trans (eq_of_beq hl))
    rw [hmiss, Line.hit_of_invalid rfl]
  · rfl

theorem Line.byte_invalidateBlock (l : Line) (v x : Word) : (l.invalidateBlock v).byte x = l.byte x := by
  unfold Line.invalidateBlock
  split <;> rfl

/-- The data cache's set of a block without it: every byte of the block misses, every other of the set is as before. -/
theorem DataSet.lookup_invalidateBlock (y : DataSet) (v x : Word) :
    DataSet.lookup { y with way0 := y.way0.invalidateBlock v, way1 := y.way1.invalidateBlock v } x
      = if tagOf x = tagOf v then none else y.lookup x := by
  by_cases h : tagOf x = tagOf v
  · simp only [DataSet.lookup, Line.hit_invalidateBlock_same _ h, h, Bool.false_eq_true, if_false, if_true]
  · simp only [DataSet.lookup, Line.hit_invalidateBlock_other _ h, Line.byte_invalidateBlock, h, if_false]

theorem dcByte_invalidateBlock (s : State) (v x : Word) :
    dcByte { s with dcache := dcInvalidateBlock s.dcache v } x
      = if x.extractLsb' 4 28 = v.extractLsb' 4 28 then none else dcByte s x := by
  refine (dcByte_set s (setOf v) _ x).trans ?_
  simp only [sameBlock_iff, DataSet.lookup_invalidateBlock]
  by_cases hset : setOf x = setOf v
  · have hsame : s.dcache[setOf v] = s.dcache[setOf x] := by simp only [hset]
    simp only [hset, if_true, and_true, hsame, dcByte_eq]
  · simp only [hset, if_false, and_false]

/-- The byte a line of the instruction cache delivers at an address of its set, if the cache is enabled (R121, R122). -/
def Line.lookup (on : Bool) (l : Line) (a : Word) : Option Byte := if on && l.hit a then some (l.byte a) else none

theorem icByte_eq (s : State) (a : Word) : icByte s a = s.icache[setOf a].lookup s.cfgIC a := rfl

/-- What the instruction cache holds depends on its lines and on whether it is enabled. -/
theorem icByte_congr {s t : State} (hcfg : t.cfgIC = s.cfgIC) (hic : t.icache = s.icache) (x : Word) :
    icByte t x = icByte s x := by
  rw [icByte_eq, icByte_eq, hcfg, hic]

theorem Line.lookup_invalidateBlock (on : Bool) (l : Line) (v x : Word) :
    (l.invalidateBlock v).lookup on x = if tagOf x = tagOf v then none else l.lookup on x := by
  by_cases h : tagOf x = tagOf v
  · simp only [Line.lookup, Line.hit_invalidateBlock_same _ h, h, Bool.and_false, Bool.false_eq_true, if_false, if_true]
  · simp only [Line.lookup, Line.hit_invalidateBlock_other _ h, Line.byte_invalidateBlock, h, if_false]

theorem icByte_invalidateBlock (s : State) (v x : Word) :
    icByte { s with icache := icInvalidateBlock s.icache v } x
      = if x.extractLsb' 4 28 = v.extractLsb' 4 28 then none else icByte s x := by
  have hline : icByte { s with icache := icInvalidateBlock s.icache v } x
      = if setOf x = setOf v then (s.icache[setOf v].invalidateBlock v).lookup s.cfgIC x else icByte s x := by
    rw [icByte_eq, icByte_eq, ← apply_ite (Line.lookup s.cfgIC · x), ← getElem_set_fin]
    rfl
  rw [hline]
  simp only [sameBlock_iff, Line.lookup_invalidateBlock]
  by_cases hset : setOf x = setOf v
  · have hsame : s.icache[setOf v] = s.icache[setOf x] := by simp only [hset]
    simp only [hset, if_true, and_true, hsame, icByte_eq]
  · simp only [hset, if_false, and_false]

/-! ### What CINV leaves of the caches -/

/-- The instruction cache after CINV with the options I and A (R495). -/
def icAfterCinv (ic a : Bool) (v : Word) (c : Vector Line 32) : Vector Line 32 :=
  if ic then (if a then icInvalidate c else icInvalidateBlock c v) else c

/-- The data cache after CINV with the options D and A (R495). -/
def dcAfterCinv (dc a : Bool) (v : Word) (c : Vector DataSet 32) : Vector DataSet 32 :=
  if dc then (if a then dcInvalidate c else dcInvalidateBlock c v) else c

/-- Whether CINV names the address, by A or as one of the operand's block. -/
def cinvGone (a : Bool) (v x : Word) : Bool := a || x.extractLsb' 4 28 == v.extractLsb' 4 28

theorem icByte_icAfterCinv (s : State) (ic a : Bool) (v x : Word) :
    icByte { s with icache := icAfterCinv ic a v s.icache } x
      = if ic && cinvGone a v x then none else icByte s x := by
  cases ic with
  | false => rfl
  | true =>
    cases a with
    | true => exact icByte_of_invalid (icInvalidate_valid s.icache) x
    | false =>
      refine (icByte_invalidateBlock s v x).trans ?_
      simp [cinvGone]

theorem dcByte_dcAfterCinv (s : State) (dc a : Bool) (v x : Word) :
    dcByte { s with dcache := dcAfterCinv dc a v s.dcache } x
      = if dc && cinvGone a v x then none else dcByte s x := by
  cases dc with
  | false => rfl
  | true =>
    cases a with
    | true => exact dcByte_of_invalid (dcInvalidate_valid s.dcache) x
    | false =>
      refine (dcByte_invalidateBlock s v x).trans ?_
      simp [cinvGone]

/-! ### SETCFG and CINV -/

/-- The actions of CINV (R495), each cache by itself. -/
def invalidateActions (a ic dc : Bool) (g : Gen) : M Done := do
  let v ← readOp g 4
  slaveSend 0b11111#5 (broadcastWord (.cinv a ic dc 0#1 g))
  slaveSend 0b11101#5 (v.setWidth 32)
  drain
  let code : M Unit := if ic then upd (invalidateCode a (v.setWidth 32)) else pure ()
  code
  let data : M Unit := if dc then upd (invalidateData a (v.setWidth 32)) else pure ()
  data
  serialize
  return {}

theorem exec_cinv (a ic dc : Bool) (g : Gen) (s : State) :
    exec (.cinv a ic dc 0#1 g) s
      = run { basic := 3, ops := [rd g 4], privileged := true } (invalidateActions a ic dc g) s := by
  cases ic <;> cases dc <;> rfl

theorem invalidateCode_reaches (ic a : Bool) (v : Word) (u : State) :
    Reaches (if ic then upd (invalidateCode a v) else pure ()) u fun _ w =>
      w = { u with icache := icAfterCinv ic a v u.icache } := by
  cases ic with
  | false => exact Reaches.pure rfl
  | true =>
    rintro _ ⟨wb, sc, fc, rf, hw, rfl⟩
    exact ⟨(), _, _, rfl, ⟨wb, (invalidateCode a v (u.book wb sc fc rf)).fetchUnit, fc, rf, hw, rfl⟩, rfl⟩

theorem invalidateData_reaches (dc a : Bool) (v : Word) (u : State) :
    Reaches (if dc then upd (invalidateData a v) else pure ()) u fun _ w =>
      w = { u with dcache := dcAfterCinv dc a v u.dcache } := by
  cases dc with
  | false => exact Reaches.pure rfl
  | true => cases a <;> exact Reaches.upd (fun _ _ _ _ => rfl) rfl

/-- The state that CINV leaves. -/
def cinvPut (a ic dc : Bool) (v : Word) (s : State) : State :=
  { s with icache := icAfterCinv ic a v s.icache, dcache := dcAfterCinv dc a v s.dcache }

/-- What SETCFG loads: the short field has no bit of a cache's enable, so both lose their contents (R487). -/
theorem aregPut_cfg_short {short : BitVec 4} (h : short.getLsbD 2 = false) (u : State) :
    aregPut .cfg ((short.setWidth 32 : Word).setWidth 64) u =
      { u with
        cfg := 0x000000F0#32 ||| short.setWidth 32
        icache := icInvalidate u.icache, dcache := dcInvalidate u.dcache } := by
  have hcfg : (((short.setWidth 32 : Word).setWidth 64 : Quad).setWidth 32 &&& 0x1F0B#32) ||| 0xF0#32
      = 0x000000F0#32 ||| short.setWidth 32 := by
    revert short
    decide
  have h11 : (((short.setWidth 32 : Word).setWidth 64 : Quad).setWidth 32 : Word).getLsbD 11 = false := by simp
  have h9 : (((short.setWidth 32 : Word).setWidth 64 : Quad).setWidth 32 : Word).getLsbD 9 = false := by simp
  simp only [aregPut, hcfg, h11, h9, Bool.false_eq_true, if_false]

section Supervisor

variable {s : State} (hs : s.plain = true) (hu : s.flagU = false)
include hs hu

theorem cinv_completes (a ic dc : Bool) {g : Gen} (hg : legal .read g = true) :
    Completes (.cinv a ic dc 0#1 g) s (cinvPut a ic dc ((src s 4 g).setWidth 32) (afterSrc s 4 g)) := by
  refine completes_of_reaches (exec_cinv a ic dc g s) (by exact enc3_tail1_length ..) hs
    (check_none rfl nofun (legal_one hg) (.inr hu) rfl rfl) ?_
  refine Reaches.bind (readOp_plain (plain_ram hs) hg 4) ?_
  rintro _ _ ⟨rfl, rfl⟩
  refine Reaches.bind (slaveSend_plain _ _ _) ?_
  rintro _ _ rfl
  refine Reaches.bind (slaveSend_plain _ _ _) ?_
  rintro _ _ rfl
  refine Reaches.bind (drain_plain _) ?_
  rintro _ _ rfl
  refine Reaches.bind (invalidateCode_reaches ic a _ _) ?_
  rintro _ _ rfl
  refine Reaches.bind (invalidateData_reaches dc a _ _) ?_
  rintro _ _ rfl
  refine Reaches.bind (serialize_plain _) ?_
  rintro _ _ rfl
  exact Reaches.pure ⟨rfl, rfl⟩

/-- The bytes that hit after CINV are those that hit before it and that it does not name (R495). -/
theorem cinv_misses (a ic dc : Bool) {g : Gen} (hg : legal .read g = true) :
    let v : Word := (src s 4 g).setWidth 32
    Goes (exec (.cinv a ic dc 0#1 g) s) fun t => ∀ x : Word,
      icByte { t with cfg := 0xFFFFFFFF#32 } x
          = (if ic && cinvGone a v x then none else icByte { s with cfg := 0xFFFFFFFF#32 } x)
        ∧ dcByte t x = if dc && cinvGone a v x then none else dcByte s x := by
  intro v
  obtain ⟨-, -, hic, hdc⟩ := afterSrc_frame s 4 g
  refine (cinv_completes hs hu a ic dc hg).mono fun t ht x => ⟨?_, ?_⟩
  · have hcache : t.icache = icAfterCinv ic a v s.icache := ht.icache.trans (congrArg (icAfterCinv ic a v) hic)
    rw [← icByte_icAfterCinv]
    exact icByte_congr (by rfl) (by exact hcache) x
  · have hcache : t.dcache = dcAfterCinv dc a v s.dcache := ht.dcache.trans (congrArg (dcAfterCinv dc a v) hdc)
    rw [← dcByte_dcAfterCinv]
    simp only [dcByte, hcache]

theorem setcfg_leaves {short : BitVec 4} (h : short.getLsbD 2 = false) :
    Goes (exec (.setcfg .d short 0#6) s) fun t =>
      t.cfg = 0x000000F0#32 ||| short.setWidth 32
        ∧ Agrees s ({ s with
            cfg := 0x000000F0#32 ||| short.setWidth 32
            icache := icInvalidate s.icache, dcache := dcInvalidate s.dcache }.retired (s.pc + 3#32)) t
        ∧ ∀ x : Word, icByte { t with cfg := 0xFFFFFFFF#32 } x = none ∧ dcByte t x = none := by
  have hgoes := setcfg_completes hs hu h
  rw [aregPut_cfg_short h] at hgoes
  refine hgoes.mono fun t ht => ⟨ht.cfg, ht, fun x => ⟨?_, ?_⟩⟩
  · exact icByte_of_invalid (s := { t with cfg := 0xFFFFFFFF#32 }) (fun k => ht.icache ▸ icInvalidate_valid _ k) x
  · exact dcByte_of_invalid (fun k => ht.dcache ▸ dcInvalidate_valid _ k) x

end Supervisor

/-- Settles O49: what is loaded into CFG enables neither cache; of a block invalidated exactly its own bytes miss that
hit before. -/
theorem configurationAndCaches : Obligations.ConfigurationAndCaches := by
  intro short a ic dc g s hs hu hg
  obtain ⟨-, -, hic, hdc⟩ := afterSrc_frame s 4 g
  refine ⟨setcfg_leaves hs hu, ?_, cinv_misses hs hu a ic dc hg⟩
  have hgoes := cinv_completes hs hu a ic dc hg
  rw [cinvPut, hic, hdc] at hgoes
  exact hgoes

end Sys2Proof.Machine
end

section
/-! SUPPORT. The slave protocol in a state whose memory is RAM: which actions make no slave cycle, how an instruction
comes to its exchange with the slave, and what the exchange does for each reply (R520 to R528). -/

namespace Sys2Proof.Machine

/-! ### Actions without slave cycles -/

section Quiet

variable {α β : Type}

theorem slaveCycles_append (xs ys : List Ref) : slaveCycles (xs ++ ys) = slaveCycles xs ++ slaveCycles ys :=
  List.filter_append ..

/-- Where the action completes, it has made no slave cycle. -/
def Quiet (m : M α) : Prop := ∀ s a t, m s = .ok a t → ∃ rs, t.refs = s.refs ++ rs ∧ slaveCycles rs = []

theorem Quiet.pure (a : α) : Quiet (Pure.pure a : M α) := by
  rintro s _ _ ⟨⟩
  exact ⟨[], (List.append_nil _).symm, rfl⟩

theorem Quiet.getS : Quiet Machine.getS := by
  rintro s _ _ ⟨⟩
  exact ⟨[], (List.append_nil _).symm, rfl⟩

theorem Quiet.stop (e : Stop) : Quiet (Machine.stop e : M α) := by
  rintro s _ _ ⟨⟩

theorem Quiet.upd {f : State → State} (hf : ∀ s, (f s).refs = s.refs) : Quiet (Machine.upd f) := by
  rintro s _ _ ⟨⟩
  exact ⟨[], (hf s).trans (List.append_nil _).symm, rfl⟩

theorem Quiet.bind {m : M α} {k : α → M β} (h : Quiet m) (hk : ∀ a, Quiet (k a)) : Quiet (m >>= k) := by
  intro s b t e
  obtain ⟨a, u, hm, he⟩ := bind_ok e
  obtain ⟨rs, hrs, hnone⟩ := h s a u hm
  obtain ⟨rs', hrs', hnone'⟩ := hk a u b t he
  refine ⟨rs ++ rs', by rw [hrs', hrs, List.append_assoc], ?_⟩
  rw [slaveCycles_append, hnone, hnone', List.append_nil]

theorem Quiet.ite {c : Prop} [Decidable c] {m m' : M α} (h : Quiet m) (h' : Quiet m') :
    Quiet (if c then m else m') := by
  split
  · exact h
  · exact h'

end Quiet

theorem readRef_quiet (k : RefKind) (a : Word) (n : Nat) : Quiet (readRef k a n) := by
  intro s v t h
  obtain ⟨_, _, _, rfl⟩ := readRef_ok h
  exact ⟨[_], rfl, rfl⟩

theorem writeRef_quiet (k : RefKind) (a : Word) (n : Nat) (v : Quad) : Quiet (writeRef k a n v) := by
  intro s _ t h
  obtain ⟨br, hv⟩ := writeCycles_frame s a n
  simp only [writeRef, hv] at h
  split at h <;> cases h
  exact ⟨[_], rfl, rfl⟩

theorem memRead_quiet (a : Word) (n : Nat) : Quiet (memRead a n) := fun s => readRef_quiet _ a n s

theorem memReadRmw_quiet (a : Word) (n : Nat) : Quiet (memReadRmw a n) := fun s => readRef_quiet _ a n s

theorem memReadPtr_quiet (st : BitVec 5) (a : Word) : Quiet (memReadPtr st a) := by
  intro s v t h
  obtain ⟨_, -, hrefs⟩ := memReadPtr_refs h
  exact ⟨_, hrefs, rfl⟩

theorem memRead32_quiet (a : Word) : Quiet (memRead32 a) := (memRead_quiet a 4).bind fun _ => Quiet.pure _

theorem memWrite_quiet (a : Word) (n : Nat) (v : Quad) : Quiet (memWrite a n v) := fun s => writeRef_quiet _ a n v s

theorem setSp_quiet (f : State → Word) : Quiet (upd fun s => s.setSp (f s)) := Quiet.upd fun _ => State.setSp_refs ..

theorem push_quiet (n : Nat) (v : Quad) : Quiet (push n v) :=
  (setSp_quiet _).bind fun _ => Quiet.getS.bind fun _ => memWrite_quiet _ n v

theorem pop_quiet (n : Nat) : Quiet (pop n) :=
  Quiet.getS.bind fun _ => (memRead_quiet _ n).bind fun _ => (setSp_quiet _).bind fun _ => Quiet.pure _

theorem locMode_quiet (m : Mode) : Quiet (locMode m) := by
  cases m with
  | reg | imm | abs | tos => exact Quiet.pure _
  | regRel | space => exact Quiet.getS.bind fun _ => Quiet.pure _
  | memRel => exact Quiet.getS.bind fun _ => (memReadPtr_quiet _ _).bind fun _ => Quiet.pure _
  | ext =>
    exact Quiet.getS.bind fun _ => (memReadPtr_quiet _ _).bind fun _ => (memReadPtr_quiet _ _).bind fun _ =>
      Quiet.pure _

theorem locGen_quiet (g : Gen) : Quiet (locGen g) := by
  cases g with
  | mode m => exact locMode_quiet m
  | idx _ _ m => exact (locMode_quiet m).bind fun _ => Quiet.getS.bind fun _ => Quiet.pure _
  | reserved | idxBad => exact Quiet.stop _

theorem readLoc_quiet (n : Nat) (l : Loc) : Quiet (readLoc n l) := by
  cases l with
  | reg => exact Quiet.getS.bind fun _ => Quiet.pure _
  | imm => exact Quiet.pure _
  | mem a => exact memRead_quiet a n
  | tos => exact pop_quiet n

theorem readOp_quiet (g : Gen) (n : Nat) : Quiet (readOp g n) := (locGen_quiet g).bind fun l => readLoc_quiet n l

theorem readRmw_quiet (n : Nat) (l : Loc) : Quiet (readRmw n l) := by
  cases l with
  | reg => exact Quiet.getS.bind fun _ => Quiet.pure _
  | imm => exact Quiet.pure _
  | mem a => exact memReadRmw_quiet a n
  | tos => exact Quiet.getS.bind fun _ => memReadRmw_quiet _ n

theorem writeReg_quiet (n : Nat) (k : RegNum) (v : Quad) : Quiet (writeReg n k v) := Quiet.upd fun _ => rfl

theorem writeLoc_quiet (n : Nat) (v : Quad) (l : Loc) : Quiet (writeLoc n v l) := by
  cases l with
  | reg k => exact writeReg_quiet n k v
  | imm => exact Quiet.stop _
  | mem a => exact memWrite_quiet a n v
  | tos => exact push_quiet n v

theorem writeRmw_quiet (n : Nat) (v : Quad) (l : Loc) : Quiet (writeRmw n v l) := by
  cases l with
  | reg k => exact writeReg_quiet n k v
  | imm => exact Quiet.stop _
  | mem a => exact memWrite_quiet a n v
  | tos => exact Quiet.getS.bind fun _ => memWrite_quiet _ n v

theorem serialize_quiet : Quiet serialize := by
  refine Quiet.bind ?_ fun _ => Quiet.upd fun _ => rfl
  intro s _ t h
  obtain ⟨_, rfl⟩ := settleWrites_ok h
  exact ⟨[], (List.append_nil _).symm, rfl⟩

/-! ### The operands sent (R523) -/

theorem sourceWords_quiet (t : SlaveType) (g : Gen) : Quiet (sourceWords t g) :=
  Quiet.ite (Quiet.pure _) ((readOp_quiet g _).bind fun _ => Quiet.pure _)

theorem rmwWords_quiet (t : SlaveType) (g : Gen) (l : Loc) : Quiet (rmwWords t g l) :=
  Quiet.ite (Quiet.pure _) ((readRmw_quiet _ l).bind fun _ => Quiet.pure _)

/-- Register mode pops nothing. -/
theorem afterSrc_inSlaveRegister {t : SlaveType} {g : Gen} (h : inSlaveRegister t g = true) (u : State) (n : Nat) :
    afterSrc u n g = u := by
  cases g with
  | mode m =>
    cases m with
    | reg => rfl
    | _ => exact absurd h nofun
  | reserved | idx | idxBad => exact absurd h nofun

theorem sourceWords_plain {u : State} (h : u.ram = true) {a : Access} {g : Gen} (hg : legal a g = true)
    (t : SlaveType) :
    Reaches (sourceWords t g) u fun ws w => ws = sentWords t g (src u t.bytes g) ∧ w = afterSrc u t.bytes g := by
  unfold sourceWords sentWords
  split
  case isTrue hreg => exact Reaches.pure ⟨rfl, (afterSrc_inSlaveRegister hreg u _).symm⟩
  case isFalse =>
    refine Reaches.bind (readOp_plain h hg _) ?_
    rintro _ _ ⟨rfl, rfl⟩
    exact Reaches.pure ⟨rfl, rfl⟩

theorem rmwWords_plain {u : State} (h : u.ram = true) (t : SlaveType) (g : Gen) (l : Loc) :
    Reaches (rmwWords t g l) u fun ws w => ws = sentWords t g (locValue u t.bytes l) ∧ w = u := by
  unfold rmwWords sentWords
  split
  case isTrue => exact Reaches.pure ⟨rfl, rfl⟩
  case isFalse =>
    refine Reaches.bind (readRmw_plain h _ l) ?_
    rintro _ _ ⟨rfl, rfl⟩
    exact Reaches.pure ⟨rfl, rfl⟩

/-! ### The exchange (R520 steps 4 to 7) -/

/-- The broadcast and the operands sent, and the slave's reply. -/
def ask (I : Instr) (ws : List Word) : M SlaveReply := do
  slaveSend 0b11111#5 (broadcastWord I)
  sendAll ws
  slaveAnswer I ws

/-- What the CPU does for a reply when it expects a result of `n` bytes. -/
def onReply (n : Nat) : SlaveReply → M (Option Quad)
  | .done lo hi =>
    if n = 0 then return none
    else do
      slaveRead 0b11101#5 lo
      if n = 8 then
        slaveRead 0b11101#5 hi
        return some (hi ++ lo)
      else return some (lo.setWidth 64)
  | .status sw => do
    statusWord sw
    return none
  | .silent => stop (.fault .slaveSilent)

theorem transact_eq (I : Instr) (ws : List Word) (n : Nat) : transact I ws n = ask I ws >>= onReply n := by
  simp only [transact, ask, bind_assoc]
  rfl

theorem Refers.reaches {α : Type} {m : M α} {u : State} {rs : List Ref} {P : α → State → Prop}
    (h : Refers m u rs P) : Reaches m u P := by
  intro t ht
  obtain ⟨a, u', t', hm, hsim, -, hP⟩ := h t ht
  exact ⟨a, u', t', hm, hsim, hP⟩

theorem slaveSend_refers (st : BitVec 5) (w : Word) (u : State) :
    Refers (slaveSend st w) u [.slaveWrite st w] fun _ u' => u' = u := by
  rintro _ ⟨wb, sc, fc, rf, hw, rfl⟩
  exact ⟨(), u, _, rfl, ⟨wb, sc, fc, _, hw, rfl⟩, rfl, rfl⟩

theorem slaveRead_refers (st : BitVec 5) (w : Word) (u : State) :
    Refers (slaveRead st w) u [.slaveRead st w] fun _ u' => u' = u := by
  rintro _ ⟨wb, sc, fc, rf, hw, rfl⟩
  exact ⟨(), u, _, rfl, ⟨wb, sc, fc, _, hw, rfl⟩, rfl, rfl⟩

theorem sendAll_refers (ws : List Word) (u : State) :
    Refers (sendAll ws) u (ws.map (.slaveWrite 0b11101#5)) fun _ u' => u' = u := by
  induction ws with
  | nil => exact Refers.pure rfl
  | cons w rest ih =>
    refine Refers.bind (slaveSend_refers _ w u) ?_
    rintro _ _ rfl
    exact ih

section Exchange

variable {I : Instr} {ws : List Word} {n : Nat} {u : State} {r : SlaveReply} {rest : List SlaveReply}
  (hr : u.slaveReplies = r :: rest)
include hr

theorem slaveAnswer_refers :
    Refers (slaveAnswer I ws) u [] fun a w => a = r ∧ w = { u with slaveReplies := rest } := by
  rintro _ ⟨wb, sc, fc, rf, hw, rfl⟩
  refine ⟨r, { u with slaveReplies := rest }, State.book { u with slaveReplies := rest } wb sc (fc + 1) rf, ?_,
    ⟨_, _, _, _, hw, rfl⟩, (List.append_nil _).symm, rfl, rfl⟩
  simp only [slaveAnswer, State.book_slaveReplies, hr]
  rfl

/-- The cycles up to the slave's reply (R522, R523). -/
theorem ask_refers :
    Refers (ask I ws) u (sendCycles I ws) fun a w => a = r ∧ w = { u with slaveReplies := rest } := by
  refine Refers.bind (slaveSend_refers _ _ u) ?_
  rintro _ _ rfl
  refine Refers.bind_nil (sendAll_refers ws _) ?_
  rintro _ _ rfl
  exact slaveAnswer_refers hr

theorem transact_refers {rs : List Ref} {P : Option Quad → State → Prop}
    (h : Refers (onReply n r) { u with slaveReplies := rest } rs P) :
    Refers (transact I ws n) u (sendCycles I ws ++ rs) P := by
  rw [transact_eq]
  refine Refers.bind (ask_refers hr) ?_
  rintro _ _ ⟨rfl, rfl⟩
  exact h

theorem transact_reaches {P : Option Quad → State → Prop}
    (h : Reaches (onReply n r) { u with slaveReplies := rest } P) : Reaches (transact I ws n) u P := by
  rw [transact_eq]
  refine Reaches.bind (ask_refers hr).reaches ?_
  rintro _ _ ⟨rfl, rfl⟩
  exact h

theorem transact_stops {e : Stop} {w : State} (h : Stops e (onReply n r) { u with slaveReplies := rest } w) :
    Stops e (transact I ws n) u w := by
  rw [transact_eq]
  refine Reaches.bind_stops (ask_refers hr).reaches ?_
  rintro _ _ ⟨rfl, rfl⟩
  exact h

end Exchange

/-- The cycles that read a result of `n` bytes (R525). -/
def readCycles (n : Nat) (lo hi : Word) : List Ref :=
  if n = 0 then [] else .slaveRead 0b11101#5 lo :: (if n = 8 then [.slaveRead 0b11101#5 hi] else [])

/-- The result of `n` bytes for the CPU, if there is one (R525). -/
def resultOf (n : Nat) (lo hi : Word) : Option Quad := if n = 0 then none else some (slaveResult n lo hi)

theorem readCycles_resultBytes {t : SlaveType} (ht : t.bytes ≠ 0) (g : Gen) (lo hi : Word) :
    readCycles (resultBytes t g) lo hi = resultCycles t g lo hi := by
  unfold readCycles resultBytes resultCycles
  cases inSlaveRegister t g with
  | true => rfl
  | false => exact if_neg ht

/-- The slave is done (R525). -/
theorem onReply_done (n : Nat) (lo hi : Word) (u : State) :
    Refers (onReply n (.done lo hi)) u (readCycles n lo hi) fun a w => a = resultOf n lo hi ∧ w = u := by
  by_cases h0 : n = 0
  · simp only [onReply, readCycles, resultOf, h0, if_true]
    exact Refers.pure ⟨rfl, rfl⟩
  simp only [onReply, readCycles, resultOf, slaveResult, h0, if_false]
  refine Refers.bind (rs' := if n = 8 then [.slaveRead 0b11101#5 hi] else []) (slaveRead_refers _ lo u) ?_
  rintro _ _ rfl
  by_cases h8 : n = 8
  · simp only [h8, if_true]
    refine Refers.bind_nil (slaveRead_refers _ hi _) ?_
    rintro _ _ rfl
    exact Refers.pure ⟨rfl, rfl⟩
  · simp only [h8, if_false]
    exact Refers.pure ⟨rfl, rfl⟩

/-- The status word with Q = 0 (R526, R528). -/
theorem onReply_status (n : Nat) {sw : Word} (hq : sw.getLsbD 0 = false) (u : State) :
    Reaches (onReply n (.status sw)) u fun a w =>
      a = none ∧ w = u.withPsr (setZNL (sw.getLsbD 6) (sw.getLsbD 7) (sw.getLsbD 2)) := by
  have hflags : Reaches (statusWord sw) u fun _ w =>
      w = u.withPsr (setZNL (sw.getLsbD 6) (sw.getLsbD 7) (sw.getLsbD 2)) := by
    refine Reaches.bind (slaveRead_refers _ sw u).reaches ?_
    rintro _ _ rfl
    exact Reaches.of_false (ne_true_of_eq_false hq) (Reaches.updPsr rfl)
  refine Reaches.bind hflags ?_
  rintro _ _ rfl
  exact Reaches.pure ⟨rfl, rfl⟩

/-- The status word with Q = 1 (R526, R528). -/
theorem onReply_traps (n : Nat) {sw : Word} (hq : sw.getLsbD 0 = true) (u : State) :
    Stops (.trap (if sw.getLsbD 1 then .und else .slave)) (onReply n (.status sw)) u u := by
  refine Stops.bind (Reaches.bind_stops (slaveRead_refers _ sw u).reaches ?_)
  rintro _ _ rfl
  rw [if_pos hq]
  exact Stops.stop _

end Sys2Proof.Machine
end

section
/-! SUPPORT. A slave instruction up to its exchange: its checks, its operands, and what it goes on with (R520, R530). -/

namespace Sys2Proof.Machine

/-! ### Checks -/

theorem check_enabled {sh : Shape} {s : State} (h : s.slaveDisabled sh.slave = false) :
    sh.check s = Shape.check { sh with slave := none } s := by
  have hnone : s.slaveDisabled none = false := rfl
  simp only [Shape.check, h, hnone]
  rfl

/-- A slave instruction of an enabled set passes its checks (R242, R521). -/
theorem check_none_slave {sh : Shape} {s : State} (hset : s.slaveDisabled sh.slave = false) (hsize : sh.size ≠ .u)
    (hops : ∀ o ∈ sh.ops, legal o.access o.gen = true) (hpriv : sh.privileged = false ∨ s.flagU = false)
    (hdisp : sh.disp = none) (hres : sh.reserved = none) : sh.check s = none :=
  (check_enabled hset).trans (check_none rfl hsize hops hpriv hdisp hres)

theorem float_enabled {s : State} (h : s.cfgF = true) : s.slaveDisabled (some .float) = false := by
  simp [State.slaveDisabled, h]

theorem custom_enabled {s : State} (h : s.cfgC = true) : s.slaveDisabled (some .custom) = false := by
  simp [State.slaveDisabled, h]

theorem forwardedSize_ne {b : BitVec 2} (h : b ≠ 2#2) : forwardedSize b ≠ .u := by simp [forwardedSize, h]

/-- An operand that may be written may be read and written (R241, R260). -/
theorem legal_rmw_of_write {g : Gen} (h : legal .write g = true) : legal .rmw g = true := by
  cases g with
  | mode m => cases m <;> exact h
  | reserved | idx | idxBad => exact h

/-- An operand that may be written may be read (R241, R260). -/
theorem legal_read_of_write {g : Gen} (h : legal .write g = true) : legal .read g = true := by
  cases g with
  | mode m =>
    cases m with
    | imm v => rfl
    | _ => exact h
  | reserved | idx | idxBad => exact h

/-! ### What is put back after a trap -/

/-- `u` is `s` but for the stack pointers, which popped operands may have moved. -/
def PopsOnly (s u : State) : Prop := ∃ a b, u = { s with sp0 := a, sp1 := b }

theorem PopsOnly.refl (s : State) : PopsOnly s s := ⟨s.sp0, s.sp1, rfl⟩

theorem PopsOnly.trans {s u w : State} (h : PopsOnly s u) (h' : PopsOnly u w) : PopsOnly s w := by
  obtain ⟨_, _, rfl⟩ := h
  obtain ⟨a, b, rfl⟩ := h'
  exact ⟨a, b, rfl⟩

theorem popsOnly_setSp (s : State) (v : Word) : PopsOnly s (s.setSp v) := by
  unfold State.setSp
  split
  · exact ⟨s.sp0, v, rfl⟩
  · exact ⟨v, s.sp1, rfl⟩

theorem popsOnly_afterSrc (s : State) (n : Nat) (g : Gen) : PopsOnly s (afterSrc s n g) := by
  unfold afterSrc
  cases genLoc s g with
  | reg | imm | mem => exact PopsOnly.refl s
  | tos => exact popsOnly_setSp s _

theorem PopsOnly.slaveReplies {s u : State} (h : PopsOnly s u) : u.slaveReplies = s.slaveReplies := by
  obtain ⟨_, _, rfl⟩ := h
  rfl

/-- Suspension keeps the slave's answers and puts the stack pointers back (R602). -/
theorem PopsOnly.suspend {s u : State} (h : PopsOnly s u) (rest : List SlaveReply) (wb sc fc rf) :
    suspend s (State.book { u with slaveReplies := rest } wb sc fc rf)
      = State.book { s with slaveReplies := rest } wb sc fc rf := by
  obtain ⟨_, _, rfl⟩ := h
  rfl

/-! ### The way to the exchange -/

/-- From `s` the actions come to the exchange in `u`, without a slave cycle: `ws` is to be sent, `n` bytes of result are
to be read, and `k` is what follows. -/
def ComesTo (I : Instr) (ws : List Word) (n : Nat) (k : Option Quad → M Done) (m : M Done) (s u : State) : Prop :=
  ∀ t, Sim s t → ∃ t' rs, m t = (transact I ws n >>= k) t' ∧ Sim u t' ∧ t'.refs = t.refs ++ rs ∧ slaveCycles rs = []

section ComesTo

variable {I : Instr} {ws : List Word} {n : Nat} {k : Option Quad → M Done} {u : State}

theorem ComesTo.here : ComesTo I ws n k (transact I ws n >>= k) u u :=
  fun t ht => ⟨t, [], rfl, ht, (List.append_nil _).symm, rfl⟩

theorem ComesTo.bind {α : Type} {m : M α} {f : α → M Done} {s : State} {P : α → State → Prop} (h : Reaches m s P)
    (hq : Quiet m) (hf : ∀ a w, P a w → ComesTo I ws n k (f a) w u) : ComesTo I ws n k (m >>= f) s u := by
  intro t ht
  obtain ⟨a, w, t1, hm, hsim, hP⟩ := h t ht
  obtain ⟨rs, hrs, hnone⟩ := hq t a t1 hm
  obtain ⟨t2, rs', hf', hsim', hrs', hnone'⟩ := hf a w hP t1 hsim
  refine ⟨t2, rs ++ rs', (bind_of_ok hm).trans hf', hsim', by rw [hrs', hrs, List.append_assoc], ?_⟩
  rw [slaveCycles_append, hnone, hnone', List.append_nil]

end ComesTo

/-- The instruction passes its checks in `s` and comes to its exchange in `u`, where `ws` is to be sent and `n` bytes of
result are to be read; with a result it goes on as `k` says, and with none it completes. -/
structure Transacts (I : Instr) (s u : State) (ws : List Word) (n : Nat) (k : Option Quad → M Done) : Prop where
  runs : ∃ sh body, exec I s = run sh body s ∧ (encode I).length = sh.length ∧ sh.check s = none
    ∧ ComesTo I ws n k body s u
  pops : PopsOnly s u
  noResult : k none = pure {}

/-- A result written and the instruction completed, or completed without one (R525). -/
def storing (write : Quad → M Unit) : Option Quad → M Done
  | some v => do
    write v
    return {}
  | none => return {}

section Forms

variable {I : Instr} {set : SlaveSet} {s : State} {t1 t2 : SlaveType} {g1 g2 : Gen} {res : Option Refusal}
  (hs : s.plain = true) (hset : s.slaveDisabled (some set) = false) (hres : res = none)
include hs hset hres

section Two

variable (hlen : (encode I).length = 3 + (g1.length t1.bytes + g2.length t2.bytes)) (h1 : legal .read g1 = true)
include hlen h1

/-- The first operand sent, the second one written with the result. -/
theorem likeMov_transacts {size : Size} (hsize : size ≠ .u) (hexec : exec I s = likeMov size set I res t1 g1 t2 g2 s)
    (h2 : legal .write g2 = true) :
    Transacts I s (afterSrc s t1.bytes g1) (sentWords t1 g1 (src s t1.bytes g1)) (resultBytes t2 g2)
      (storing fun v => writeLoc t2.bytes v (genLoc (afterSrc s t1.bytes g1) g2)) := by
  refine ⟨⟨_, _, hexec, hlen, check_none_slave hset hsize (legal_two h1 h2) (.inl rfl) rfl hres, ?_⟩,
    popsOnly_afterSrc .., rfl⟩
  refine ComesTo.bind (sourceWords_plain (plain_ram hs) h1 t1) (sourceWords_quiet t1 g1) ?_
  rintro _ _ ⟨rfl, rfl⟩
  refine ComesTo.bind (locGen_plain ((afterSrc_ram ..).trans (plain_ram hs)) h2) (locGen_quiet g2) ?_
  rintro _ _ ⟨rfl, rfl⟩
  exact ComesTo.here

/-- Both operands sent, the second one rewritten with the result. -/
theorem likeAdd_transacts (hexec : exec I s = likeAdd set I res t1 g1 t2 g2 s) (h2 : legal .rmw g2 = true) :
    Transacts I s (afterSrc s t1.bytes g1)
      (sentWords t1 g1 (src s t1.bytes g1) ++ sentWords t2 g2 (dest s t1.bytes g1 t2.bytes g2)) (resultBytes t2 g2)
      (storing fun v => writeRmw t2.bytes v (genLoc (afterSrc s t1.bytes g1) g2)) := by
  have hram : (afterSrc s t1.bytes g1).ram = true := (afterSrc_ram ..).trans (plain_ram hs)
  refine ⟨⟨_, _, hexec, hlen, check_none_slave hset nofun (legal_two h1 h2) (.inl rfl) rfl hres, ?_⟩,
    popsOnly_afterSrc .., rfl⟩
  refine ComesTo.bind (sourceWords_plain (plain_ram hs) h1 t1) (sourceWords_quiet t1 g1) ?_
  rintro _ _ ⟨rfl, rfl⟩
  refine ComesTo.bind (locGen_plain hram h2) (locGen_quiet g2) ?_
  rintro _ _ ⟨rfl, rfl⟩
  refine ComesTo.bind (rmwWords_plain hram t2 g2 _) (rmwWords_quiet t2 g2 _) ?_
  rintro _ _ ⟨rfl, rfl⟩
  exact ComesTo.here

/-- Both operands sent, no result for the CPU. -/
theorem likeCmp_transacts (hexec : exec I s = likeCmp set I res t1 g1 t2 g2 s) (h2 : legal .read g2 = true) :
    Transacts I s (afterSrc (afterSrc s t1.bytes g1) t2.bytes g2)
      (sentWords t1 g1 (src s t1.bytes g1) ++ sentWords t2 g2 (dest s t1.bytes g1 t2.bytes g2)) 0
      (fun _ => pure {}) := by
  refine ⟨⟨_, _, hexec, hlen, check_none_slave hset nofun (legal_two h1 h2) (.inl rfl) rfl hres, ?_⟩,
    (popsOnly_afterSrc ..).trans (popsOnly_afterSrc ..), rfl⟩
  refine ComesTo.bind (sourceWords_plain (plain_ram hs) h1 t1) (sourceWords_quiet t1 g1) ?_
  rintro _ _ ⟨rfl, rfl⟩
  refine ComesTo.bind (sourceWords_plain ((afterSrc_ram ..).trans (plain_ram hs)) h2 t2) (sourceWords_quiet t2 g2) ?_
  rintro _ _ ⟨rfl, rfl⟩
  exact ComesTo.here

end Two

/-- An unassigned opcode comes to its exchange whatever its note (R230). -/
theorem slot_transacts {note : SlotNote} {t : SlaveType} (hexec : exec I s = slot note set I res t g1 g2 s)
    (hlen : (encode I).length = 3 + (g1.length t.bytes + g2.length t.bytes)) (h1 : legal .read g1 = true)
    (h2 : legal .write g2 = true) : ∃ u ws n k, Transacts I s u ws n k := by
  cases note with
  | likeMov => exact ⟨_, _, _, _, likeMov_transacts hs hset hres hlen h1 (size := .d) nofun hexec h2⟩
  | likeAdd => exact ⟨_, _, _, _, likeAdd_transacts hs hset hres hlen h1 hexec (legal_rmw_of_write h2)⟩
  | likeCmp => exact ⟨_, _, _, _, likeCmp_transacts hs hset hres hlen h1 hexec (legal_read_of_write h2)⟩

section One

variable {g : Gen} {b : BitVec 2} {priv : Bool} (hlen : (encode I).length = 3 + g.length 4) (hb : b ≠ 2#2)
  (hpriv : priv = false ∨ s.flagU = false)
include hlen hb hpriv

/-- A double-word sent, nothing returned. -/
theorem slaveLoad_transacts (hexec : exec I s = slaveLoad set priv b I res g s) (hg : legal .read g = true) :
    Transacts I s (afterSrc s 4 g) (sentWords (cpuType 4) g (src s 4 g)) 0 (fun _ => pure {}) := by
  refine ⟨⟨_, _, hexec, hlen, check_none_slave hset (forwardedSize_ne hb) (legal_one hg) hpriv rfl hres, ?_⟩,
    popsOnly_afterSrc .., rfl⟩
  refine ComesTo.bind (sourceWords_plain (plain_ram hs) hg (cpuType 4)) (sourceWords_quiet (cpuType 4) g) ?_
  rintro _ _ ⟨rfl, rfl⟩
  exact ComesTo.here

/-- Nothing sent, a double-word returned. -/
theorem slaveStore_transacts (hexec : exec I s = slaveStore set priv b I res g s) (hg : legal .write g = true) :
    Transacts I s s [] 4 (storing fun v => writeLoc 4 v (genLoc s g)) := by
  refine ⟨⟨_, _, hexec, hlen, check_none_slave hset (forwardedSize_ne hb) (legal_one hg) hpriv rfl hres, ?_⟩,
    PopsOnly.refl s, rfl⟩
  refine ComesTo.bind (locGen_plain (plain_ram hs) hg) (locGen_quiet g) ?_
  rintro _ _ ⟨rfl, rfl⟩
  exact ComesTo.here

end One

end Forms

end Sys2Proof.Machine
end

section
/-! PROOF. Slave instructions when the slave is done: what they leave, and their slave cycles (R522, R523, R525, R530
to R579). -/

namespace Sys2Proof.Machine

/-- A double-word sent is the low half of the operand (R523). -/
theorem operandWords_four (v : Quad) : operandWords 4 v = [v.setWidth 32] := by
  have hlow : ((lowBytes 4 v).setWidth 32 : Word) = v.setWidth 32 := by
    rw [lowBytes, BitVec.setWidth_and]
    exact BitVec.and_allOnes
  exact congrArg (fun w => [w]) hlow

/-- An integer operand is no slave register (R530). -/
theorem inSlaveRegister_cpuType (n : Nat) (g : Gen) : inSlaveRegister (cpuType n) g = false := by
  cases g with
  | mode m => cases m <;> rfl
  | reserved | idx | idxBad => rfl

theorem slaveCycles_sent (I : Instr) (ws : List Word) : slaveCycles (sendCycles I ws) = sendCycles I ws := by
  refine List.filter_eq_self.mpr fun r hr => ?_
  obtain rfl | hr := List.mem_cons.mp hr
  · rfl
  · obtain ⟨w, -, rfl⟩ := List.mem_map.mp hr
    rfl

theorem slaveCycles_read (n : Nat) (lo hi : Word) : slaveCycles (readCycles n lo hi) = readCycles n lo hi := by
  unfold readCycles
  split
  · rfl
  · split <;> rfl

theorem storing_quiet {write : Quad → M Unit} (h : ∀ v, Quiet (write v)) (o : Option Quad) :
    Quiet (storing write o) := by
  cases o with
  | none => exact Quiet.pure _
  | some v => exact (h v).bind fun _ => Quiet.pure _

/-- The result of an operand that is no slave register is written, and nothing else (R525, R530). -/
theorem storing_plain {write : Quad → M Unit} {u : State} {f : Quad → State}
    (hw : ∀ v, Reaches (write v) u fun _ w => w = f v) {t : SlaveType} (ht : t.bytes ≠ 0) (g : Gen) (lo hi : Word) :
    Reaches (storing write (resultOf (resultBytes t g) lo hi)) u fun d w =>
      d = {} ∧ w = if inSlaveRegister t g then u else f (slaveResult t.bytes lo hi) := by
  unfold resultOf resultBytes
  cases inSlaveRegister t g with
  | true => exact Reaches.pure ⟨rfl, rfl⟩
  | false =>
    simp only [Bool.false_eq_true, if_false, ht]
    refine Reaches.bind (hw _) ?_
    rintro _ _ rfl
    exact Reaches.pure ⟨rfl, rfl⟩

section Done

variable {I : Instr} {s : State} {lo hi : Word} {rest : List SlaveReply} (hs : s.plain = true)
  (hr : s.slaveReplies = .done lo hi :: rest)
include hs hr

/-- An instruction whose slave is done completes; its slave cycles are those of the exchange. -/
theorem Transacts.completes {u v : State} {ws : List Word} {n : Nat} {k : Option Quad → M Done}
    (h : Transacts I s u ws n k)
    (hk : Reaches (k (resultOf n lo hi)) { u with slaveReplies := rest } fun d w => d = {} ∧ w = v)
    (hq : Quiet (k (resultOf n lo hi))) :
    CompletesSending I s v (sendCycles I ws ++ readCycles n lo hi) := by
  obtain ⟨⟨sh, body, hexec, hlen, hc, hcomes⟩, hpops, -⟩ := h
  -- The actions: up to the exchange, the exchange, and what follows it.
  obtain ⟨t1, rs1, hbody, hsim1, hrs1, hnone1⟩ := hcomes s (Sim.refl (plain_pendingError hs))
  obtain ⟨_, _, t2, htransact, hsim2, hrs2, rfl, rfl⟩ :=
    transact_refers (hpops.slaveReplies.trans hr) (onReply_done n lo hi _) (I := I) (ws := ws) t1 hsim1
  obtain ⟨_, _, t3, hend, hsim3, rfl, rfl⟩ := hk t2 hsim2
  obtain ⟨rs3, hrs3, hnone3⟩ := hq _ _ _ hend
  have hok : body s = .ok {} t3 := hbody.trans ((bind_of_ok htransact).trans hend)
  -- Its completion.
  obtain ⟨t, ht, hagrees⟩ := complete_agrees (s := s) (d := {}) sh.length hsim3 rfl rfl (.inl rfl)
  refine ⟨t, hexec.trans ((run_complete hc hok hsim3.pendingError).trans ht), ?_, ?_⟩
  · rw [nextPc, hlen]
    exact hagrees
  · rw [complete_refs rfl rfl rfl ht, hrs3, hrs2, hrs1, List.append_assoc, List.append_assoc, List.drop_left,
      slaveCycles_append, slaveCycles_append, slaveCycles_append, hnone1, hnone3, slaveCycles_sent, slaveCycles_read,
      List.nil_append, List.append_nil]

section Two

variable {set : SlaveSet} {t1 t2 : SlaveType} {g1 g2 : Gen} {res : Option Refusal}
  (hset : s.slaveDisabled (some set) = false) (hres : res = none)
  (hlen : (encode I).length = 3 + (g1.length t1.bytes + g2.length t2.bytes)) (h1 : legal .read g1 = true)
include hset hres hlen h1

theorem likeMov_completes {size : Size} (hsize : size ≠ .u) (ht : t2.bytes ≠ 0)
    (hexec : exec I s = likeMov size set I res t1 g1 t2 g2 s) (h2 : legal .write g2 = true) :
    CompletesSending I s (slaveMoved s t1 g1 t2 g2 lo hi rest)
      (sendCycles I (sentWords t1 g1 (src s t1.bytes g1)) ++ resultCycles t2 g2 lo hi) := by
  rw [← readCycles_resultBytes ht]
  have hram : (afterSrc s t1.bytes g1).ram = true := (afterSrc_ram ..).trans (plain_ram hs)
  have hwrite (v : Quad) := writeLoc_plain (u := { afterSrc s t1.bytes g1 with slaveReplies := rest }) hram t2.bytes v
    (genLoc_not_imm (u := afterSrc s t1.bytes g1) (by decide : Access.write ≠ .read) h2)
  exact (likeMov_transacts hs hset hres hlen h1 hsize hexec h2).completes hs hr (storing_plain hwrite ht g2 lo hi)
    (storing_quiet (fun v => writeLoc_quiet _ v _) _)

theorem likeAdd_completes (ht : t2.bytes ≠ 0) (hexec : exec I s = likeAdd set I res t1 g1 t2 g2 s)
    (h2 : legal .rmw g2 = true) :
    CompletesSending I s (slaveReplaced s t1 g1 t2 g2 lo hi rest)
      (sendCycles I (sentWords t1 g1 (src s t1.bytes g1) ++ sentWords t2 g2 (dest s t1.bytes g1 t2.bytes g2))
        ++ resultCycles t2 g2 lo hi) := by
  rw [← readCycles_resultBytes ht]
  have hram : (afterSrc s t1.bytes g1).ram = true := (afterSrc_ram ..).trans (plain_ram hs)
  have hwrite (v : Quad) := writeRmw_plain (u := { afterSrc s t1.bytes g1 with slaveReplies := rest }) hram t2.bytes v
    (genLoc_not_imm (u := afterSrc s t1.bytes g1) (by decide : Access.rmw ≠ .read) h2)
  exact (likeAdd_transacts hs hset hres hlen h1 hexec h2).completes hs hr (storing_plain hwrite ht g2 lo hi)
    (storing_quiet (fun v => writeRmw_quiet _ v _) _)

theorem likeCmp_completes (hexec : exec I s = likeCmp set I res t1 g1 t2 g2 s) (h2 : legal .read g2 = true) :
    CompletesSending I s (slaveCompared s t1 g1 t2 g2 rest)
      (sendCycles I (sentWords t1 g1 (src s t1.bytes g1) ++ sentWords t2 g2 (dest s t1.bytes g1 t2.bytes g2))) := by
  have h := (likeCmp_transacts hs hset hres hlen h1 hexec h2).completes hs hr (Reaches.pure ⟨rfl, rfl⟩) (Quiet.pure _)
  exact List.append_nil (sendCycles ..) ▸ h

end Two

section One

variable {set : SlaveSet} {g : Gen} {b : BitVec 2} {priv : Bool} {res : Option Refusal}
  (hset : s.slaveDisabled (some set) = false) (hres : res = none) (hlen : (encode I).length = 3 + g.length 4)
  (hb : b ≠ 2#2) (hpriv : priv = false ∨ s.flagU = false)
include hset hres hlen hb hpriv

theorem slaveLoad_completes (hexec : exec I s = slaveLoad set priv b I res g s) (hg : legal .read g = true) :
    CompletesSending I s { afterSrc s 4 g with slaveReplies := rest }
      [.slaveWrite 0b11111#5 (broadcastWord I), .slaveWrite 0b11101#5 ((src s 4 g).setWidth 32)] := by
  have h := (slaveLoad_transacts hs hset hres hlen hb hpriv hexec hg).completes hs hr (Reaches.pure ⟨rfl, rfl⟩)
    (Quiet.pure _)
  have hsent : sentWords (cpuType 4) g (src s 4 g) = [(src s 4 g).setWidth 32] := by
    unfold sentWords
    rw [if_neg (by simp [inSlaveRegister_cpuType]), cpuType, operandWords_four]
  rw [hsent] at h
  exact h

theorem slaveStore_completes (hexec : exec I s = slaveStore set priv b I res g s) (hg : legal .write g = true) :
    CompletesSending I s (written { s with slaveReplies := rest } 4 (lo.setWidth 64) (genLoc s g))
      [.slaveWrite 0b11111#5 (broadcastWord I), .slaveRead 0b11101#5 lo] := by
  have hwrite (v : Quad) := writeLoc_plain (u := { s with slaveReplies := rest }) (plain_ram hs) 4 v
    (genLoc_not_imm (u := s) (by decide : Access.write ≠ .read) hg)
  refine (slaveStore_transacts hs hset hres hlen hb hpriv hexec hg).completes hs hr (Reaches.bind (hwrite _) ?_)
    (storing_quiet (fun v => writeLoc_quiet _ v _) _)
  rintro _ _ rfl
  exact Reaches.pure ⟨rfl, rfl⟩

end One

end Done

theorem FSize.bytes_ne_zero (f : FSize) : f.bytes ≠ 0 := by cases f <;> decide

theorem CSize.bytes_ne_zero (c : CSize) : c.bytes ≠ 0 := by cases c <;> decide

/-- Settles O51: each instruction is of the MOVf kind, with the types of its two operands. -/
theorem slaveMoves : Obligations.SlaveMoves := by
  intro f c i x g1 g2 s lo hi rest hi' hs h1 h2 hr F C I moves
  have hf : F.bytes ≠ 0 := FSize.bytes_ne_zero f
  have hc : C.bytes ≠ 0 := CSize.bytes_ne_zero c
  have hint : I.bytes ≠ 0 := Nat.one_le_iff_ne_zero.mp (Size.bytes_pos hi')
  have hd : Size.d ≠ .u := nofun
  have hmoves {set : SlaveSet} (hset : s.slaveDisabled (some set) = false) {size : Size} (hsize : size ≠ .u)
      {u : Instr} {t1 t2 : SlaveType} (ht : t2.bytes ≠ 0) (hexec : exec u s = likeMov size set u none t1 g1 t2 g2 s)
      (hlen : (encode u).length = 3 + (g1.length t1.bytes + g2.length t2.bytes)) : moves u t1 t2 :=
    likeMov_completes hs hr hset rfl hlen h1 hsize ht hexec h2
  simp only [List.forall_mem_cons, List.not_mem_nil, false_imp_iff, implies_true, and_true]
  refine ⟨fun hset => ⟨?_, fun hx => ?_⟩, fun hset => ?_, fun hset hx => ?_⟩
  · have hF := float_enabled hset
    refine ⟨hmoves hF hi' hf rfl ?_, hmoves hF hi' hint rfl ?_, hmoves hF hi' hint rfl ?_, hmoves hF hi' hint rfl ?_,
      hmoves hF hd nofun rfl ?_, ?_⟩
    any_goals exact encTwo_length ..
    and_intros
    all_goals exact hmoves hF hd hf rfl (encTwo_length ..)
  · exact hmoves (float_enabled hset) (forwardedSize_ne hx) nofun rfl (encTwo_length ..)
  · have hC := custom_enabled hset
    refine ⟨hmoves hC hi' hc rfl ?_, hmoves hC hi' hint rfl ?_, hmoves hC hi' hint rfl ?_, hmoves hC hi' hint rfl ?_,
      hmoves hC hd nofun rfl ?_, ?_⟩
    any_goals exact encTwo_length ..
    and_intros
    all_goals exact hmoves hC hd hc rfl (encTwo_length ..)
  · exact hmoves (custom_enabled hset) (forwardedSize_ne hx) nofun rfl (encTwo_length ..)

/-- Settles O52: each instruction is of the ADDf kind or of the CMPf kind. -/
theorem slaveArithmetic : Obligations.SlaveArithmetic := by
  intro f c g1 g2 s lo hi rest hs h1 hr F C both replaces compares
  simp only [List.forall_mem_cons, List.not_mem_nil, false_imp_iff, implies_true, and_true]
  refine ⟨fun h2 => ⟨fun hset => ?_, fun hset => ?_⟩, fun h2 => ⟨fun hset => ?_, fun hset => ?_⟩⟩
  · have hF := float_enabled hset
    and_intros
    all_goals exact likeAdd_completes hs hr hF rfl (encTwo_length ..) h1 (FSize.bytes_ne_zero f) rfl h2
  · have hC := custom_enabled hset
    and_intros
    all_goals exact likeAdd_completes hs hr hC rfl (encTwo_length ..) h1 (CSize.bytes_ne_zero c) rfl h2
  · have hF := float_enabled hset
    and_intros
    all_goals exact likeCmp_completes hs hr hF rfl (encTwo_length ..) h1 rfl h2
  · have hC := custom_enabled hset
    and_intros
    all_goals exact likeCmp_completes hs hr hC rfl (encTwo_length ..) h1 rfl h2

/-- Settles O53: each instruction sends one double-word, or reads and writes one. -/
theorem slaveRegisters : Obligations.SlaveRegisters := by
  intro x creg i g s lo hi rest hs hr hx hi' sends stores
  refine ⟨fun hg => ⟨fun hset => ?_, fun hset => ⟨?_, fun hu => ?_⟩⟩,
    fun hg => ⟨fun hset => ?_, fun hset => ⟨?_, fun hu => ?_⟩⟩⟩
  · exact slaveLoad_completes hs hr (float_enabled hset) rfl (enc3_tail1_length ..) hx (.inl rfl) rfl hg
  · exact slaveLoad_completes hs hr (custom_enabled hset) rfl (enc3_tail1_length ..) hx (.inl rfl) rfl hg
  · exact slaveLoad_completes hs hr (custom_enabled hset) rfl (enc3_tail1_length ..) hi' (.inr hu) rfl hg
  · exact slaveStore_completes hs hr (float_enabled hset) rfl (enc3_tail1_length ..) hx (.inl rfl) rfl hg
  · exact slaveStore_completes hs hr (custom_enabled hset) rfl (enc3_tail1_length ..) hx (.inl rfl) rfl hg
  · exact slaveStore_completes hs hr (custom_enabled hset) rfl (enc3_tail1_length ..) hi' (.inr hu) rfl hg

end Sys2Proof.Machine
end

section
/-! PROOF. A slave's status word, and a slave that never answers (R524, R526, R528). -/

namespace Sys2Proof.Machine

/-- A status word with Q = 1 ends the instruction in a trap with everything as it was but for the reply taken; a slave
that does not answer stops the machine (R524, R526, R528, R602). -/
def EndsByReply (I : Instr) (s : State) (r : SlaveReply) (rest : List SlaveReply) : Prop :=
  (∀ sw, r = .status sw → sw.getLsbD 0 = true →
    Goes (exec I s) (Agrees s (entryState false (if sw.getLsbD 1 then 10#8 else 3#8)
      (if sw.getLsbD 1 then setP false s.psr else s.psr) s.pc { s with slaveReplies := rest })))
  ∧ (r = .silent → exec I s = .fault .slaveSilent)

/-- With Q = 0 the instruction loads N, Z and L and leaves the rest as `u` says (R526, R528). -/
def Answers (I : Instr) (s u : State) (r : SlaveReply) (rest : List SlaveReply) : Prop :=
  EndsByReply I s r rest ∧ ∀ sw, r = .status sw → sw.getLsbD 0 = false →
    Completes I s (({ u with slaveReplies := rest } : State).withPsr
      (setZNL (sw.getLsbD 6) (sw.getLsbD 7) (sw.getLsbD 2)))

section Transacts

variable {I : Instr} {s u : State} {ws : List Word} {n : Nat} {k : Option Quad → M Done} {r : SlaveReply}
  {rest : List SlaveReply} (hs : s.plain = true) (hr : s.slaveReplies = r :: rest)
include hs

/-- The exchange stops, and with it the instruction. -/
theorem Transacts.stops {e : Stop} {w : State} (h : Transacts I s u ws n k) (he : Stops e (transact I ws n) u w) :
    ∃ sh body t, exec I s = run sh body s ∧ sh.check s = none ∧ body s = .error e t ∧ Sim w t := by
  obtain ⟨⟨sh, body, hexec, -, hc, hcomes⟩, -, -⟩ := h
  obtain ⟨t1, -, hbody, hsim1, -, -⟩ := hcomes s (Sim.refl (plain_pendingError hs))
  obtain ⟨t2, herr, hsim2⟩ := he.bind (k := k) t1 hsim1
  exact ⟨sh, body, t2, hexec, hc, hbody.trans herr, hsim2⟩

include hr

/-- A trap from the exchange leaves nothing of the instruction but the slave's answer taken (R602, R620). -/
theorem Transacts.traps (h : Transacts I s u ws n k) {kind : TrapKind}
    (he : ∀ w, Stops (.trap kind) (onReply n r) w w) :
    Goes (exec I s) (Agrees s (entryState false kind.vector (entryCopy kind.clearsP s.psr) s.pc
      { s with slaveReplies := rest })) := by
  obtain ⟨sh, body, t, hexec, hc, herr, wb, sc, fc, rf, hw, rfl⟩ :=
    h.stops hs (transact_stops (h.pops.slaveReplies.trans hr) (he _))
  have htrap : exec I s = takeTrap s kind (State.book { s with slaveReplies := rest } wb sc fc rf) := by
    simp only [hexec, run, finish, checked, hc, herr, h.pops.suspend]
  have hp : (State.book { s with slaveReplies := rest } wb sc fc rf).pendingError = false := hw
  have hagrees : Agrees s { s with slaveReplies := rest } (State.book { s with slaveReplies := rest } wb sc fc rf) :=
    ⟨rfl, rfl, fun _ => ⟨rfl, rfl⟩⟩
  rw [htrap, takeTrap, enterException, if_neg (ne_true_of_eq_false hp)]
  exact hagrees.takeException (plain_ram hs) rfl hp ..

/-- A status word with Q = 1, and no answer at all (R524, R526). -/
theorem Transacts.ends (h : Transacts I s u ws n k) : EndsByReply I s r rest := by
  refine ⟨?_, ?_⟩
  · rintro sw rfl hq
    have htraps := h.traps hs hr (onReply_traps n hq)
    cases hb : sw.getLsbD 1 <;> rw [hb] at htraps <;> exact htraps
  · rintro rfl
    obtain ⟨sh, body, t, hexec, hc, herr, -⟩ :=
      h.stops hs (transact_stops (h.pops.slaveReplies.trans hr) (Stops.stop (e := .fault .slaveSilent) _))
    simp only [hexec, run, finish, checked, hc, herr]

/-- A status word with Q = 0 loads the flags, and no result is stored (R526, R528). -/
theorem Transacts.answers (h : Transacts I s u ws n k) : Answers I s u r rest := by
  refine ⟨h.ends hs hr, ?_⟩
  rintro sw rfl hq
  obtain ⟨⟨sh, body, hexec, hlen, hc, hcomes⟩, hpops, hend⟩ := h
  refine completes_of_reaches hexec hlen hs hc fun t ht => ?_
  obtain ⟨t1, -, hbody, hsim1, -, -⟩ := hcomes t ht
  obtain ⟨_, _, t2, htransact, hsim2, rfl, rfl⟩ :=
    transact_reaches (hpops.slaveReplies.trans hr) (onReply_status n hq _) (I := I) (ws := ws) t1 hsim1
  refine ⟨{}, _, t2, hbody.trans ((bind_of_ok htransact).trans ?_), hsim2, rfl, rfl⟩
  rw [hend]
  rfl

end Transacts

section Forms

variable {set : SlaveSet} {s : State} {r : SlaveReply} {rest : List SlaveReply} {g1 g2 : Gen} (hs : s.plain = true)
  (hr : s.slaveReplies = r :: rest) (hset : s.slaveDisabled (some set) = false) (h1 : legal .read g1 = true)
include hs hr hset h1

theorem likeCmp_answers (h2 : legal .read g2 = true) (t : SlaveType) {I : Instr}
    (hexec : exec I s = likeCmp set I none t g1 t g2 s)
    (hlen : (encode I).length = 3 + (g1.length t.bytes + g2.length t.bytes)) :
    Answers I s (afterSrc (afterSrc s t.bytes g1) t.bytes g2) r rest :=
  (likeCmp_transacts hs hset rfl hlen h1 hexec h2).answers hs hr

section Writes

variable (h2 : legal .write g2 = true)
include h2

theorem likeAdd_answers (t : SlaveType) {I : Instr} (hexec : exec I s = likeAdd set I none t g1 t g2 s)
    (hlen : (encode I).length = 3 + (g1.length t.bytes + g2.length t.bytes)) :
    Answers I s (afterSrc s t.bytes g1) r rest :=
  (likeAdd_transacts hs hset rfl hlen h1 hexec (legal_rmw_of_write h2)).answers hs hr

theorem likeMov_answers (t1 t2 : SlaveType) {size : Size} (hsize : size ≠ .u) {I : Instr}
    (hexec : exec I s = likeMov size set I none t1 g1 t2 g2 s)
    (hlen : (encode I).length = 3 + (g1.length t1.bytes + g2.length t2.bytes)) :
    Answers I s (afterSrc s t1.bytes g1) r rest :=
  (likeMov_transacts hs hset rfl hlen h1 hsize hexec h2).answers hs hr

theorem slot_ends {note : SlotNote} (t : SlaveType) {I : Instr} (hexec : exec I s = slot note set I none t g1 g2 s)
    (hlen : (encode I).length = 3 + (g1.length t.bytes + g2.length t.bytes)) : EndsByReply I s r rest := by
  obtain ⟨_, _, _, _, h⟩ := slot_transacts hs hset rfl hexec hlen h1 h2
  exact h.ends hs hr

end Writes

end Forms

/-- Settles O55: every slave instruction comes to its exchange with no more than its operands read, and without a
result it does nothing more. -/
theorem slaveStatus : Obligations.SlaveStatus := by
  intro f c i x creg ci op g1 g2 s r rest hs hi hr ends answers after1
  have hd : Size.d ≠ .u := nofun
  simp only [List.forall_mem_cons, List.not_mem_nil, false_imp_iff, implies_true, and_true]
  refine ⟨fun h1 h2 => ⟨fun hset => ?_, fun hset => ?_⟩, fun h1 h2 => ⟨fun hset => ?_, fun hset => ?_⟩,
    fun hx hci => ⟨fun h1 => ⟨fun hset => ?_, fun hset => ⟨?_, fun hu => ?_⟩⟩,
      fun h2 => ⟨fun hset => ?_, fun hset => ⟨?_, fun hu => ?_⟩⟩⟩⟩
  · have hF := float_enabled hset
    have cmp {I : Instr} := likeCmp_answers hs hr hF h1 h2 (slaveType f.bytes) (I := I)
    refine ⟨cmp rfl ?_, cmp rfl ?_, cmp rfl ?_, cmp rfl ?_, cmp rfl ?_⟩
    all_goals exact encTwo_length ..
  · have hC := custom_enabled hset
    have cmp {I : Instr} := likeCmp_answers hs hr hC h1 h2 (slaveType c.bytes) (I := I)
    refine ⟨cmp rfl ?_, cmp rfl ?_⟩
    all_goals exact encTwo_length ..
  · have hF := float_enabled hset
    have add {I : Instr} := likeAdd_answers hs hr hF h1 h2 (slaveType f.bytes) (I := I)
    have mov {I : Instr} := likeMov_answers hs hr hF h1 h2 (slaveType f.bytes) (slaveType f.bytes) hd (I := I)
    have toInt {I : Instr} := likeMov_answers hs hr hF h1 h2 (slaveType f.bytes) (cpuType i.bytes) hi (I := I)
    refine ⟨⟨add rfl ?_, add rfl ?_, add rfl ?_, add rfl ?_, add rfl ?_, add rfl ?_, add rfl ?_,
        mov rfl ?_, mov rfl ?_, mov rfl ?_, mov rfl ?_, mov rfl ?_, mov rfl ?_, mov rfl ?_, mov rfl ?_,
        toInt rfl ?_, toInt rfl ?_, toInt rfl ?_⟩,
      likeMov_answers hs hr hF h1 h2 (cpuType i.bytes) (slaveType f.bytes) hi rfl ?_,
      likeMov_answers hs hr hF h1 h2 (slaveType 8) (slaveType 4) hd rfl ?_,
      fun hx => likeMov_answers hs hr hF h1 h2 (slaveType 4) (slaveType 8) (forwardedSize_ne hx) rfl ?_,
      slot_ends hs hr hF h1 h2 (slaveType f.bytes) rfl ?_⟩
    all_goals exact encTwo_length ..
  · have hC := custom_enabled hset
    have add {I : Instr} := likeAdd_answers hs hr hC h1 h2 (slaveType c.bytes) (I := I)
    have mov {I : Instr} := likeMov_answers hs hr hC h1 h2 (slaveType c.bytes) (slaveType c.bytes) hd (I := I)
    have toInt {I : Instr} := likeMov_answers hs hr hC h1 h2 (slaveType c.bytes) (cpuType i.bytes) hi (I := I)
    refine ⟨⟨add rfl ?_, add rfl ?_, add rfl ?_, add rfl ?_, mov rfl ?_, mov rfl ?_, mov rfl ?_, mov rfl ?_,
        toInt rfl ?_, toInt rfl ?_, toInt rfl ?_⟩,
      likeMov_answers hs hr hC h1 h2 (cpuType i.bytes) (slaveType c.bytes) hi rfl ?_,
      likeMov_answers hs hr hC h1 h2 (slaveType 8) (cpuType 4) hd rfl ?_,
      fun hx => likeMov_answers hs hr hC h1 h2 (cpuType 4) (slaveType 8) (forwardedSize_ne hx) rfl ?_,
      slot_ends hs hr hC h1 h2 (slaveType c.bytes) rfl ?_⟩
    all_goals exact encTwo_length ..
  · have hF := float_enabled hset
    exact Transacts.answers hs hr (slaveLoad_transacts hs hF rfl (enc3_tail1_length ..) hx (.inl rfl) rfl h1)
  · have hC := custom_enabled hset
    exact Transacts.answers hs hr (slaveLoad_transacts hs hC rfl (enc3_tail1_length ..) hx (.inl rfl) rfl h1)
  · have hC := custom_enabled hset
    exact Transacts.answers hs hr (slaveLoad_transacts hs hC rfl (enc3_tail1_length ..) hci (.inr hu) rfl h1)
  · have hF := float_enabled hset
    exact Transacts.answers hs hr (slaveStore_transacts hs hF rfl (enc3_tail1_length ..) hx (.inl rfl) rfl h2)
  · have hC := custom_enabled hset
    exact Transacts.answers hs hr (slaveStore_transacts hs hC rfl (enc3_tail1_length ..) hx (.inl rfl) rfl h2)
  · have hC := custom_enabled hset
    exact Transacts.answers hs hr (slaveStore_transacts hs hC rfl (enc3_tail1_length ..) hci (.inr hu) rfl h2)

end Sys2Proof.Machine
end

section
/-! PROOF. A slave instruction of a disabled set: Trap (UND), whose first reference is the push of the PSR copy (R521,
R628, R641). -/

namespace Sys2Proof.Machine

theorem Goes.and {o : Out} {p q : State → Prop} (hp : Goes o p) (hq : Goes o q) : Goes o fun t => p t ∧ q t := by
  obtain ⟨t, ht, hpt⟩ := hp
  obtain ⟨t', ht', hqt⟩ := hq
  obtain rfl : t = t' := Host.Outcome.next.inj (ht.symm.trans ht')
  exact ⟨t, ht, hpt, hqt⟩

theorem readSound_of_ram {u : State} (h : u.ram = true) : ReadSound u := by
  obtain ⟨-, hcache, hreplies⟩ := ram_parts h
  exact ⟨hcache, hreplies, fun a => (ram_region h a).1, fun a => (regionAt_ok (ram_parts h).1 a).2.1⟩

theorem writeSound_of_ram {u : State} (h : u.ram = true) (a : Word) (n : Nat) : WriteSound u.platform a n :=
  anyFrom_false (fun x => (regionAt_ok (ram_parts h).1 x).2.2) a n

/-- The service sequence is the push of the PSR copy and actions that make no slave cycle (R641). -/
theorem service_quiet (v : Byte) (copy : Half) (ret : Word) {s : State} :
    ∃ k : M Unit, service v copy ret s = (push 2 (copy.setWidth 64) >>= fun _ => k) s ∧ Quiet k := by
  have hpc (x : Word) : Quiet (upd fun s => { s with pc := x }) := Quiet.upd fun _ => rfl
  have hmod (x : Half) : Quiet (upd fun s => { s with mod := x }) := Quiet.upd fun _ => rfl
  have hsb (x : Word) : Quiet (upd fun s => { s with sb := x }) := Quiet.upd fun _ => rfl
  have hlast : Quiet (do push 4 (ret.setWidth 64); serialize) := (push_quiet 4 _).bind fun _ => serialize_quiet
  refine ⟨_, rfl, Quiet.getS.bind fun _ => Quiet.ite ((setSp_quiet _).bind fun _ => ?_)
    ((push_quiet 2 _).bind fun _ => ?_)⟩
  all_goals
    refine (memRead32_quiet _).bind fun entry => Quiet.ite ((hpc entry).bind fun _ => hlast) ?_
    exact (hmod _).bind fun _ => (memRead32_quiet _).bind fun _ => (hpc _).bind fun _ =>
      (memRead32_quiet _).bind fun _ => (hsb _).bind fun _ => hlast

/-- The references of an exception taken: first the push of the PSR copy, and no slave cycle. -/
theorem takeException_refs {s : State} (hs : s.plain = true) (clearP clearI : Bool) (v : Byte) (ret : Word) :
    Goes (takeException clearP clearI (pure v) ret s) fun t =>
      ∃ rs, t.refs = s.refs ++ dataRef (s.sp0 - 2#32) 2 true false ((entryCopy clearP s.psr).setWidth 64) :: rs
        ∧ slaveCycles rs = [] := by
  generalize hcopy : entryCopy clearP s.psr = copy
  generalize hu : ({ s with psr := entryPsr clearI copy } : State) = u
  have hram : u.ram = true := hu ▸ plain_ram hs
  have hsim : Sim u u := hu ▸ Sim.refl (plain_pendingError hs)
  have hsp : u.sp = s.sp0 := hu ▸ sp_supervisor (entryPsr_clears clearI copy (k := 9) (by decide))
  have huser : u.flagU = false := hu ▸ entryPsr_clears clearI copy (k := 8) (by decide)
  have hrefs : u.refs = s.refs := hu ▸ rfl
  obtain ⟨_, _, t, hservice, -, -⟩ := service_plain (plain_ram hs) clearI v copy ret u (hu ▸ hsim)
  obtain ⟨k, hk, hquiet⟩ := service_quiet v copy ret (s := u)
  obtain ⟨_, _, t1, hpush, -, hrs1, -⟩ :=
    push_sound (readSound_of_ram hram) (writeSound_of_ram hram _ 2) (copy.setWidth 64) u hsim
  obtain ⟨rs, hrs, hnone⟩ := hquiet t1 _ t ((bind_of_ok hpush).symm.trans (hk.symm.trans hservice))
  have hrun : entryRun clearP clearI (pure v) ret s = .ok () t := by
    subst hu hcopy
    exact hservice
  refine ⟨_, takeException_ok hrun, rs, ?_, hnone⟩
  change t.refs = _
  rw [hrs, hrs1, hrefs, hsp, huser, List.append_assoc]
  rfl

/-- A trap that a check takes comes before any action of the instruction (R242, R620). -/
theorem trapsAtOnce_of_check {I : Instr} {sh : Shape} {body : M Done} {s : State} {k : TrapKind} (hs : s.plain = true)
    (hexec : exec I s = run sh body s) (hc : sh.check s = some (.trap k)) : TrapsAtOnce I s k := by
  have htrap : exec I s = takeException k.clearsP false (pure k.vector) s.pc s := by
    have hrun : exec I s = takeTrap s k s := by
      simp only [hexec, run, finish, checked, hc]
      rfl
    rw [hrun, takeTrap, enterException, if_neg (ne_true_of_eq_false (plain_pendingError hs))]
    rfl
  unfold TrapsAtOnce
  rw [htrap]
  refine ((takeException_agrees hs ..).and (takeException_refs hs ..)).mono ?_
  rintro t ⟨hagrees, rs, hrs, hnone⟩
  refine ⟨hagrees, ?_, ?_⟩
  · rw [hrs, List.drop_left]
    exact hnone
  · rw [hrs, List.drop_left]
    rfl

section Disabled

variable {set : SlaveSet} {s : State} (hs : s.plain = true) (hset : s.slaveDisabled (some set) = true)
include hs hset

/-- Of the checks the one of the slave set is the first (R242, R521). -/
theorem trapsAtOnce_of_disabled {I : Instr} {sh : Shape} {body : M Done} (hslave : sh.slave = some set)
    (hexec : exec I s = run sh body s) : TrapsAtOnce I s .und :=
  trapsAtOnce_of_check hs hexec (by rw [Shape.check, hslave, if_pos hset])

theorem slot_trapsAtOnce {note : SlotNote} {I : Instr} {r : Option Refusal} {t : SlaveType} {g1 g2 : Gen}
    (hexec : exec I s = slot note set I r t g1 g2 s) : TrapsAtOnce I s .und := by
  cases note with
  | likeMov | likeAdd | likeCmp => exact trapsAtOnce_of_disabled hs hset rfl hexec

end Disabled

/-- Settles O56: each instruction is its checks and its actions, and the check of its set is the first. -/
theorem slaveDisabled : Obligations.SlaveDisabled := by
  intro f c i x p q op ci g1 g2 s hs
  simp only [List.forall_mem_cons, List.not_mem_nil, false_imp_iff, implies_true, and_true]
  refine ⟨fun h => ?_, fun h => ?_⟩
  · have hF : s.slaveDisabled (some .float) = true := by simp [State.slaveDisabled, h]
    and_intros
    any_goals exact trapsAtOnce_of_disabled hs hF rfl rfl
    exact slot_trapsAtOnce hs hF rfl
  · have hC : s.slaveDisabled (some .custom) = true := by simp [State.slaveDisabled, h]
    and_intros
    any_goals exact trapsAtOnce_of_disabled hs hC rfl rfl
    exact slot_trapsAtOnce hs hC rfl

end Sys2Proof.Machine
end

section
/-! SUPPORT. Displacements, immediates and addressing modes, encoded and parsed: each parser answers what the encoder gave
and leaves the bytes after it, and what a parser took is what the encoder gives (R180, R190, R200 to R206). -/

namespace Sys2Proof

/-! ### Displacements and immediates -/

/-- The first byte of a displacement: its top bits say the length, the others begin the value (R200). -/
theorem firstByte_d7 (v : BitVec 7) :
    (0#1 ++ v : Byte).getLsbD 7 = false ∧ (0#1 ++ v : Byte).extractLsb' 0 7 = v := by revert v; decide

theorem firstByte_d14 (v : BitVec 6) : (0b10#2 ++ v : Byte).getLsbD 7 = true ∧ (0b10#2 ++ v : Byte).getLsbD 6 = false
    ∧ (0b10#2 ++ v : Byte).extractLsb' 0 6 = v := by revert v; decide

theorem firstByte_d30 (v : BitVec 6) : (0b11#2 ++ v : Byte).getLsbD 7 = true ∧ (0b11#2 ++ v : Byte).getLsbD 6 = true
    ∧ (0b11#2 ++ v : Byte).extractLsb' 0 6 = v := by revert v; decide

theorem firstByte_cases (b : Byte) : (b.getLsbD 7 = false → 0#1 ++ b.extractLsb' 0 7 = b)
    ∧ (b.getLsbD 7 = true → b.getLsbD 6 = false → 0b10#2 ++ b.extractLsb' 0 6 = b)
    ∧ (b.getLsbD 7 = true → b.getLsbD 6 = true → 0b11#2 ++ b.extractLsb' 0 6 = b) := by revert b; decide

theorem parseDisp_short {b : Byte} (h7 : b.getLsbD 7 = false) (r : List Byte) :
    parseDisp (b :: r) = .ok (.d7 (b.extractLsb' 0 7), r) := by
  rw [parseDisp.eq_def]
  simp only [h7, beq_self_eq_true, if_true]

theorem parseDisp_middle {b0 : Byte} (h7 : b0.getLsbD 7 = true) (h6 : b0.getLsbD 6 = false) (b1 : Byte)
    (r : List Byte) : parseDisp (b0 :: b1 :: r) = .ok (.d14 (b0.extractLsb' 0 6 ++ b1), r) := by
  rw [parseDisp.eq_def]
  simp only [h7, h6, beq_self_eq_true, if_true, beq_false, Bool.not_true, Bool.false_eq_true, if_false]

theorem parseDisp_long {b0 : Byte} (h7 : b0.getLsbD 7 = true) (h6 : b0.getLsbD 6 = true) (b1 b2 b3 : Byte)
    (r : List Byte) :
    parseDisp (b0 :: b1 :: b2 :: b3 :: r) = .ok (.d30 (b0.extractLsb' 0 6 ++ b1 ++ b2 ++ b3), r) := by
  rw [parseDisp.eq_def]
  simp only [h7, h6, beq_false, Bool.not_true, Bool.false_eq_true, if_false]

theorem parseDisp_encode (d : Disp) (r : List Byte) : parseDisp (d.encode ++ r) = .ok (d, r) := by
  cases d with
  | d7 v =>
    obtain ⟨h7, hv⟩ := firstByte_d7 v
    exact (parseDisp_short h7 r).trans (by rw [hv])
  | d14 v =>
    obtain ⟨h7, h6, hv⟩ := firstByte_d14 (v.extractLsb' 8 6)
    have hall : v.extractLsb' 8 6 ++ v.extractLsb' 0 8 = v := BitVec.extractLsb'_append_extractLsb'
    exact (parseDisp_middle h7 h6 _ r).trans (by rw [hv, hall])
  | d30 v =>
    obtain ⟨h7, h6, hv⟩ := firstByte_d30 (v.extractLsb' 24 6)
    have hall : v.extractLsb' 24 6 ++ v.extractLsb' 16 8 ++ v.extractLsb' 8 8 ++ v.extractLsb' 0 8 = v := by
      ext k hk
      simp [BitVec.getElem_append]
      grind
    exact (parseDisp_long h7 h6 _ _ _ r).trans (by rw [hv, hall])

/-- The bytes of a long displacement are the parts of its value (R200). -/
theorem longParts (b0 : BitVec 6) (b1 b2 b3 : Byte) :
    (b0 ++ b1 ++ b2 ++ b3).extractLsb' 24 6 = b0 ∧ (b0 ++ b1 ++ b2 ++ b3).extractLsb' 16 8 = b1
      ∧ (b0 ++ b1 ++ b2 ++ b3).extractLsb' 8 8 = b2 ∧ (b0 ++ b1 ++ b2 ++ b3).extractLsb' 0 8 = b3 := by
  refine ⟨?_, ?_, ?_, ?_⟩
  all_goals
    ext k hk
    simp [BitVec.getLsbD_append]
    grind

theorem encode_parseDisp {bs r : List Byte} {d : Disp} (h : parseDisp bs = .ok (d, r)) : d.encode ++ r = bs := by
  match bs with
  | [] => cases h
  | b0 :: rest =>
    obtain ⟨hd7, hd14, hd30⟩ := firstByte_cases b0
    cases h7 : b0.getLsbD 7 with
    | false =>
      rw [parseDisp_short h7] at h
      cases h
      simp [Disp.encode, hd7 h7]
    | true =>
      cases h6 : b0.getLsbD 6 with
      | false =>
        match rest with
        | [] =>
          rw [parseDisp.eq_def] at h
          simp only [h7, h6] at h
          cases h
        | b1 :: r' =>
        cases (parseDisp_middle h7 h6 b1 r').symm.trans h
        have e1 : (b0.extractLsb' 0 6 ++ b1).extractLsb' 8 6 = b0.extractLsb' 0 6 := BitVec.extractLsb'_append_eq_left
        have e0 : (b0.extractLsb' 0 6 ++ b1).extractLsb' 0 8 = b1 := BitVec.extractLsb'_append_eq_right
        simp [Disp.encode, e1, e0, hd14 h7 h6]
      | true =>
        match rest with
        | [] | [_] | [_, _] =>
          rw [parseDisp.eq_def] at h
          simp only [h7, h6] at h
          cases h
        | b1 :: b2 :: b3 :: r' =>
        cases (parseDisp_long h7 h6 b1 b2 b3 r').symm.trans h
        obtain ⟨e3, e2, e1, e0⟩ := longParts (b0.extractLsb' 0 6) b1 b2 b3
        simp [Disp.encode, e3, e2, e1, e0, hd30 h7 h6]

/-- The bytes above the `n` that an immediate still takes are those of the accumulator (R206). -/
theorem encode_parseImm {n : Nat} (hn : n ≤ 8) {acc v : Quad} {bs r : List Byte}
    (h : parseImm n acc bs = .ok (v, r)) :
    encodeImm n v ++ r = bs ∧ v >>> (8 * n) = (acc <<< (8 * n)) >>> (8 * n) := by
  induction n generalizing acc bs with
  | zero =>
    cases h
    simp [encodeImm]
  | succ n ih =>
    cases bs with
    | nil => cases h
    | cons b bs =>
      obtain ⟨hbytes, htop⟩ := ih (by omega) h
      have hbyte : (v >>> (8 * n)).setWidth 8 = b := by
        rw [htop]
        ext k hk
        simp
        grind
      refine ⟨by rw [encodeImm, hbyte, List.cons_append, hbytes], ?_⟩
      rw [Nat.mul_succ, BitVec.shiftRight_add, htop]
      ext k hk
      simp
      grind

/-- The accumulator holds the bytes read so far: those of `v` above the `n` that follow. -/
theorem parseImm_encode (n : Nat) (v : Quad) (r : List Byte) :
    parseImm n (v >>> (8 * n)) (encodeImm n v ++ r) = .ok (v, r) := by
  induction n with
  | zero => simp [parseImm, encodeImm]
  | succ n ih =>
    have hstep : ((v >>> (8 * (n + 1))) <<< 8) ||| ((v >>> (8 * n)).setWidth 8).setWidth 64 = v >>> (8 * n) := by
      ext k hk
      simp
      grind
    rw [encodeImm, List.cons_append, parseImm, hstep, ih]

/-! ### Modes -/

theorem regCode_parts (n : RegNum) : (0b00#2 ++ n : BitVec 5).extractLsb' 3 2 = 0b00#2
    ∧ (0b00#2 ++ n : BitVec 5).extractLsb' 0 3 = n ∧ (0b01#2 ++ n : BitVec 5).extractLsb' 3 2 = 0b01#2
    ∧ (0b01#2 ++ n : BitVec 5).extractLsb' 0 3 = n := by revert n; decide

theorem regCode_of_parts (c : BitVec 5) : (c.extractLsb' 3 2 = 0b00#2 → 0b00#2 ++ c.extractLsb' 0 3 = c)
    ∧ (c.extractLsb' 3 2 = 0b01#2 → 0b01#2 ++ c.extractLsb' 0 3 = c) := by revert c; decide

theorem ext1_encode (k : Disp → Mode) (d : Disp) (r : List Byte) : ext1 k (d.encode ++ r) = .ok (k d, r) := by
  rw [ext1, parseDisp_encode]

theorem ext2_encode (k : Disp → Disp → Mode) (d1 d2 : Disp) (r : List Byte) :
    ext2 k (d1.encode ++ d2.encode ++ r) = .ok (k d1 d2, r) := by
  rw [ext2, List.append_assoc, parseDisp_encode]
  exact ext1_encode _ _ _

theorem parseMode_reg {n : Nat} {c : BitVec 5} (h : c.extractLsb' 3 2 = 0b00#2) (bs : List Byte) :
    parseMode n c bs = .ok (.reg (c.extractLsb' 0 3), bs) := by
  unfold parseMode
  rw [if_pos (by simp [h])]

theorem parseMode_regRel {n : Nat} {c : BitVec 5} (h : c.extractLsb' 3 2 = 0b01#2) (bs : List Byte) :
    parseMode n c bs = ext1 (.regRel (c.extractLsb' 0 3)) bs := by
  unfold parseMode
  rw [if_neg (by simp [h]), if_pos (by simp [h])]

theorem parseMode_encode {n : Nat} {m : Mode} (h : m.wf n = true) (r : List Byte) :
    parseMode n m.code (m.extBytes n ++ r) = .ok (m, r) := by
  cases m with
  | reg k =>
    obtain ⟨h2, h3, -, -⟩ := regCode_parts k
    rw [Mode.code, parseMode_reg h2, h3]
    rfl
  | regRel k d =>
    obtain ⟨-, -, h2, h3⟩ := regCode_parts k
    rw [Mode.code, parseMode_regRel h2, h3]
    exact ext1_encode _ d r
  | memRel p d1 d2 => cases p <;> simp [parseMode, Mode.code, Mode.extBytes, ext2_encode, ← List.append_assoc]
  | imm v =>
    have hv : v >>> (8 * n) = 0#64 := by
      have hlt : v.toNat < 256 ^ n := by simpa [Mode.wf] using h
      apply BitVec.eq_of_toNat_eq
      rw [BitVec.toNat_ushiftRight, Nat.shiftRight_eq_div_pow, Nat.pow_mul]
      exact Nat.div_eq_of_lt hlt
    have hok := parseImm_encode n v r
    rw [hv] at hok
    simp [parseMode, Mode.code, Mode.extBytes, hok]
  | abs d => simp [parseMode, Mode.code, Mode.extBytes, ext1_encode]
  | ext d1 d2 => simp [parseMode, Mode.code, Mode.extBytes, ext2_encode, ← List.append_assoc]
  | tos => simp [parseMode, Mode.code, Mode.extBytes]
  | space p d => cases p <;> simp [parseMode, Mode.code, Mode.extBytes, ext1_encode]

theorem encode_ext1 {n : Nat} {k : Disp → Mode} {bs r : List Byte} {m : Mode} {c : BitVec 5}
    (hk : ∀ d, (k d).code = c ∧ (k d).extBytes n = d.encode) (h : ext1 k bs = .ok (m, r)) :
    m.code = c ∧ m.extBytes n ++ r = bs := by
  unfold ext1 at h
  split at h <;> cases h
  next d hd =>
  obtain ⟨hc, he⟩ := hk d
  exact ⟨hc, he ▸ encode_parseDisp hd⟩

theorem encode_ext2 {n : Nat} {k : Disp → Disp → Mode} {bs r : List Byte} {m : Mode} {c : BitVec 5}
    (hk : ∀ d1 d2, (k d1 d2).code = c ∧ (k d1 d2).extBytes n = d1.encode ++ d2.encode)
    (h : ext2 k bs = .ok (m, r)) : m.code = c ∧ m.extBytes n ++ r = bs := by
  unfold ext2 at h
  split at h
  next d1 r1 hd1 =>
    unfold ext1 at h
    split at h <;> cases h
    next d2 hd2 =>
    obtain ⟨hc, he⟩ := hk d1 d2
    exact ⟨hc, by rw [he, List.append_assoc, encode_parseDisp hd2, encode_parseDisp hd1]⟩
  · cases h

theorem tosCode (c : BitVec 5) (h2 : c.extractLsb' 3 2 ≠ 0b00#2) (h3 : c.extractLsb' 3 2 ≠ 0b01#2)
    (hbad : badBase c = false)
    (hc : c ∉ [0b10000#5, 0b10001#5, 0b10010#5, 0b10100#5, 0b10101#5, 0b10110#5, 0b11000#5, 0b11001#5, 0b11010#5,
      0b11011#5]) : c = 0b10111#5 := by revert c; decide

/-- A mode code that parses is the code of the mode, 10011 and 111xx aside (R190). -/
theorem encode_parseMode {n : Nat} (hn : n ≤ 8) {c : BitVec 5} (hbad : badBase c = false) {bs r : List Byte}
    {m : Mode} (h : parseMode n c bs = .ok (m, r)) : m.code = c ∧ m.extBytes n ++ r = bs := by
  by_cases h0 : c.extractLsb' 3 2 = 0b00#2
  · cases (parseMode_reg h0 bs).symm.trans h
    exact ⟨(regCode_of_parts c).1 h0, rfl⟩
  by_cases h1 : c.extractLsb' 3 2 = 0b01#2
  · rw [parseMode_regRel h1] at h
    exact encode_ext1 (k := .regRel (c.extractLsb' 0 3)) (fun _ => ⟨(regCode_of_parts c).2 h1, rfl⟩) h
  unfold parseMode at h
  rw [if_neg (by simpa using h0), if_neg (by simpa using h1)] at h
  split at h
  case h_1 | h_2 | h_3 | h_6 => exact encode_ext2 (fun _ _ => ⟨rfl, rfl⟩) h
  case h_5 | h_7 | h_8 | h_9 | h_10 => exact encode_ext1 (fun _ => ⟨rfl, rfl⟩) h
  case h_4 =>
    split at h <;> cases h
    next hv => exact ⟨rfl, (encode_parseImm hn hv).1⟩
  case h_11 =>
    cases h
    exact ⟨(tosCode c h0 h1 hbad (by simpa using ⟨‹_›, ‹_›, ‹_›, ‹_›, ‹_›, ‹_›, ‹_›, ‹_›, ‹_›, ‹_›⟩)).symm, rfl⟩

/-! ### General operands -/

/-- The gen field of an operand and its index byte, as the decoder reads them (R180 items 2 and 3, R202). -/
def Gen.headOf : Gen → GenHead
  | .mode m => .plain m.code
  | .reserved => .plain 0b10011#5
  | .idx sc n m => .indexed sc n m.code
  | .idxBad sc n c => .indexed sc n c

theorem Mode.badBase_code (m : Mode) : badBase m.code = false := by
  have hreg : ∀ n : RegNum, badBase (0b00#2 ++ n) = false ∧ badBase (0b01#2 ++ n) = false := by decide
  cases m with
  | reg n => exact (hreg n).1
  | regRel n d => exact (hreg n).2
  | memRel p d1 d2 => cases p <;> simp [Mode.code, badBase]
  | space p d => cases p <;> simp [Mode.code, badBase]
  | imm v | abs d | ext d1 d2 | tos => simp [Mode.code, badBase]

theorem badBase_parts (c : BitVec 5) (h : badBase c = false) : c ≠ 0b10011#5 ∧ c.extractLsb' 2 3 ≠ 0b111#3 := by
  revert c; decide

/-- The index byte of Scaled Index and the last bits of its gen field (R202). -/
theorem indexByte_parts (sc : Scale) (c : BitVec 5) (n : RegNum) :
    (0b111#3 ++ sc.toBits : BitVec 5).extractLsb' 2 3 = 0b111#3
      ∧ Scale.ofBits ((0b111#3 ++ sc.toBits : BitVec 5).extractLsb' 0 2) = sc
      ∧ (c ++ n : Byte).extractLsb' 0 3 = n ∧ (c ++ n : Byte).extractLsb' 3 5 = c := by
  refine ⟨by cases sc <;> rfl, by cases sc <;> rfl, BitVec.extractLsb'_append_eq_right,
    BitVec.extractLsb'_append_eq_left⟩

theorem indexByte_of_parts (c : BitVec 5) (x : Byte) (h : c.extractLsb' 2 3 = 0b111#3) :
    0b111#3 ++ (Scale.ofBits (c.extractLsb' 0 2)).toBits = c ∧ x.extractLsb' 3 5 ++ x.extractLsb' 0 3 = x :=
  ⟨by revert c; decide, BitVec.extractLsb'_append_extractLsb'⟩

theorem parseHead_plain {c : BitVec 5} (h : c.extractLsb' 2 3 ≠ 0b111#3) (bs : List Byte) :
    parseHead c bs = .ok (.plain c, bs) := by
  rw [parseHead.eq_def, if_neg (by simpa using h)]

theorem parseHead_indexed (sc : Scale) (c : BitVec 5) (n : RegNum) (r : List Byte) :
    parseHead (0b111#3 ++ sc.toBits) ((c ++ n) :: r) = .ok (.indexed sc n c, r) := by
  obtain ⟨htop, hsc, hn, hc⟩ := indexByte_parts sc c n
  rw [parseHead.eq_def, if_pos (by simp [htop])]
  simp only [hsc, hn, hc]

theorem parseHead_encode (g : Gen) (r : List Byte) : parseHead g.code (g.head ++ r) = .ok (g.headOf, r) := by
  cases g with
  | mode m => exact parseHead_plain (badBase_parts _ m.badBase_code).2 r
  | reserved => exact parseHead_plain (by decide) r
  | idx sc n m => exact parseHead_indexed sc m.code n r
  | idxBad sc n c => exact parseHead_indexed sc c n r

theorem parseExt_encode {n : Nat} {g : Gen} (h : g.wf n = true) (r : List Byte) :
    parseExt n g.headOf (g.extBytes n ++ r) = .ok (g, r) := by
  cases g with
  | mode m =>
    have hc : (m.code == 0b10011#5) = false := by simpa using (badBase_parts _ m.badBase_code).1
    rw [Gen.headOf, Gen.extBytes, parseExt, hc, parseMode_encode h]
    rfl
  | reserved => rfl
  | idx sc k m =>
    rw [Gen.headOf, Gen.extBytes, parseExt, m.badBase_code, parseMode_encode h]
    rfl
  | idxBad sc k c =>
    have hc : badBase c = true := h
    rw [Gen.headOf, parseExt, hc]
    rfl

/-- The operand that a gen field, its index byte and its extension are parsed to is encoded by them (R180). -/
theorem encode_operand {n : Nat} (hn : n ≤ 8) {c : BitVec 5} {hd : GenHead} {g : Gen} {bs r1 r2 r3 : List Byte}
    (hhead : parseHead c bs = .ok (hd, r1)) (hext : parseExt n hd r2 = .ok (g, r3)) :
    g.code = c ∧ g.head ++ r1 = bs ∧ g.extBytes n ++ r3 = r2 := by
  by_cases htop : c.extractLsb' 2 3 = 0b111#3
  · match bs with
    | [] => rw [parseHead, if_pos (by simp [htop])] at hhead; cases hhead
    | x :: r =>
      obtain ⟨hc, hx⟩ := indexByte_of_parts c x htop
      rw [parseHead, if_pos (by simp [htop])] at hhead
      cases hhead
      unfold parseExt at hext
      dsimp only at hext
      split at hext
      · cases hext
        exact ⟨hc, by rw [Gen.head, hx]; rfl, rfl⟩
      next hbad =>
        split at hext <;> cases hext
        next m hm =>
        obtain ⟨hcode, hbytes⟩ := encode_parseMode hn (by simpa using hbad) hm
        exact ⟨hc, by rw [Gen.head, hcode, hx]; rfl, hbytes⟩
  · cases (parseHead_plain htop bs).symm.trans hhead
    unfold parseExt at hext
    dsimp only at hext
    split at hext
    next hres =>
      cases hext
      exact ⟨(beq_iff_eq.mp hres).symm, rfl, rfl⟩
    next hres =>
      split at hext <;> cases hext
      next m hm =>
      have hbad : badBase c = false := by
        rw [badBase, Bool.or_eq_false_iff]
        exact ⟨by simpa using hres, by simpa using htop⟩
      obtain ⟨hcode, hbytes⟩ := encode_parseMode hn hbad hm
      exact ⟨hcode, rfl, hbytes⟩

/-! ### One and two general operands -/

theorem one_encode {n : Nat} {g : Gen} (h : g.wf n = true) (r : List Byte) (k : Gen → List Byte → Parse Instr) :
    one n g.code (tail1 n g ++ r) k = k g r := by
  rw [one, tail1, List.append_assoc, parseHead_encode]
  dsimp only
  rw [parseExt_encode h]

theorem two_encode {n1 n2 : Nat} {g1 g2 : Gen} (h : wf2 n1 g1 n2 g2 = true) (r : List Byte)
    (k : Gen → Gen → List Byte → Parse Instr) :
    two n1 n2 g1.code g2.code (tail2 n1 g1 n2 g2 ++ r) k = k g1 g2 r := by
  obtain ⟨h1, h2⟩ : g1.wf n1 = true ∧ g2.wf n2 = true := by simpa [wf2] using h
  simp only [two, tail2, List.append_assoc, parseHead_encode, parseExt_encode h1, parseExt_encode h2]

theorem encode_one {n : Nat} (hn : n ≤ 8) {c : BitVec 5} {bs rest : List Byte} {k : Gen → List Byte → Parse Instr}
    {i : Instr} (h : one n c bs k = .ok (i, rest)) :
    ∃ g r, g.code = c ∧ tail1 n g ++ r = bs ∧ k g r = .ok (i, rest) := by
  unfold one at h
  split at h
  · cases h
  next hd r1 hhead =>
    split at h
    · cases h
    next g r2 hext =>
      obtain ⟨hc, h1, h2⟩ := encode_operand hn hhead hext
      exact ⟨g, r2, hc, by rw [tail1, List.append_assoc, h2, h1], h⟩

theorem encode_two {n1 n2 : Nat} (hn1 : n1 ≤ 8) (hn2 : n2 ≤ 8) {c1 c2 : BitVec 5} {bs rest : List Byte}
    {k : Gen → Gen → List Byte → Parse Instr} {i : Instr} (h : two n1 n2 c1 c2 bs k = .ok (i, rest)) :
    ∃ g1 g2 r, g1.code = c1 ∧ g2.code = c2 ∧ tail2 n1 g1 n2 g2 ++ r = bs ∧ k g1 g2 r = .ok (i, rest) := by
  unfold two at h
  split at h
  · cases h
  next hd1 r1 hhead1 =>
  split at h
  · cases h
  next hd2 r2 hhead2 =>
  split at h
  · cases h
  next g1 r3 hext1 =>
  split at h
  · cases h
  next g2 r4 hext2 =>
    obtain ⟨hc1, h1, h3⟩ := encode_operand hn1 hhead1 hext1
    obtain ⟨hc2, h2, h4⟩ := encode_operand hn2 hhead2 hext2
    exact ⟨g1, g2, r4, hc1, hc2, by simp only [tail2, List.append_assoc, h4, h3, h2, h1], h⟩

end Sys2Proof
end

section
/-! PROOF. What the decoder takes is what the encoder gives: every arm of the decode tree answers an instruction whose
bytes are those it has read (R180 to R228). -/

namespace Sys2Proof

/-! ### The fields of small codes -/

theorem Size.toBits_ofBits (v : BitVec 2) : (Size.ofBits v).toBits = v := by revert v; decide
theorem Cond.toBits_ofBits (v : BitVec 4) : (Cond.ofBits v).toBits = v := by revert v; decide
theorem AReg.toBits_ofBits (v : BitVec 4) : (AReg.ofBits v).toBits = v := by revert v; decide
theorem Match.toBits_ofBits (v : BitVec 2) : (Match.ofBits v).toBits = v := by revert v; decide
theorem FSize.toBits_ofBit (b : Bool) : (FSize.ofBit b).toBits = BitVec.ofBool b := by cases b <;> rfl
theorem CSize.toBits_ofBit (b : Bool) : (CSize.ofBit b).toBits = BitVec.ofBool b := by cases b <;> rfl

/-! ### The fields of an operation word -/

theorem OpWord.toBits_ofBits (w : BitVec 16) : (OpWord.ofBits w).toBits = w := by
  ext k hk
  simp [OpWord.toBits, OpWord.ofBits]
  grind

theorem ofBool_getLsbD (w : BitVec 16) (k : Nat) : BitVec.ofBool (w.getLsbD k) = w.extractLsb' k 1 := by
  ext j hj
  obtain rfl : j = 0 := by omega
  simp

/-- The four bits of `op`, as Formats 8, 9 and 15.1 part them. -/
theorem OpWord.op_parts (w : BitVec 16) : (OpWord.ofBits w).op = w.extractLsb' 3 3 ++ w.extractLsb' 2 1 :=
  (BitVec.extractLsb'_append_extractLsb'_eq_extractLsb' (x := w) (start₂ := 3) (len₂ := 3) (len₁ := 1) rfl).symm

/-- The two bits of `i`, as Formats 11, 12 and 15.5 part them. -/
theorem OpWord.i_parts (w : BitVec 16) : (OpWord.ofBits w).i = w.extractLsb' 1 1 ++ w.extractLsb' 0 1 :=
  (BitVec.extractLsb'_append_extractLsb'_eq_extractLsb' (x := w) (start₂ := 1) (len₂ := 1) (len₁ := 1) rfl).symm

/-- An operation word put together from its own fields. -/
theorem OpWord.toBits_eq {w : BitVec 16} {g1 g2 : BitVec 5} {op : BitVec 4} {i : BitVec 2}
    (h1 : g1 = (OpWord.ofBits w).g1) (h2 : g2 = (OpWord.ofBits w).g2) (hop : (OpWord.ofBits w).op = op)
    (hi : (OpWord.ofBits w).i = i) : OpWord.toBits ⟨g1, g2, op, i⟩ = w := by
  rw [h1, h2, ← hop, ← hi]
  exact OpWord.toBits_ofBits w

section Fields

variable {w : BitVec 16} {c : BitVec 3} (h : w.extractLsb' 3 3 = c)
include h

theorem OpWord.op_of_f : (OpWord.ofBits w).op = c ++ (FSize.ofBit (w.getLsbD 2)).toBits := by
  rw [OpWord.op_parts, h, FSize.toBits_ofBit, ofBool_getLsbD]

theorem OpWord.op_of_c : (OpWord.ofBits w).op = c ++ (CSize.ofBit (w.getLsbD 2)).toBits := by
  rw [OpWord.op_parts, h, CSize.toBits_ofBit, ofBool_getLsbD]

/-- The three bits `f` and `i` of an instruction that ignores them, in two parts. -/
theorem OpWord.op_of_fi : (OpWord.ofBits w).op = c ++ (w.extractLsb' 0 3).extractLsb' 2 1 := by
  rw [OpWord.op_parts, h, BitVec.extractLsb'_extractLsb'_of_le (by decide)]

end Fields

theorem OpWord.i_of_fi (w : BitVec 16) : (OpWord.ofBits w).i = (w.extractLsb' 0 3).extractLsb' 0 2 :=
  (BitVec.extractLsb'_extractLsb'_of_le (by decide)).symm

theorem OpWord.i_of_f (w : BitVec 16) :
    (OpWord.ofBits w).i = w.extractLsb' 1 1 ++ (FSize.ofBit (w.getLsbD 0)).toBits := by
  rw [OpWord.i_parts, FSize.toBits_ofBit, ofBool_getLsbD]

theorem OpWord.i_of_c (w : BitVec 16) :
    (OpWord.ofBits w).i = w.extractLsb' 1 1 ++ (CSize.ofBit (w.getLsbD 0)).toBits := by
  rw [OpWord.i_parts, CSize.toBits_ofBit, ofBool_getLsbD]

/-! ### What an arm has read -/

/-- After the bytes `pre` the arm reads from `bs` the rest of the instruction that it answers. -/
def Inverts (pre bs : List Byte) (p : Parse Instr) : Prop :=
  ∀ i rest, p = .ok (i, rest) → encode i ++ rest = pre ++ bs

section Ends

variable {pre bs : List Byte}

theorem fin_inverts {I : Instr} (h : encode I = pre) : Inverts pre bs (fin I bs) := by
  intro i rest e
  cases e
  rw [h]

theorem withDisp_inverts {k : Disp → Instr} (h : ∀ d, encode (k d) = pre ++ d.encode) :
    Inverts pre bs (withDisp k bs) := by
  intro i rest e
  unfold withDisp at e
  split at e <;> cases e
  next d hd => rw [h, List.append_assoc, encode_parseDisp hd]

theorem withByte_inverts {k : Byte → Instr} (h : ∀ c, encode (k c) = pre ++ [c]) :
    Inverts pre bs (withByte k bs) := by
  intro i rest e
  match bs with
  | [] => cases e
  | c :: r =>
    cases e
    rw [h, List.append_assoc]
    rfl

theorem one_inverts {n : Nat} (hn : n ≤ 8) {c : BitVec 5} {k : Gen → List Byte → Parse Instr}
    (h : ∀ g r, g.code = c → Inverts (pre ++ tail1 n g) r (k g r)) : Inverts pre bs (one n c bs k) := by
  intro i rest e
  obtain ⟨g, r, hc, hbs, hk⟩ := encode_one hn e
  rw [h g r hc i rest hk, List.append_assoc, hbs]

theorem two_inverts {n1 n2 : Nat} (hn1 : n1 ≤ 8) (hn2 : n2 ≤ 8) {c1 c2 : BitVec 5}
    {k : Gen → Gen → List Byte → Parse Instr}
    (h : ∀ g1 g2 r, g1.code = c1 → g2.code = c2 → Inverts (pre ++ tail2 n1 g1 n2 g2) r (k g1 g2 r)) :
    Inverts pre bs (two n1 n2 c1 c2 bs k) := by
  intro i rest e
  obtain ⟨g1, g2, r, hc1, hc2, hbs, hk⟩ := encode_two hn1 hn2 e
  rw [h g1 g2 r hc1 hc2 i rest hk, List.append_assoc, hbs]

/-- The two-operand arms of the three-byte formats: the operation word is that of the fields encoded. -/
theorem encTwo_inverts {b : Byte} {w : BitVec 16} {op : BitVec 4} {i : BitVec 2} {n1 n2 : Nat}
    {k : Gen → Gen → List Byte → Parse Instr} (hn1 : n1 ≤ 8) (hn2 : n2 ≤ 8) (hop : (OpWord.ofBits w).op = op)
    (hi : (OpWord.ofBits w).i = i) (h : ∀ g1 g2 r, Inverts (encTwo b op i n1 g1 n2 g2) r (k g1 g2 r)) :
    Inverts (enc3 b w) bs (two n1 n2 (OpWord.ofBits w).g1 (OpWord.ofBits w).g2 bs k) := by
  refine two_inverts hn1 hn2 fun g1 g2 r h1 h2 => ?_
  have e := h g1 g2 r
  rwa [encTwo, OpWord.toBits_eq h1 h2 hop hi] at e

theorem enc4_inverts {w : BitVec 16} {op : BitVec 4} {i : Size} {n1 n2 : Nat}
    {k : Gen → Gen → List Byte → Parse Instr} (hn1 : n1 ≤ 8) (hn2 : n2 ≤ 8) (hop : (OpWord.ofBits w).op = op)
    (hi : Size.ofBits (OpWord.ofBits w).i = i) (h : ∀ g1 g2 r, Inverts (enc4 op i n1 g1 n2 g2) r (k g1 g2 r)) :
    Inverts (enc2 w) bs (two n1 n2 (OpWord.ofBits w).g1 (OpWord.ofBits w).g2 bs k) := by
  refine two_inverts hn1 hn2 fun g1 g2 r h1 h2 => ?_
  have e := h g1 g2 r
  rwa [enc4, OpWord.toBits_eq h1 h2 hop (by rw [← hi, Size.toBits_ofBits])] at e

end Ends

/-! ### The formats -/

section Formats

variable {bs : List Byte} (w : BitVec 16)

theorem decode0_inverts (c : BitVec 4) : Inverts [c ++ 0xA#4] bs (decode0 c bs) := by
  unfold decode0
  split
  case h_16 =>
    obtain rfl : c = 0b1111#4 := by revert c; decide
    exact withDisp_inverts fun _ => rfl
  all_goals exact withDisp_inverts fun _ => rfl

theorem decode1_inverts (op : BitVec 4) : Inverts [op ++ 0x2#4] bs (decode1 op bs) := by
  unfold decode1
  split
  case h_1 | h_2 | h_3 | h_4 | h_5 => exact withDisp_inverts fun _ => rfl
  case h_7 | h_8 | h_10 => exact withByte_inverts fun _ => rfl
  case h_9 =>
    match bs with
    | [] => intro i rest e; cases e
    | m :: r => exact withDisp_inverts (pre := [0b1000#4 ++ 0x2#4, m]) fun _ => rfl
  case h_16 =>
    obtain rfl : op = 0b1111#4 := by revert op; decide
    exact fin_inverts rfl
  all_goals exact fin_inverts rfl

/-- A string instruction's word, put together from its options (R217, R218). -/
theorem encStr_strOpts {op : BitVec 4} {t : BitVec 1} {i : Size} (hop : w.extractLsb' 2 4 = op)
    (ht : BitVec.ofBool (w.getLsbD 7) = t) (hi : Size.ofBits (w.extractLsb' 0 2) = i) :
    encStr op t i (strOpts w) = enc3 0x0E#8 w := by
  rw [encStr, strOpts, ← hop, ← ht, ← hi, Size.toBits_ofBits, Match.toBits_ofBits, ofBool_getLsbD, ofBool_getLsbD]
  congr 1
  ext k hk
  simp
  grind

theorem decode5_inverts : Inverts (enc3 0x0E#8 w) bs (decode5 w bs) := by
  have hstring {op : BitVec 4} {I : Size → Instr} {T : Instr} (hop : w.extractLsb' 2 4 = op)
      (hI : ∀ i, encode (I i) = encStr op 0#1 i (strOpts w)) (hT : encode T = encStr op 1#1 .b (strOpts w)) :
      Inverts (enc3 0x0E#8 w) bs (if !w.getLsbD 7 then fin (I (Size.ofBits (w.extractLsb' 0 2))) bs
        else if Size.ofBits (w.extractLsb' 0 2) = .b then fin T bs else fin (.undef5 w) bs) := by
    split
    next ht =>
      refine fin_inverts ((hI _).trans (encStr_strOpts w hop ?_ rfl))
      rw [(by simpa using ht : w.getLsbD 7 = false)]
      rfl
    next ht =>
      split
      next hi =>
        refine fin_inverts (hT.trans (encStr_strOpts w hop ?_ hi))
        rw [(by simpa using ht : w.getLsbD 7 = true)]
        rfl
      · exact fin_inverts rfl
  unfold decode5
  dsimp only
  split
  case h_1 hop => exact hstring (I := fun i => .movs i (strOpts w)) hop (fun _ => rfl) rfl
  case h_2 hop => exact hstring (I := fun i => .cmps i (strOpts w)) hop (fun _ => rfl) rfl
  case h_4 hop => exact hstring (I := fun i => .skps i (strOpts w)) hop (fun _ => rfl) rfl
  case h_3 hop =>
    refine fin_inverts ?_
    rw [encode, ← hop, Size.toBits_ofBits]
    congr 1
    ext k hk
    simp
    grind
  case h_5 => exact fin_inverts rfl

theorem decode6_inverts : Inverts (enc3 0x4E#8 w) bs (decode6 w bs) := by
  have hi := (Size.ofBits (OpWord.ofBits w).i).two_mul_bytes_le
  unfold decode6
  dsimp only
  split
  case h_15 => exact fin_inverts rfl
  all_goals
    next hop =>
    exact encTwo_inverts (by omega) (by omega) hop (Size.toBits_ofBits _).symm fun _ _ _ => fin_inverts rfl

theorem decode7_inverts : Inverts (enc3 0xCE#8 w) bs (decode7 w bs) := by
  have hi := (Size.ofBits (OpWord.ofBits w).i).two_mul_bytes_le
  unfold decode7
  dsimp only
  split
  case h_1 hop | h_2 hop =>
    exact encTwo_inverts (by omega) (by omega) hop (Size.toBits_ofBits _).symm fun _ _ _ => withDisp_inverts fun _ => rfl
  case h_3 hop | h_4 hop =>
    exact encTwo_inverts (by omega) (by omega) hop (Size.toBits_ofBits _).symm fun _ _ _ => withByte_inverts fun _ => rfl
  case h_16 => exact fin_inverts rfl
  all_goals
    next hop =>
    exact encTwo_inverts (by omega) (by omega) hop (Size.toBits_ofBits _).symm fun _ _ _ => fin_inverts rfl

/-- In Format 8 two bits of the first byte belong to the opcode (R221). -/
theorem decode8_inverts (op1 : BitVec 2) : Inverts (enc3 (op1 ++ 0b101110#6) w) bs (decode8 op1 w bs) := by
  have hi := (Size.ofBits (OpWord.ofBits w).i).two_mul_bytes_le
  have hop {c : BitVec 3} (h : w.extractLsb' 2 1 ++ op1 = c) :
      (OpWord.ofBits w).op = w.extractLsb' 3 3 ++ c.extractLsb' 2 1 ∧ op1 = c.extractLsb' 0 2 := by
    rw [OpWord.op_parts, ← h]
    exact ⟨by rw [BitVec.extractLsb'_append_eq_left], BitVec.extractLsb'_append_eq_right.symm⟩
  unfold decode8
  dsimp only
  split
  case h_7 h =>
    obtain ⟨ho, rfl⟩ := hop h
    split
    next hr =>
      rw [hr] at ho
      exact encTwo_inverts (by omega) (by omega) ho (Size.toBits_ofBits _).symm fun _ _ _ => fin_inverts rfl
    split
    next hr =>
      rw [hr] at ho
      exact encTwo_inverts (by omega) (by omega) ho (Size.toBits_ofBits _).symm fun _ _ _ => fin_inverts rfl
    · exact fin_inverts rfl
  case h_8 =>
    have h : w.extractLsb' 2 1 ++ op1 = 0b111#3 := by
      clear hop
      generalize w.extractLsb' 2 1 ++ op1 = c at *
      revert c
      decide
    obtain ⟨-, rfl⟩ := hop h
    exact fin_inverts rfl
  case h_1 h | h_3 h =>
    obtain ⟨ho, rfl⟩ := hop h
    exact encTwo_inverts (by omega) (by omega) ho (Size.toBits_ofBits _).symm fun _ _ _ => withDisp_inverts fun _ => rfl
  all_goals
    next h =>
    obtain ⟨ho, rfl⟩ := hop h
    exact encTwo_inverts (by omega) (by omega) ho (Size.toBits_ofBits _).symm fun _ _ _ => fin_inverts rfl

theorem decode9_inverts : Inverts (enc3 0x3E#8 w) bs (decode9 w bs) := by
  have hi := (Size.ofBits (OpWord.ofBits w).i).two_mul_bytes_le
  have hf := (FSize.ofBit (w.getLsbD 2)).bytes_le
  unfold decode9
  dsimp only
  split
  case h_2 h =>
    exact one_inverts (by decide) fun g r hg => fin_inverts
      (congrArg (enc3 0x3E#8 · ++ tail1 4 g) (OpWord.toBits_eq hg rfl (OpWord.op_of_fi h) (OpWord.i_of_fi w)))
  case h_7 h =>
    exact one_inverts (by decide) fun g r hg => fin_inverts
      (congrArg (enc3 0x3E#8 · ++ tail1 4 g) (OpWord.toBits_eq rfl hg (OpWord.op_of_fi h) (OpWord.i_of_fi w)))
  case h_3 h | h_4 h =>
    exact encTwo_inverts (by decide) (by decide) (OpWord.op_of_fi h) (OpWord.i_of_fi w) fun _ _ _ => fin_inverts rfl
  case h_8 =>
    have h : w.extractLsb' 3 3 = 0b111#3 := by
      generalize w.extractLsb' 3 3 = c at *
      revert c
      decide
    exact encTwo_inverts (by omega) (by omega) (OpWord.op_of_f h) (Size.toBits_ofBits _).symm
      fun _ _ _ => fin_inverts rfl
  all_goals
    next h =>
    exact encTwo_inverts (by omega) (by omega) (OpWord.op_of_f h) (Size.toBits_ofBits _).symm
      fun _ _ _ => fin_inverts rfl

theorem decode151_inverts : Inverts (enc3 0x36#8 w) bs (decode151 w bs) := by
  have hi := (Size.ofBits (OpWord.ofBits w).i).two_mul_bytes_le
  have hc := (CSize.ofBit (w.getLsbD 2)).bytes_le
  unfold decode151
  dsimp only
  split
  case h_2 h =>
    exact one_inverts (by decide) fun g r hg => fin_inverts
      (congrArg (enc3 0x36#8 · ++ tail1 4 g) (OpWord.toBits_eq hg rfl (OpWord.op_of_fi h) (OpWord.i_of_fi w)))
  case h_7 h =>
    exact one_inverts (by decide) fun g r hg => fin_inverts
      (congrArg (enc3 0x36#8 · ++ tail1 4 g) (OpWord.toBits_eq rfl hg (OpWord.op_of_fi h) (OpWord.i_of_fi w)))
  case h_3 h | h_4 h =>
    exact encTwo_inverts (by decide) (by decide) (OpWord.op_of_fi h) (OpWord.i_of_fi w) fun _ _ _ => fin_inverts rfl
  case h_8 =>
    have h : w.extractLsb' 3 3 = 0b111#3 := by
      generalize w.extractLsb' 3 3 = c at *
      revert c
      decide
    exact encTwo_inverts (by omega) (by omega) (OpWord.op_of_c h) (Size.toBits_ofBits _).symm
      fun _ _ _ => fin_inverts rfl
  all_goals
    next h =>
    exact encTwo_inverts (by omega) (by omega) (OpWord.op_of_c h) (Size.toBits_ofBits _).symm
      fun _ _ _ => fin_inverts rfl

theorem decode11_inverts : Inverts (enc3 0xBE#8 w) bs (decode11 w bs) := by
  have hf := (FSize.ofBit (w.getLsbD 0)).bytes_le
  unfold decode11
  dsimp only
  split
  case h_16 =>
    have h : (OpWord.ofBits w).op = 0b1111#4 := by
      generalize (OpWord.ofBits w).op = c at *
      revert c
      decide
    exact encTwo_inverts hf hf h (OpWord.i_of_f w) fun _ _ _ => fin_inverts rfl
  all_goals
    next h =>
    exact encTwo_inverts hf hf h (OpWord.i_of_f w) fun _ _ _ => fin_inverts rfl

theorem decode12_inverts : Inverts (enc3 0xFE#8 w) bs (decode12 w bs) := by
  have hf := (FSize.ofBit (w.getLsbD 0)).bytes_le
  unfold decode12
  dsimp only
  split
  case h_5 => exact encTwo_inverts hf hf rfl (OpWord.i_of_f w) fun _ _ _ => fin_inverts rfl
  all_goals
    next h =>
    exact encTwo_inverts hf hf h (OpWord.i_of_f w) fun _ _ _ => fin_inverts rfl

theorem decode155_inverts : Inverts (enc3 0xB6#8 w) bs (decode155 w bs) := by
  have hc := (CSize.ofBit (w.getLsbD 0)).bytes_le
  unfold decode155
  dsimp only
  split
  case h_11 => exact encTwo_inverts hc hc rfl (OpWord.i_of_c w) fun _ _ _ => fin_inverts rfl
  all_goals
    next h =>
    exact encTwo_inverts hc hc h (OpWord.i_of_c w) fun _ _ _ => fin_inverts rfl

theorem cinvWord {w : BitVec 16} (h : undef14Word w = false) :
    w.extractLsb' 11 5 ++ 0#1 ++ BitVec.ofBool (w.getLsbD 9) ++ BitVec.ofBool (w.getLsbD 8)
      ++ BitVec.ofBool (w.getLsbD 7) ++ w.extractLsb' 6 1 ++ 0b1001#4 ++ 0b11#2 = w := by
  obtain ⟨⟨h10, hop⟩, hi⟩ : (w.getLsbD 10 = false ∧ opOf w = 0b1001#4) ∧ w.extractLsb' 0 2 = 0b11#2 := by
    simpa [undef14Word, -BitVec.getLsbD_eq_getElem] using h
  have h0 : w.extractLsb' 10 1 = 0#1 := by rw [← ofBool_getLsbD, h10]; rfl
  rw [ofBool_getLsbD, ofBool_getLsbD, ofBool_getLsbD, ← hop, ← hi, ← h0, opOf]
  ext k hk
  simp
  grind

theorem decode14_inverts : Inverts (enc3 0x1E#8 w) bs (decode14 w bs) := by
  unfold decode14
  split
  · exact fin_inverts rfl
  next h =>
    refine one_inverts (by decide) fun g r hg => fin_inverts ?_
    rw [encode, hg, cinvWord (by simpa using h)]

theorem decode150_inverts : Inverts (enc3 0x16#8 w) bs (decode150 w bs) := by
  have hw {g : Gen} {op : BitVec 4} (hg : g.code = (OpWord.ofBits w).g1) (hop : (OpWord.ofBits w).op = op) :
      g.code ++ w.extractLsb' 7 4 ++ w.extractLsb' 6 1 ++ op ++ (OpWord.ofBits w).i = w := by
    rw [hg, ← hop]
    ext k hk
    simp [OpWord.ofBits]
    grind
  unfold decode150
  dsimp only
  split
  case h_3 h | h_4 h =>
    exact one_inverts (by decide) fun g r hg => fin_inverts (congrArg (enc3 0x16#8 · ++ tail1 4 g) (hw hg h))
  all_goals exact fin_inverts rfl

theorem decode2_inverts (hlow : w.extractLsb' 2 2 = 0b11#2) (hop : w.extractLsb' 4 3 ≠ 0b111#3) :
    Inverts (enc2 w) bs (decode2 w bs) := by
  have hi := (Size.ofBits (w.extractLsb' 0 2)).two_mul_bytes_le
  have hw {g : Gen} {op : BitVec 3} {q : BitVec 4} (hg : g.code = w.extractLsb' 11 5) (hq : q = w.extractLsb' 7 4)
      (h : w.extractLsb' 4 3 = op) : encQ op q (Size.ofBits (w.extractLsb' 0 2)) g
        = enc2 w ++ tail1 (Size.ofBits (w.extractLsb' 0 2)).bytes g := by
    rw [encQ, hg, hq, ← h, Size.toBits_ofBits, ← hlow]
    congr 2
    ext k hk
    simp
    grind
  unfold decode2
  dsimp only
  split
  case h_7 =>
    have h : w.extractLsb' 4 3 = 0b110#3 := by
      clear hw
      generalize w.extractLsb' 4 3 = c at *
      revert c
      decide
    exact one_inverts (by omega) fun g r hg => fin_inverts (hw hg (AReg.toBits_ofBits _) h)
  case h_3 h => exact one_inverts (by omega) fun g r hg => fin_inverts (hw hg (AReg.toBits_ofBits _) h)
  case h_4 h => exact one_inverts (by omega) fun g r hg => fin_inverts (hw hg (Cond.toBits_ofBits _) h)
  case h_5 h =>
    exact one_inverts (by omega) fun g r hg => withDisp_inverts fun d => congrArg (· ++ d.encode) (hw hg rfl h)
  all_goals
    next h =>
    exact one_inverts (by omega) fun g r hg => fin_inverts (hw hg rfl h)

theorem decode3_inverts (hlow : w.extractLsb' 2 5 = 0b11111#5) : Inverts (enc2 w) bs (decode3 w bs) := by
  have hi := (Size.ofBits (w.extractLsb' 0 2)).two_mul_bytes_le
  have hw {g : BitVec 5} {op : BitVec 4} (hg : g = w.extractLsb' 11 5) (h : w.extractLsb' 7 4 = op) :
      g ++ op ++ 0b11111#5 ++ (Size.ofBits (w.extractLsb' 0 2)).toBits = w := by
    rw [hg, ← h, Size.toBits_ofBits, ← hlow]
    ext k hk
    simp
    grind
  unfold decode3
  dsimp only
  split
  case h_8 => exact fin_inverts (congrArg enc2 (hw rfl rfl))
  all_goals
    next h =>
    exact one_inverts (by omega) fun g r hg => fin_inverts (congrArg (enc2 · ++ tail1 _ g) (hw hg h))

theorem decode4_inverts (hlow : w.extractLsb' 2 2 ≠ 0b11#2) : Inverts (enc2 w) bs (decode4 w bs) := by
  have hi := (Size.ofBits (OpWord.ofBits w).i).two_mul_bytes_le
  unfold decode4
  dsimp only
  split
  case h_12 =>
    have hpart : (OpWord.ofBits w).op.extractLsb' 0 2 = w.extractLsb' 2 2 := by
      ext k hk
      simp [OpWord.ofBits]
      omega
    have h : (OpWord.ofBits w).op = 0b1110#4 := by
      rw [← hpart] at hlow
      clear hpart hi
      generalize (OpWord.ofBits w).op = c at *
      revert c
      decide
    exact enc4_inverts (by omega) (by omega) h rfl fun _ _ _ => fin_inverts rfl
  all_goals
    next h =>
    exact enc4_inverts (by omega) (by omega) h rfl fun _ _ _ => fin_inverts rfl

/-! ### The decode tree -/

theorem decodeE_inverts (hi : BitVec 4) : Inverts (enc3 (hi ++ 0xE#4) w) bs (decodeE hi w bs) := by
  unfold decodeE
  split
  case h_1 => exact decode5_inverts w
  case h_2 => exact decode14_inverts w
  case h_3 => exact decode8_inverts w 0b00#2
  case h_4 => exact decode9_inverts w
  case h_5 => exact decode6_inverts w
  case h_7 => exact decode8_inverts w 0b01#2
  case h_11 => exact decode8_inverts w 0b10#2
  case h_12 => exact decode11_inverts w
  case h_13 => exact decode7_inverts w
  case h_15 => exact decode8_inverts w 0b11#2
  case h_16 =>
    obtain rfl : hi = 0xF#4 := by revert hi; decide
    exact decode12_inverts w
  all_goals exact fin_inverts rfl

theorem decode15_inverts (nnn : BitVec 3) : Inverts (enc3 (nnn ++ 0b10110#5) w) bs (decode15 nnn w bs) := by
  unfold decode15
  split
  case h_1 => exact decode150_inverts w
  case h_2 => exact decode151_inverts w
  case h_6 => exact decode155_inverts w
  case h_8 =>
    obtain rfl : nnn = 0b111#3 := by revert nnn; decide
    exact fin_inverts rfl
  all_goals exact fin_inverts rfl

end Formats

theorem withOpWord_inverts {b : Byte} {bs : List Byte} {k : BitVec 16 → List Byte → Parse Instr}
    (h : ∀ w r, Inverts (enc3 b w) r (k w r)) : Inverts [b] bs (withOpWord bs k) := by
  match bs with
  | [] | [_] => intro i rest e; cases e
  | b1 :: b2 :: r =>
    have hbytes : enc3 b (b2 ++ b1) = [b, b1, b2] := by
      rw [enc3, BitVec.extractLsb'_append_eq_left, BitVec.extractLsb'_append_eq_right]
    intro i rest e
    rw [h _ r i rest e, hbytes]
    rfl

/-- A basic part of two bytes: the word's low byte is the first (R181). -/
theorem withHalf_inverts {b : Byte} {bs : List Byte} {k : BitVec 16 → List Byte → Parse Instr}
    (h : ∀ (b1 : Byte) r, Inverts (enc2 (b1 ++ b)) r (k (b1 ++ b) r)) : Inverts [b] bs (withHalf b bs k) := by
  match bs with
  | [] => intro i rest e; cases e
  | b1 :: r =>
    have hbytes : enc2 (b1 ++ b) = [b, b1] := by
      rw [enc2, BitVec.extractLsb'_append_eq_left, BitVec.extractLsb'_append_eq_right]
    intro i rest e
    rw [h b1 r i rest e, hbytes]
    rfl

/-- The low bits of a two-byte instruction are those of its first byte. -/
theorem low_append (b1 b : Byte) {k n : Nat} (h : k + n ≤ 8) : (b1 ++ b).extractLsb' k n = b.extractLsb' k n :=
  BitVec.extractLsb'_append_eq_of_add_le h

theorem firstByte_parts (b : Byte) : b.extractLsb' 4 4 ++ b.extractLsb' 0 4 = b ∧
    (b.extractLsb' 0 4 = 0x6#4 → b.getLsbD 4 = true → b.extractLsb' 5 3 ++ 0b10110#5 = b)
    ∧ (b.extractLsb' 0 4 = 0x6#4 → b.getLsbD 4 = false → b.extractLsb' 5 3 ++ 0b00110#5 = b) := by
  revert b
  decide

theorem short_parts (b : Byte) :
    (b.extractLsb' 0 4 ∈ [0xC#4, 0xD#4, 0xF#4] → b.extractLsb' 2 2 = 0b11#2
      ∧ (b.extractLsb' 4 3 = 0b111#3 → b.extractLsb' 2 5 = 0b11111#5))
    ∧ (b.extractLsb' 0 4 ∉ [0xC#4, 0xD#4, 0xE#4, 0xF#4] → b.extractLsb' 2 2 ≠ 0b11#2) := by
  revert b
  decide

theorem decode_cons_inverts (b : Byte) (bs : List Byte) : Inverts [b] bs (decode (b :: bs)) := by
  obtain ⟨hall, h15, h19⟩ := firstByte_parts b
  obtain ⟨hshort, h4⟩ := short_parts b
  have hQG (h : b.extractLsb' 0 4 ∈ [0xC#4, 0xD#4, 0xF#4]) :
      Inverts [b] bs (withHalf b bs (if b.extractLsb' 4 3 == 0b111#3 then decode3 else decode2)) := by
    obtain ⟨hlow, hlow3⟩ := hshort h
    refine withHalf_inverts fun b1 r => ?_
    split
    next h7 => exact decode3_inverts _ (by rw [low_append _ _ (by decide)]; exact hlow3 (by simpa using h7))
    next h7 =>
      refine decode2_inverts _ ?_ ?_
      · rw [low_append _ _ (by decide)]
        exact hlow
      · rw [low_append _ _ (by decide)]
        simpa using h7
  unfold decode
  dsimp only
  split
  case h_1 h =>
    rw [h] at hall
    have e := decode0_inverts (bs := bs) (b.extractLsb' 4 4)
    rwa [hall] at e
  case h_2 h =>
    rw [h] at hall
    have e := decode1_inverts (bs := bs) (b.extractLsb' 4 4)
    rwa [hall] at e
  case h_3 h =>
    split
    next h4 =>
      refine withOpWord_inverts fun w r => ?_
      have e := decode15_inverts (bs := r) w (b.extractLsb' 5 3)
      rwa [h15 h h4] at e
    next h4 => exact fin_inverts (congrArg (fun x => [x]) (h19 h (by simpa using h4)))
  case h_4 h =>
    rw [h] at hall
    refine withOpWord_inverts fun w r => ?_
    have e := decodeE_inverts (bs := r) w (b.extractLsb' 4 4)
    rwa [hall] at e
  case h_5 h | h_6 h | h_7 h => exact hQG (by simp [h])
  case h_8 =>
    refine withHalf_inverts fun b1 r => decode4_inverts _ ?_
    rw [low_append _ _ (by decide)]
    exact h4 (by simpa using ⟨‹_›, ‹_›, ‹_›, ‹_›⟩)

/-- Settles O2: the arms of the decode tree, put together. -/
theorem encodeOfDecode : Obligations.EncodeOfDecode := by
  intro bs rest i h
  match bs with
  | [] => cases h
  | b :: bs => exact decode_cons_inverts b bs i rest h

end Sys2Proof
end

section
/-! PROOF. What the encoder gives for a well-formed instruction is decoded to it again (R180 to R228): the first byte
leads to the arm of its format, the fields of the word are those put in, and the operands follow. -/

namespace Sys2Proof

/-! ### The fields of small codes -/

theorem Size.ofBits_toBits (i : Size) : Size.ofBits i.toBits = i := by cases i <;> rfl
theorem Cond.ofBits_toBits (c : Cond) : Cond.ofBits c.toBits = c := by cases c <;> rfl
theorem AReg.ofBits_toBits (r : AReg) : AReg.ofBits r.toBits = r := by cases r <;> rfl
theorem Match.ofBits_toBits (m : Match) : Match.ofBits m.toBits = m := by cases m <;> rfl

theorem FSize.ofBit_append (f : FSize) {n : Nat} (x : BitVec n) : FSize.ofBit ((x ++ f.toBits).getLsbD 0) = f := by
  rw [BitVec.getLsbD_append]
  cases f <;> rfl

theorem CSize.ofBit_append (c : CSize) {n : Nat} (x : BitVec n) : CSize.ofBit ((x ++ c.toBits).getLsbD 0) = c := by
  rw [BitVec.getLsbD_append]
  cases c <;> rfl

theorem bits_append (x : BitVec 3) :
    x.extractLsb' 2 1 ++ x.extractLsb' 0 2 = x := BitVec.extractLsb'_append_extractLsb'

/-! ### The fields of an operation word -/

section Fields

variable (o : OpWord)

theorem OpWord.ofBits_toBits : OpWord.ofBits o.toBits = o := by
  obtain ⟨g1, g2, op, i⟩ := o
  simp only [OpWord.ofBits, OpWord.toBits, OpWord.mk.injEq]
  refine ⟨?_, ?_, ?_, BitVec.extractLsb'_append_eq_right⟩
  all_goals
    ext k hk
    simp
    grind

theorem OpWord.toBits_extract_op : o.toBits.extractLsb' 3 3 = o.op.extractLsb' 1 3 := by
  ext k hk
  simp [OpWord.toBits]
  grind

theorem OpWord.toBits_extract_bit2 : o.toBits.extractLsb' 2 1 = o.op.extractLsb' 0 1 := by
  ext k hk
  simp [OpWord.toBits]
  grind

theorem OpWord.toBits_bit2 : o.toBits.getLsbD 2 = o.op.getLsbD 0 := by
  rw [OpWord.toBits, BitVec.getLsbD_append, BitVec.getLsbD_append]
  rfl

theorem OpWord.toBits_bit0 : o.toBits.getLsbD 0 = o.i.getLsbD 0 := by
  rw [OpWord.toBits, BitVec.getLsbD_append]
  rfl

theorem OpWord.toBits_extract_bit1 : o.toBits.extractLsb' 1 1 = o.i.extractLsb' 1 1 := by
  ext k hk
  simp [OpWord.toBits]
  grind

theorem OpWord.toBits_extract_fi : o.toBits.extractLsb' 0 3 = o.op.extractLsb' 0 1 ++ o.i := by
  ext k hk
  simp [OpWord.toBits]
  grind

end Fields

/-! ### The first byte -/

theorem firstByteE (hi : BitVec 4) : (hi ++ 0xE#4 : Byte).extractLsb' 0 4 = 0xE#4 ∧
    (hi ++ 0xE#4 : Byte).extractLsb' 4 4 = hi := by revert hi; decide

theorem firstByte15 (nnn : BitVec 3) : (nnn ++ 0b10110#5 : Byte).extractLsb' 0 4 = 0x6#4 ∧
    (nnn ++ 0b10110#5 : Byte).getLsbD 4 = true ∧ (nnn ++ 0b10110#5 : Byte).extractLsb' 5 3 = nnn := by
  revert nnn; decide

theorem wordParts (w : BitVec 16) : w.extractLsb' 8 8 ++ w.extractLsb' 0 8 = w := BitVec.extractLsb'_append_extractLsb'

theorem decode_enc3 (hi : BitVec 4) (w : BitVec 16) (r : List Byte) :
    decode (enc3 (hi ++ 0xE#4) w ++ r) = decodeE hi w r := by
  obtain ⟨hlow, hhigh⟩ := firstByteE hi
  simp only [enc3, List.cons_append, List.nil_append, decode, hlow, hhigh, withOpWord, wordParts]

theorem decode_enc3_slave (nnn : BitVec 3) (w : BitVec 16) (r : List Byte) :
    decode (enc3 (nnn ++ 0b10110#5) w ++ r) = decode15 nnn w r := by
  obtain ⟨hlow, h4, hhigh⟩ := firstByte15 nnn
  simp only [enc3, List.cons_append, List.nil_append, decode, hlow, h4, hhigh, withOpWord, wordParts, if_true]

section TwoBytes

variable {w : BitVec 16}

/-- The low bits of the first byte are those of the word. -/
theorem lowByte_extract {k n : Nat} (h : k + n ≤ 8) : (w.extractLsb' 0 8).extractLsb' k n = w.extractLsb' k n := by
  rw [← low_append (w.extractLsb' 8 8) _ h, wordParts]

theorem decode_enc2_cons (hnib : (w.extractLsb' 0 8).extractLsb' 0 4 ∈ [0xC#4, 0xD#4, 0xF#4]) (r : List Byte) :
    decode (enc2 w ++ r) = (if w.extractLsb' 4 3 == 0b111#3 then decode3 else decode2) w r := by
  have h43 : (w.extractLsb' 0 8).extractLsb' 4 3 = w.extractLsb' 4 3 := lowByte_extract (by decide)
  simp only [List.mem_cons, List.not_mem_nil, or_false] at hnib
  obtain h | h | h := hnib
  all_goals simp only [enc2, List.cons_append, List.nil_append, decode, h, h43, withHalf, wordParts]

theorem decode_enc2_format4 {op : BitVec 4} {i : Size} (hi : i.assigned = true) (hop : op.extractLsb' 0 2 ≠ 0b11#2)
    (hw : w.extractLsb' 0 4 = op.extractLsb' 0 2 ++ i.toBits) (r : List Byte) :
    decode (enc2 w ++ r) = decode4 w r := by
  have hnib : (w.extractLsb' 0 8).extractLsb' 0 4 ∉ [0xA#4, 0x2#4, 0x6#4, 0xE#4, 0xC#4, 0xD#4, 0xF#4] := by
    rw [lowByte_extract (by decide), hw]
    generalize op.extractLsb' 0 2 = x at hop
    revert x
    cases i
    all_goals revert hi; decide
  simp only [List.mem_cons, List.not_mem_nil, or_false, not_or] at hnib
  obtain ⟨hA, h2, h6, hE, hC, hD, hF⟩ := hnib
  simp only [enc2, List.cons_append, List.nil_append, decode]
  rw [withHalf, wordParts]

end TwoBytes

/-! ### The beginning of each format -/

theorem decode_format0 {b : Byte} (h : b.extractLsb' 0 4 = 0xA#4) (bs : List Byte) :
    decode (b :: bs) = decode0 (b.extractLsb' 4 4) bs := by simp only [decode, h]

theorem decode_format1 {b : Byte} (h : b.extractLsb' 0 4 = 0x2#4) (bs : List Byte) :
    decode (b :: bs) = decode1 (b.extractLsb' 4 4) bs := by simp only [decode, h]

theorem decode_format19 (n : BitVec 3) (bs : List Byte) :
    decode ((n ++ 0b00110#5) :: bs) = .ok (.undef19 n, bs) := by
  obtain ⟨hlow, h4, hhigh⟩ : (n ++ 0b00110#5 : Byte).extractLsb' 0 4 = 0x6#4
      ∧ (n ++ 0b00110#5 : Byte).getLsbD 4 = false ∧ (n ++ 0b00110#5 : Byte).extractLsb' 5 3 = n := by
    revert n; decide
  simp only [decode, hlow, h4, hhigh, Bool.false_eq_true, if_false, fin]

theorem withDisp_encode (k : Disp → Instr) (d : Disp) (r : List Byte) :
    withDisp k (d.encode ++ r) = .ok (k d, r) := by rw [withDisp, parseDisp_encode]

section Operands

variable {op : BitVec 4} {n1 n2 : Nat} {g1 g2 : Gen} {r : List Byte}

theorem decode_encTwo (hi : BitVec 4) {i : BitVec 2} :
    decode (encTwo (hi ++ 0xE#4) op i n1 g1 n2 g2 ++ r)
      = decodeE hi (OpWord.toBits ⟨g1.code, g2.code, op, i⟩) (tail2 n1 g1 n2 g2 ++ r) := by
  rw [encTwo, List.append_assoc, decode_enc3]

theorem decode_encTwo_slave (nnn : BitVec 3) {i : BitVec 2} :
    decode (encTwo (nnn ++ 0b10110#5) op i n1 g1 n2 g2 ++ r)
      = decode15 nnn (OpWord.toBits ⟨g1.code, g2.code, op, i⟩) (tail2 n1 g1 n2 g2 ++ r) := by
  rw [encTwo, List.append_assoc, decode_enc3_slave]

theorem decode_enc4 {i : Size} (hi : i.assigned = true) (hop : op.extractLsb' 0 2 ≠ 0b11#2) :
    decode (enc4 op i n1 g1 n2 g2 ++ r)
      = decode4 (OpWord.toBits ⟨g1.code, g2.code, op, i.toBits⟩) (tail2 n1 g1 n2 g2 ++ r) := by
  rw [enc4, List.append_assoc, decode_enc2_format4 hi hop]
  ext k hk
  simp [OpWord.toBits]
  grind

end Operands

/-- The low nibble of a Format 2 or 3 word is that of no other format, since 10 is no size there (R182). -/
theorem short_nibble {i : Size} (hi : i.assigned = true) : 0b11#2 ++ i.toBits ∈ [0xC#4, 0xD#4, 0xF#4] := by
  cases i
  all_goals revert hi; decide

/-- The parts of a Format 2 word (R213). -/
theorem encQ_parts (c : BitVec 5) (q : BitVec 4) (op : BitVec 3) (i : BitVec 2) {w : BitVec 16}
    (hw : w = c ++ q ++ op ++ 0b11#2 ++ i) : w.extractLsb' 0 4 = 0b11#2 ++ i ∧ w.extractLsb' 4 3 = op
      ∧ w.extractLsb' 7 4 = q ∧ w.extractLsb' 11 5 = c ∧ w.extractLsb' 0 2 = i := by
  subst hw
  refine ⟨?_, ?_, ?_, ?_, ?_⟩
  all_goals
    ext k hk
    simp
    grind

/-- A Format 3 word is a Format 2 one with opcode 111 (R182). -/
theorem encG_word (c : BitVec 5) (op : BitVec 4) (i : BitVec 2) :
    c ++ op ++ 0b11111#5 ++ i = c ++ op ++ 0b111#3 ++ 0b11#2 ++ i := by
  have hop : c ++ op ++ 0b111#3 ++ 0b11#2 = c ++ op ++ 0b11111#5 := BitVec.append_assoc
  exact congrArg (· ++ i) hop.symm

theorem decode_format2 {op : BitVec 3} {q : BitVec 4} {i : Size} {g : Gen} {r : List Byte} (hi : i.assigned = true)
    (hop : op ≠ 0b111#3) :
    decode (encQ op q i g ++ r) = decode2 (g.code ++ q ++ op ++ 0b11#2 ++ i.toBits) (tail1 i.bytes g ++ r) := by
  obtain ⟨hlow, hop', -⟩ := encQ_parts g.code q op i.toBits rfl
  rw [encQ, List.append_assoc, decode_enc2_cons (by rw [lowByte_extract (by decide), hlow]; exact short_nibble hi),
    hop', if_neg (by simpa using hop)]

theorem decode_format3 {c : BitVec 5} {op : BitVec 4} {i : Size} {r : List Byte} (hi : i.assigned = true) :
    decode (enc2 (c ++ op ++ 0b11111#5 ++ i.toBits) ++ r) = decode3 (c ++ op ++ 0b111#3 ++ 0b11#2 ++ i.toBits) r := by
  obtain ⟨hlow, hop', -⟩ := encQ_parts c op 0b111#3 i.toBits rfl
  rw [encG_word, decode_enc2_cons (by rw [lowByte_extract (by decide), hlow]; exact short_nibble hi), hop']
  rfl

/-- The parts of a string instruction's word (R217, R218). -/
theorem encStr_parts (p : BitVec 6) (uw : Match) (back : Bool) (t : BitVec 1) (op : BitVec 4) (i : BitVec 2)
    {w : BitVec 16} (hw : w = p.extractLsb' 1 5 ++ uw.toBits ++ BitVec.ofBool back ++ t ++ p.extractLsb' 0 1 ++ op ++ i) :
    w.extractLsb' 2 4 = op ∧ w.extractLsb' 0 2 = i ∧ w.getLsbD 7 = t.getLsbD 0 ∧ strOpts w = ⟨uw, back, p⟩ := by
  have hback : w.getLsbD 8 = back := by
    subst hw
    simp only [BitVec.getLsbD_append]
    simp
  have huw : w.extractLsb' 9 2 = uw.toBits := by
    subst hw
    ext k hk
    simp
    grind
  have hpad : w.extractLsb' 11 5 ++ w.extractLsb' 6 1 = p := by
    subst hw
    ext k hk
    simp
    grind
  refine ⟨?_, ?_, ?_, ?_⟩
  case refine_4 => rw [strOpts, hback, huw, hpad, Match.ofBits_toBits]
  all_goals subst hw
  case refine_3 =>
    simp only [BitVec.getLsbD_append]
    rfl
  all_goals
    ext k hk
    simp
    grind

/-- The parts of a SETCFG word (R217). -/
theorem setcfg_parts (p : BitVec 6) (short op : BitVec 4) (i : BitVec 2) {w : BitVec 16}
    (hw : w = p.extractLsb' 1 5 ++ short ++ p.extractLsb' 0 1 ++ op ++ i) :
    w.extractLsb' 2 4 = op ∧ w.extractLsb' 0 2 = i ∧ w.extractLsb' 7 4 = short
      ∧ w.extractLsb' 11 5 ++ w.extractLsb' 6 1 = p := by
  have hpad : w.extractLsb' 11 5 = p.extractLsb' 1 5 ∧ w.extractLsb' 6 1 = p.extractLsb' 0 1 := by
    subst hw
    refine ⟨?_, ?_⟩
    all_goals
      ext k hk
      simp
      grind
  refine ⟨?_, ?_, ?_, by rw [hpad.1, hpad.2]; exact BitVec.extractLsb'_append_extractLsb'⟩
  all_goals
    subst hw
    ext k hk
    simp
    grind

/-- The parts of a CINV word (R227, R237). -/
theorem cinv_parts (c : BitVec 5) (a i d : Bool) (p : BitVec 1) {w : BitVec 16}
    (hw : w = c ++ 0#1 ++ BitVec.ofBool a ++ BitVec.ofBool i ++ BitVec.ofBool d ++ p ++ 0b1001#4 ++ 0b11#2) :
    undef14Word w = false ∧ w.extractLsb' 11 5 = c ∧ w.getLsbD 9 = a ∧ w.getLsbD 8 = i ∧ w.getLsbD 7 = d
      ∧ w.extractLsb' 6 1 = p := by
  have hbits : w.getLsbD 10 = false ∧ w.getLsbD 9 = a ∧ w.getLsbD 8 = i ∧ w.getLsbD 7 = d := by
    subst hw
    simp only [BitVec.getLsbD_append]
    simp
  have hop : opOf w = 0b1001#4 ∧ w.extractLsb' 0 2 = 0b11#2 ∧ w.extractLsb' 11 5 = c ∧ w.extractLsb' 6 1 = p := by
    subst hw
    unfold opOf
    refine ⟨?_, BitVec.extractLsb'_append_eq_right, ?_, ?_⟩
    all_goals
      ext k hk
      simp
      grind
  obtain ⟨h10, ha, hi, hd⟩ := hbits
  obtain ⟨hop, hlow, hc, hp⟩ := hop
  exact ⟨by simp only [undef14Word, h10, hop, hlow]; rfl, hc, ha, hi, hd, hp⟩

/-- The parts of a word of LCR or SCR (R228). -/
theorem creg_parts (c : BitVec 5) (creg op : BitVec 4) (p : BitVec 1) (i : BitVec 2) {w : BitVec 16}
    (hw : w = c ++ creg ++ p ++ op ++ i) : (OpWord.ofBits w).g1 = c ∧ (OpWord.ofBits w).op = op
      ∧ (OpWord.ofBits w).i = i ∧ w.extractLsb' 7 4 = creg ∧ w.extractLsb' 6 1 = p := by
  subst hw
  simp only [OpWord.ofBits]
  refine ⟨?_, ?_, ?_, ?_, ?_⟩
  all_goals
    ext k hk
    simp
    grind

/-! ### Words that select no instruction -/

section Undefined

variable {w : BitVec 16} {bs : List Byte}

theorem decode5_undefined (h : undef5Word w = true) : decode5 w bs = .ok (.undef5 w, bs) := by
  have hparts : (w.extractLsb' 2 4).extractLsb' 2 2 = w.extractLsb' 4 2 := by
    ext k hk
    have hin : 2 + k < 4 := by omega
    simp [hin, ← Nat.add_assoc]
  have hsize : Size.ofBits (w.extractLsb' 0 2) = .b → w.extractLsb' 0 2 = 0#2 := by
    generalize w.extractLsb' 0 2 = c
    revert c
    decide
  simp only [undef5Word, opOf, ← hparts, Bool.or_eq_true, Bool.and_eq_true, bne_iff_ne, ne_eq] at h
  unfold decode5
  dsimp only
  split
  case h_1 hop | h_2 hop | h_4 hop =>
    rw [hop] at h
    obtain h | ⟨⟨-, ht⟩, hi⟩ := h
    · exact absurd h (by decide)
    · rw [ht, if_neg (by decide), if_neg fun hb => hi (hsize hb)]
      rfl
  case h_3 hop =>
    rw [hop] at h
    simp at h
  case h_5 => rfl

theorem decode6_undefined (h : (opOf w == 0b0100#4 || opOf w == 0b1010#4) = true) :
    decode6 w bs = .ok (.undef6 w, bs) := by
  simp only [Bool.or_eq_true, beq_iff_eq] at h
  unfold decode6 OpWord.ofBits
  obtain h | h := h
  all_goals
    rw [opOf] at h
    simp only [h]
    rfl

theorem decode7_undefined (h : (opOf w == 0b1010#4) = true) : decode7 w bs = .ok (.undef7 w, bs) := by
  rw [beq_iff_eq, opOf] at h
  simp only [decode7, OpWord.ofBits, h]
  rfl

theorem decode8_undefinedSel (h : undef8Word w = true) : decode8 0b10#2 w bs = .ok (.undef8sel w, bs) := by
  simp only [undef8Word, Bool.and_eq_true, bne_iff_ne, ne_eq] at h
  obtain ⟨⟨h2, hmovsu⟩, hmovus⟩ := h
  have hsel : w.extractLsb' 2 1 = 1#1 := by rw [← ofBool_getLsbD, h2]; rfl
  simp only [decode8, hsel]
  exact (if_neg hmovsu).trans (if_neg hmovus)

theorem decode8_undefinedOp (h : w.getLsbD 2 = true) : decode8 0b11#2 w bs = .ok (.undef8op w, bs) := by
  have hsel : w.extractLsb' 2 1 = 1#1 := by rw [← ofBool_getLsbD, h]; rfl
  simp only [decode8, hsel]
  rfl

theorem decode150_undefined (h : (w.extractLsb' 4 2 != 0#2) = true) : decode150 w bs = .ok (.undef150 w, bs) := by
  have hparts : (w.extractLsb' 2 4).extractLsb' 2 2 = w.extractLsb' 4 2 := by
    ext k hk
    have hin : 2 + k < 4 := by omega
    simp [hin, ← Nat.add_assoc]
  rw [← hparts] at h
  unfold decode150 OpWord.ofBits
  dsimp only
  split
  case h_5 => rfl
  all_goals
    next hop =>
    rw [hop] at h
    exact absurd h (by decide)

theorem decode3_undefined {c : BitVec 5} {op : BitVec 4} {i : Size} (h : undef3Op op = true) :
    decode3 (c ++ op ++ 0b111#3 ++ 0b11#2 ++ i.toBits) bs = .ok (.undef3 c op i, bs) := by
  obtain ⟨-, -, hop, hc, hs⟩ := encQ_parts c op 0b111#3 i.toBits rfl
  simp only [decode3, hop, hc, hs, Size.ofBits_toBits]
  split
  case h_8 => rfl
  all_goals exact absurd h (by decide)

end Undefined

theorem decode_encG {op : BitVec 4} {i : Size} {n : Nat} {g : Gen} {r : List Byte} {I : Gen → Instr}
    (h : (i.assigned && g.wf n) = true)
    (hk : ∀ w bs, w.extractLsb' 7 4 = op → Size.ofBits (w.extractLsb' 0 2) = i →
      decode3 w bs = one n (w.extractLsb' 11 5) bs fun g => fin (I g)) :
    decode (encG op i n g ++ r) = .ok (I g, r) := by
  obtain ⟨hi, hg⟩ := Bool.and_eq_true_iff.mp h
  obtain ⟨-, -, hop, hc, hs⟩ := encQ_parts g.code op 0b111#3 i.toBits rfl
  rw [encG, List.append_assoc, decode_format3 hi, hk _ _ hop (by rw [hs, Size.ofBits_toBits]), hc, one_encode hg]
  rfl

theorem decode_encQ {op : BitVec 3} {q : BitVec 4} {i : Size} {g : Gen} {r : List Byte} {I : Gen → Instr}
    (h : (i.assigned && g.wf i.bytes) = true)
    (hk : ∀ w bs, w.extractLsb' 4 3 = op → w.extractLsb' 7 4 = q → Size.ofBits (w.extractLsb' 0 2) = i →
      decode2 w bs = one i.bytes (w.extractLsb' 11 5) bs fun g => fin (I g)) (hop : op ≠ 0b111#3 := by decide) :
    decode (encQ op q i g ++ r) = .ok (I g, r) := by
  obtain ⟨hi, hg⟩ := Bool.and_eq_true_iff.mp h
  obtain ⟨-, hop', hq, hc, hs⟩ := encQ_parts g.code q op i.toBits rfl
  rw [decode_format2 hi hop, hk _ _ hop' hq (by rw [hs, Size.ofBits_toBits]), hc, one_encode hg]
  rfl

theorem decode_encStr {op : BitVec 4} {t : BitVec 1} {i : Size} {o : StrOpts} {r : List Byte} {x : Instr}
    (hk : ∀ w, w.extractLsb' 2 4 = op → Size.ofBits (w.extractLsb' 0 2) = i → w.getLsbD 7 = t.getLsbD 0 →
      strOpts w = o → decode5 w r = .ok (x, r)) :
    decode (encStr op t i o ++ r) = .ok (x, r) := by
  obtain ⟨hop, hi, ht, ho⟩ := encStr_parts o.pad o.uw o.back t op i.toBits rfl
  exact (decode_enc3 0x0#4 _ _).trans (hk _ hop (by rw [hi, Size.ofBits_toBits]) ht ho)

theorem decode12_slot {op : BitVec 4} (hop : slot12Op op = true) {f : FSize} {p : BitVec 1} {c1 c2 : BitVec 5}
    {bs : List Byte} : decode12 (OpWord.toBits ⟨c1, c2, op, p ++ f.toBits⟩) bs
      = two f.bytes f.bytes c1 c2 bs fun g1 g2 => fin (.slot12 op f p g1 g2) := by
  simp only [decode12, OpWord.ofBits_toBits, OpWord.toBits_bit0, OpWord.toBits_extract_bit1, FSize.ofBit_append,
    BitVec.extractLsb'_append_eq_left]
  split
  case h_5 => rfl
  all_goals exact absurd hop (by decide)

theorem decode155_slot {op : BitVec 4} (hop : slot155Op op = true) {c : CSize} {p : BitVec 1} {c1 c2 : BitVec 5}
    {bs : List Byte} : decode155 (OpWord.toBits ⟨c1, c2, op, p ++ c.toBits⟩) bs
      = two c.bytes c.bytes c1 c2 bs fun g1 g2 => fin (.slot155 op c p g1 g2) := by
  simp only [decode155, OpWord.ofBits_toBits, OpWord.toBits_bit0, OpWord.toBits_extract_bit1, CSize.ofBit_append,
    BitVec.extractLsb'_append_eq_left]
  split
  case h_11 => rfl
  all_goals exact absurd hop (by decide)

/-- Settles O1: each constructor's bytes are followed down the decode tree to the arm that answers it. -/
theorem decodeOfEncode : Obligations.DecodeOfEncode := by
  intro i r h
  cases i
  case beq d | bne d | bcs d | bcc d | bhi d | bls d | bgt d | ble d | bfs d | bfc d | blo d | bhs d | blt d | bge d | br d
      | bnever d => exact (decode_format0 rfl _).trans (withDisp_encode _ d r)
  case bsr d | ret d | cxp d | rxp d | rett d | enter m d =>
    exact (decode_format1 rfl _).trans (withDisp_encode _ d r)
  case save | restore | exit | reti | nop | wait | dia | flag | svc | bpt => exact decode_format1 rfl _
  case movs i o | cmps i o | skps i o | movst o | cmpst o | skpst o =>
    exact decode_encStr fun w hop hi ht ho => by simp only [decode5, hop, hi, ht, ho]; rfl
  case setcfg i short pad =>
    obtain ⟨hop, hi, hshort, hpad⟩ := setcfg_parts pad short 0b0010#4 i.toBits rfl
    refine (decode_enc3 0x0#4 _ _).trans ?_
    simp only [decodeE, decode5, hop, hi, hshort, hpad, Size.ofBits_toBits, fin]
  case undef5 w => exact (decode_enc3 0x0#4 w r).trans (decode5_undefined h)
  case rot i g1 g2 | ash i g1 g2 | cbit i g1 g2 | cbiti i g1 g2 | lsh i g1 g2 | sbit i g1 g2 | sbiti i g1 g2 | neg i g1 g2
      | not i g1 g2 | subp i g1 g2 | abs i g1 g2 | com i g1 g2 | ibit i g1 g2 | addp i g1 g2 =>
    refine (decode_encTwo 0x4#4).trans ?_
    simp only [decodeE, decode6, OpWord.ofBits_toBits, Size.ofBits_toBits]
    exact two_encode h r _
  case undef6 w => exact (decode_enc3 0x4#4 w r).trans (decode6_undefined h)
  case movm i g1 g2 d | cmpm i g1 g2 d =>
    rw [encode, List.append_assoc]
    refine (decode_encTwo 0xC#4).trans ?_
    simp only [decodeE, decode7, OpWord.ofBits_toBits, Size.ofBits_toBits]
    exact (two_encode (Bool.and_eq_true_iff.mp h).1 _ _).trans (withDisp_encode _ d r)
  case inss i g1 g2 c | exts i g1 g2 c =>
    rw [encode, List.append_assoc]
    refine (decode_encTwo 0xC#4).trans ?_
    simp only [decodeE, decode7, OpWord.ofBits_toBits, Size.ofBits_toBits]
    exact two_encode h _ _
  case movxbw i g1 g2 | movzbw i g1 g2 | movzd i g1 g2 | movxd i g1 g2 | mul i g1 g2 | mei i g1 g2 | dei i g1 g2 |
      quo i g1 g2 | rem i g1 g2 | mod i g1 g2 | div i g1 g2 =>
    refine (decode_encTwo 0xC#4).trans ?_
    simp only [decodeE, decode7, OpWord.ofBits_toBits, Size.ofBits_toBits]
    exact two_encode h r _
  case undef7 w => exact (decode_enc3 0xC#4 w r).trans (decode7_undefined h)
  case extf i reg g1 g2 d =>
    rw [encode, List.append_assoc]
    refine (decode_encTwo 0x2#4).trans ?_
    simp only [decodeE, decode8, OpWord.ofBits_toBits, Size.ofBits_toBits, OpWord.toBits_extract_op,
      OpWord.toBits_extract_bit2, BitVec.extractLsb'_append_eq_left, BitVec.extractLsb'_append_eq_right]
    exact (two_encode (Bool.and_eq_true_iff.mp h).1 _ _).trans (withDisp_encode _ d r)
  case ins i reg g1 g2 d =>
    rw [encode, List.append_assoc]
    refine (decode_encTwo 0xA#4).trans ?_
    simp only [decodeE, decode8, OpWord.ofBits_toBits, Size.ofBits_toBits, OpWord.toBits_extract_op,
      OpWord.toBits_extract_bit2, BitVec.extractLsb'_append_eq_left, BitVec.extractLsb'_append_eq_right]
    exact (two_encode (Bool.and_eq_true_iff.mp h).1 _ _).trans (withDisp_encode _ d r)
  case cvtp i reg g1 g2 =>
    refine (decode_encTwo 0x6#4).trans ?_
    simp only [decodeE, decode8, OpWord.ofBits_toBits, Size.ofBits_toBits, OpWord.toBits_extract_op,
      OpWord.toBits_extract_bit2, BitVec.extractLsb'_append_eq_left, BitVec.extractLsb'_append_eq_right]
    exact two_encode h r _
  case check i reg g1 g2 =>
    refine (decode_encTwo 0xE#4).trans ?_
    simp only [decodeE, decode8, OpWord.ofBits_toBits, Size.ofBits_toBits, OpWord.toBits_extract_op,
      OpWord.toBits_extract_bit2, BitVec.extractLsb'_append_eq_left, BitVec.extractLsb'_append_eq_right]
    exact two_encode h r _
  case index i reg g1 g2 =>
    refine (decode_encTwo 0x2#4).trans ?_
    simp only [decodeE, decode8, OpWord.ofBits_toBits, Size.ofBits_toBits, OpWord.toBits_extract_op,
      OpWord.toBits_extract_bit2, BitVec.extractLsb'_append_eq_left, BitVec.extractLsb'_append_eq_right]
    exact two_encode h r _
  case ffs i reg g1 g2 =>
    refine (decode_encTwo 0x6#4).trans ?_
    simp only [decodeE, decode8, OpWord.ofBits_toBits, Size.ofBits_toBits, OpWord.toBits_extract_op,
      OpWord.toBits_extract_bit2, BitVec.extractLsb'_append_eq_left, BitVec.extractLsb'_append_eq_right]
    exact two_encode h r _
  case movsu i g1 g2 | movus i g1 g2 =>
    refine (decode_encTwo 0xA#4).trans ?_
    simp only [decodeE, decode8, OpWord.ofBits_toBits, Size.ofBits_toBits, OpWord.toBits_extract_op,
      OpWord.toBits_extract_bit2]
    exact two_encode h r _
  case undef8sel w => exact (decode_enc3 0xA#4 w r).trans (decode8_undefinedSel h)
  case undef8op w => exact (decode_enc3 0xE#4 w r).trans (decode8_undefinedOp h)
  case movif f i g1 g2 | roundfi f i g1 g2 | truncfi f i g1 g2 | floorfi f i g1 g2 =>
    refine (decode_encTwo 0x3#4).trans ?_
    simp only [decodeE, decode9, OpWord.ofBits_toBits, OpWord.toBits_bit2, OpWord.toBits_extract_op, FSize.ofBit_append,
      Size.ofBits_toBits, BitVec.extractLsb'_append_eq_left]
    exact two_encode h r _
  case lfsr fi g pad =>
    rw [encode, List.append_assoc]
    refine (decode_enc3 0x3#4 _ _).trans ?_
    simp only [decodeE, decode9, OpWord.ofBits_toBits, OpWord.toBits_extract_fi, OpWord.toBits_extract_op,
      BitVec.extractLsb'_append_eq_left, BitVec.extractLsb'_append_eq_right, bits_append]
    exact one_encode h r _
  case sfsr fi pad g =>
    rw [encode, List.append_assoc]
    refine (decode_enc3 0x3#4 _ _).trans ?_
    simp only [decodeE, decode9, OpWord.ofBits_toBits, OpWord.toBits_extract_fi, OpWord.toBits_extract_op,
      BitVec.extractLsb'_append_eq_left, BitVec.extractLsb'_append_eq_right, bits_append]
    exact one_encode h r _
  case movlf fi g1 g2 | movfl fi g1 g2 =>
    refine (decode_encTwo 0x3#4).trans ?_
    simp only [decodeE, decode9, OpWord.ofBits_toBits, OpWord.toBits_extract_fi, OpWord.toBits_extract_op,
      BitVec.extractLsb'_append_eq_left, BitVec.extractLsb'_append_eq_right, bits_append]
    exact two_encode h r _
  case ccv3ic f i g1 g2 | ccv2ci f i g1 g2 | ccv1ci f i g1 g2 | ccv0ci f i g1 g2 =>
    refine (decode_encTwo_slave 0b001#3).trans ?_
    simp only [decode15, decode151, OpWord.ofBits_toBits, OpWord.toBits_bit2, OpWord.toBits_extract_op, CSize.ofBit_append,
      Size.ofBits_toBits, BitVec.extractLsb'_append_eq_left]
    exact two_encode h r _
  case lcsr fi g pad =>
    rw [encode, List.append_assoc]
    refine (decode_enc3_slave 0b001#3 _ _).trans ?_
    simp only [decode15, decode151, OpWord.ofBits_toBits, OpWord.toBits_extract_fi, OpWord.toBits_extract_op,
      BitVec.extractLsb'_append_eq_left, BitVec.extractLsb'_append_eq_right, bits_append]
    exact one_encode h r _
  case scsr fi pad g =>
    rw [encode, List.append_assoc]
    refine (decode_enc3_slave 0b001#3 _ _).trans ?_
    simp only [decode15, decode151, OpWord.ofBits_toBits, OpWord.toBits_extract_fi, OpWord.toBits_extract_op,
      BitVec.extractLsb'_append_eq_left, BitVec.extractLsb'_append_eq_right, bits_append]
    exact one_encode h r _
  case ccv5qd fi g1 g2 | ccv4dq fi g1 g2 =>
    refine (decode_encTwo_slave 0b001#3).trans ?_
    simp only [decode15, decode151, OpWord.ofBits_toBits, OpWord.toBits_extract_fi, OpWord.toBits_extract_op,
      BitVec.extractLsb'_append_eq_left, BitVec.extractLsb'_append_eq_right, bits_append]
    exact two_encode h r _
  case addf f p g1 g2 | movf f p g1 g2 | cmpf f p g1 g2 | slot11at3 f p g1 g2 | subf f p g1 g2 | negf f p g1 g2 |
      slot11at6 f p g1 g2 | slot11at7 f p g1 g2 | divf f p g1 g2 | slot11at9 f p g1 g2 | slot11at10 f p g1 g2 |
      slot11at11 f p g1 g2 | mulf f p g1 g2 | absf f p g1 g2 | slot11at14 f p g1 g2 | slot11at15 f p g1 g2 =>
    refine (decode_encTwo 0xB#4).trans ?_
    simp only [decodeE, decode11, OpWord.ofBits_toBits, OpWord.toBits_bit0, OpWord.toBits_extract_bit1,
      FSize.ofBit_append, BitVec.extractLsb'_append_eq_left]
    exact two_encode h r _
  case polyf f p g1 g2 | dotf f p g1 g2 | scalbf f p g1 g2 | logbf f p g1 g2 =>
    refine (decode_encTwo 0xF#4).trans ?_
    simp only [decodeE, decode12, OpWord.ofBits_toBits, OpWord.toBits_bit0, OpWord.toBits_extract_bit1,
      FSize.ofBit_append, BitVec.extractLsb'_append_eq_left]
    exact two_encode h r _
  case slot12 op f p g1 g2 =>
    obtain ⟨hop, hg⟩ := Bool.and_eq_true_iff.mp h
    exact (decode_encTwo 0xF#4).trans ((decode12_slot hop).trans (two_encode hg r _))
  case cinv a i d p g =>
    obtain ⟨hdef, hc, ha, hi, hd, hp⟩ := cinv_parts g.code a i d p rfl
    rw [encode, List.append_assoc]
    refine (decode_enc3 0x1#4 _ _).trans ?_
    simp only [decodeE, decode14, hdef, hc, ha, hi, hd, hp, Bool.false_eq_true, if_false]
    exact one_encode h r _
  case undef14 w => exact (decode_enc3 0x1#4 w r).trans (if_pos h)
  case catst0 w | catst1 w =>
    rw [Instr.wf, beq_iff_eq, opOf] at h
    refine (decode_enc3_slave 0b000#3 w r).trans ?_
    simp only [decode15, decode150, OpWord.ofBits, h, fin]
  case undef150 w => exact (decode_enc3_slave 0b000#3 w r).trans (decode150_undefined h)
  case lcr creg i p g =>
    obtain ⟨hc, hop, hi, hcreg, hp⟩ := creg_parts g.code creg 0b0010#4 p i rfl
    rw [encode, List.append_assoc]
    refine (decode_enc3_slave 0b000#3 _ _).trans ?_
    simp only [decode15, decode150, hc, hop, hi, hcreg, hp]
    exact one_encode h r _
  case scr creg i p g =>
    obtain ⟨hc, hop, hi, hcreg, hp⟩ := creg_parts g.code creg 0b0011#4 p i rfl
    rw [encode, List.append_assoc]
    refine (decode_enc3_slave 0b000#3 _ _).trans ?_
    simp only [decode15, decode150, hc, hop, hi, hcreg, hp]
    exact one_encode h r _
  case ccal0 c p g1 g2 | cmov0 c p g1 g2 | ccmp0 c p g1 g2 | ccmp1 c p g1 g2 | ccal1 c p g1 g2 | cmov2 c p g1 g2 |
      ccal3 c p g1 g2 | cmov3 c p g1 g2 | ccal2 c p g1 g2 | cmov1 c p g1 g2 =>
    refine (decode_encTwo_slave 0b101#3).trans ?_
    simp only [decode15, decode155, OpWord.ofBits_toBits, OpWord.toBits_bit0, OpWord.toBits_extract_bit1,
      CSize.ofBit_append, BitVec.extractLsb'_append_eq_left]
    exact two_encode h r _
  case slot155 op c p g1 g2 =>
    obtain ⟨hop, hg⟩ := Bool.and_eq_true_iff.mp h
    exact (decode_encTwo_slave 0b101#3).trans ((decode155_slot hop).trans (two_encode hg r _))
  case undef10 w => exact decode_enc3 0x7#4 w r
  case undef13 w => exact decode_enc3 0x9#4 w r
  case undef16 w => exact decode_enc3 0x5#4 w r
  case undef17 w => exact decode_enc3 0xD#4 w r
  case undef18 w => exact decode_enc3 0x8#4 w r
  case undef56 w => exact decode_enc3_slave 0b010#3 w r
  case undef76 w => exact decode_enc3_slave 0b011#3 w r
  case undef96 w => exact decode_enc3_slave 0b100#3 w r
  case undefD6 w => exact decode_enc3_slave 0b110#3 w r
  case undefF6 w => exact decode_enc3_slave 0b111#3 w r
  case undef19 n => exact decode_format19 n r
  case addq i q g | cmpq i q g | movq i q g =>
    exact decode_encQ h fun w bs hop hq hi => by simp only [decode2, hop, hq, hi]
  case spr i a g => exact decode_encQ h fun w bs hop hq hi => by simp only [decode2, hop, hq, hi, AReg.ofBits_toBits]
  case lpr i a g =>
    exact decode_encQ h fun w bs hop hq hi => by simp only [decode2, hop, hq, hi, AReg.ofBits_toBits]; rfl
  case scond i c g =>
    exact decode_encQ h fun w bs hop hq hi => by simp only [decode2, hop, hq, hi, Cond.ofBits_toBits]
  case acb i q g d =>
    obtain ⟨hwf, -⟩ := Bool.and_eq_true_iff.mp h
    obtain ⟨hi, hg⟩ := Bool.and_eq_true_iff.mp hwf
    obtain ⟨-, hop, hq, hc, hs⟩ := encQ_parts g.code q 4#3 i.toBits rfl
    rw [encode, List.append_assoc]
    refine (decode_format2 hi (by decide)).trans ?_
    simp only [decode2, hop, hq, hc, hs, Size.ofBits_toBits]
    exact (one_encode hg _ _).trans (withDisp_encode _ d r)
  case cxpd i g | bicpsr i g | jump i g | bispsr i g | adjsp i g | jsr i g | casei i g =>
    exact decode_encG h fun w bs hop hi => by simp only [decode3, hop, hi]
  case undef3 gen op i =>
    obtain ⟨hi, hop⟩ := Bool.and_eq_true_iff.mp h
    exact (decode_format3 hi).trans (decode3_undefined hop)
  case add i g1 g2 | cmp i g1 g2 | bic i g1 g2 | addc i g1 g2 | mov i g1 g2 | or i g1 g2 | sub i g1 g2 | addr i g1 g2
      | and i g1 g2 | subc i g1 g2 | tbit i g1 g2 | xor i g1 g2 =>
    obtain ⟨hi, hg⟩ := Bool.and_eq_true_iff.mp h
    refine (decode_enc4 hi (by decide)).trans ?_
    simp only [decode4, OpWord.ofBits_toBits, Size.ofBits_toBits]
    exact two_encode hg r _

end Sys2Proof
end

section
/-! SUPPORT. The bits of a value in memory are those of its bytes. -/

namespace Sys2Proof.Machine

theorem getLsbD_ofBytes (bs : List Byte) {k : Nat} (hk : k < 64) :
    (ofBytes bs).getLsbD k = (bs.getD (k / 8) 0#8).getLsbD (k % 8) := by
  have hbit : k % 8 < 8 := Nat.mod_lt _ (by decide)
  have hplace : 8 * (k / 8) + k % 8 = k := Nat.div_add_mod k 8
  rw [← ofBytes_lane (by omega), BitVec.getLsbD_setWidth, BitVec.getLsbD_ushiftRight, hplace, decide_eq_true hbit,
    Bool.true_and]

theorem load_bit (s : State) (a : Word) {n k : Nat} (hn : k < 8 * n) (hk : k < 64) :
    (s.load a n).getLsbD k = (memGet s.mem (a + BitVec.ofNat 32 (k / 8)).toNat).getLsbD (k % 8) := by
  have hj : k / 8 < n := by omega
  rw [State.load, getLsbD_ofBytes _ hk, bytesFrom_eq_map]
  congr 1
  simp [List.getD_eq_getElem?_getD, hj]

/-- A bit's byte is the floor of its offset by eight, its place the remainder (R370). -/
theorem bit_split (o : Int) : o.fdiv 8 * 8 + ((o.fmod 8).toNat : Int) = o ∧ (o.fmod 8).toNat < 8 := by
  rw [Int.fdiv_eq_ediv_of_nonneg _ (by decide), Int.fmod_eq_emod_of_nonneg _ (by decide)]
  omega

theorem bitPlace_lt (o : Int) : bitPlace o < 8 := (bit_split o).2

/-- A bit of memory read with its byte (R371). -/
theorem load_bitByte (s : State) (a : Word) (o : Int) :
    (s.load (bitByte a o) 1).getLsbD (bitPlace o) = bitAt s o (.mem a) := by
  have hplace := bitPlace_lt o
  rw [load_bit s _ (by omega) (by omega), Nat.div_eq_of_lt hplace, Nat.mod_eq_of_lt hplace,
    BitVec.add_zero]
  rfl

theorem bitByte_add (a : Word) (o : Int) (k : Nat) :
    bitByte a (o + k) = bitByte a o + BitVec.ofNat 32 ((bitPlace o + k) / 8) ∧ bitPlace (o + k) = (bitPlace o + k) % 8
    := by
  obtain ⟨ho, hlo⟩ := bit_split o
  obtain ⟨hk, hlk⟩ := bit_split (o + k)
  have hbyte : (o + k).fdiv 8 = o.fdiv 8 + ((bitPlace o + k) / 8 : Nat) := by unfold bitPlace; omega
  refine ⟨?_, by unfold bitPlace; omega⟩
  rw [bitByte, hbyte, BitVec.ofInt_add, ← BitVec.add_assoc, BitVec.ofInt_natCast]
  rfl

theorem getLsbD_lowMask {len k : Nat} (hk : k < 64) : (lowMask len).getLsbD k = decide (k < len) := by
  rw [lowMask, BitVec.getLsbD_ofNat, Nat.testBit_two_pow_sub_one, decide_eq_true hk, Bool.true_and]

end Sys2Proof.Machine
end

section
/-! PROOF. A bit field in memory is the run of its bits (R400). -/

namespace Sys2Proof.Machine

/-- Settles O38: the bytes of a field of at most 32 bits fit the 64 bits that are read. -/
theorem fieldIsItsBits : Obligations.FieldIsItsBits := by
  intro s a o len k h1 h32
  have hplace := bitPlace_lt o
  obtain ⟨hbyte, hbit⟩ := bitByte_add a o k
  have hfield : (fieldAt s o len (.mem a)).getLsbD k
      = ((s.load (bitByte a o) (fieldBytes o len)).getLsbD (bitPlace o + k) && (lowMask len).getLsbD k) := by
    rw [fieldAt, BitVec.getLsbD_and, BitVec.getLsbD_ushiftRight]
    rfl
  by_cases hk : k < len
  · have hbytes : bitPlace o + k < 8 * fieldBytes o len := by
      change (o.fmod 8).toNat + k < 8 * (((o.fmod 8).toNat + len + 7) / 8)
      omega
    rw [hfield, load_bit s _ hbytes (by omega), getLsbD_lowMask (by omega), decide_eq_true hk, bitAt, hbyte, hbit,
      Bool.and_true, Bool.true_and]
  · have hmask : (lowMask len).getLsbD k = false := by
      by_cases h64 : k < 64
      · rw [getLsbD_lowMask h64, decide_eq_false hk]
      · exact BitVec.getLsbD_of_ge _ _ (by omega)
    rw [hfield, hmask, decide_eq_false hk, Bool.and_false, Bool.false_and]

end Sys2Proof.Machine
end

section
/-! PROOF. Bits tested and changed at a signed offset from a base, in a register or in memory (R370 to R376). -/

namespace Sys2Proof.Machine

/-- Two ways to a value, and what follows them both. -/
theorem Reaches.join {α β : Type} {c : Prop} [Decidable c] {m m' : M α} {k : α → M β} {u : State}
    {P : α → State → Prop} {Q : β → State → Prop} (h : Reaches (if c then m else m') u P)
    (hk : ∀ a u', P a u' → Reaches (k a) u' Q) : Reaches (if c then m >>= k else m' >>= k) u Q := by
  by_cases hc : c
  · rw [if_pos hc] at h ⊢
    exact h.bind hk
  · rw [if_neg hc] at h ⊢
    exact h.bind hk

theorem insideRegister_one (o : Int) : (decide (0 ≤ o) && decide (o < 32)) = insideRegister o 1 := by
  have hlast : o < 32 ↔ o + (1 : Nat) ≤ 32 := by omega
  rw [insideRegister, decide_eq_decide.mpr hlast]

section Registers

variable {w : Word} {o : Int} (hin : insideRegister o 1 = true)
include hin

theorem registerBit_plain (u : State) :
    Reaches (registerBit w o) u fun b u' => b = w.getLsbD o.toNat ∧ u' = u := by
  rw [registerBit, insideRegister_one, if_pos hin]
  exact Reaches.pure ⟨rfl, rfl⟩

theorem registerWithBit_plain (f : Bool → Bool) (u : State) :
    Reaches (registerWithBit w o f) u fun v u' => v = setBit32 w o.toNat (f (w.getLsbD o.toNat)) ∧ u' = u := by
  rw [registerWithBit, insideRegister_one, if_pos hin]
  exact Reaches.pure ⟨rfl, rfl⟩

end Registers

section Memory

variable {u : State} (h : u.ram = true) (x : Word)
include h

theorem memReadLocked_plain : Reaches (memReadLocked x) u fun v u' => v = u.load x 1 ∧ u' = u := by
  refine Reaches.bind (drain_plain u) ?_
  rintro _ _ rfl
  exact Reaches.getS fun _ _ _ _ => readRef_plain h _ x 1

theorem memWriteLocked_plain (v : Quad) : Reaches (memWriteLocked x v) u fun _ u' => u' = u.put x 1 v := by
  refine Reaches.getS fun _ _ _ _ => Reaches.bind (writeRef_plain h _ x 1 v) ?_
  rintro _ _ rfl
  exact serialize_plain _

/-- The two accesses to a byte of which a bit is changed, interlocked or not (R373, R375). -/
theorem readByte_plain (locked : Bool) :
    Reaches (if locked then memReadLocked x else memReadRmw x 1) u fun v u' => v = u.load x 1 ∧ u' = u := by
  cases locked with
  | true => exact memReadLocked_plain h x
  | false => exact memReadRmw_plain h x 1

theorem writeByte_plain (locked : Bool) (v : Quad) :
    Reaches (if locked then memWriteLocked x v else memWrite x 1 v) u fun _ u' => u' = u.put x 1 v := by
  cases locked with
  | true => exact memWriteLocked_plain h x v
  | false => exact memWrite_plain h x 1 v

end Memory

section Completes

variable {i : Size} {g1 g2 : Gen} {s : State} (hi : i ≠ .u) (hs : s.plain = true) (h1 : legal .read g1 = true)
  (h2 : legal .regaddr g2 = true)
  (hin : insideBase (baseOf (afterSrc s i.bytes g1) g2) ((src s i.bytes g1).setWidth i.bits).toInt 1 = true)
include hi hs h1 h2 hin

/-- TBITi (R371). -/
theorem tbit_completes : Completes (.tbit i g1 g2) s ((afterSrc s i.bytes g1).withPsr
    (setF (bitAt (afterSrc s i.bytes g1) ((src s i.bytes g1).setWidth i.bits).toInt
      (baseOf (afterSrc s i.bytes g1) g2)))) := by
  have hram : (afterSrc s i.bytes g1).ram = true := (afterSrc_ram s i.bytes g1).trans (plain_ram hs)
  refine completes_of_reaches (by rfl) (by exact enc4_length ..) hs
    (check_none rfl hi (legal_two h1 h2) (.inl rfl) rfl rfl) ?_
  refine Reaches.bind (readInt_plain (plain_ram hs) i h1) ?_
  rintro _ _ ⟨rfl, rfl⟩
  refine Reaches.bind (baseOp_plain hram h2) ?_
  rintro _ _ ⟨rfl, rfl⟩
  generalize baseOf (afterSrc s i.bytes g1) g2 = b at hin ⊢
  cases b with
  | reg k =>
    refine Reaches.getS fun _ _ _ _ => ?_
    refine Reaches.bind (registerBit_plain hin _) ?_
    rintro _ _ ⟨rfl, rfl⟩
    refine Reaches.bind (Reaches.updPsr (Q := fun _ u' => u' = _) rfl) ?_
    rintro _ _ rfl
    exact Reaches.pure ⟨rfl, rfl⟩
  | mem a =>
    refine Reaches.bind (memRead_plain hram _ 1) ?_
    rintro _ _ ⟨rfl, rfl⟩
    rw [load_bitByte]
    refine Reaches.bind (Reaches.updPsr (Q := fun _ u' => u' = _) rfl) ?_
    rintro _ _ rfl
    exact Reaches.pure ⟨rfl, rfl⟩

/-- The five instructions that change the bit (R372 to R376). -/
theorem testBit_completes {I : Instr} {locked : Bool} {f : Bool → Bool} (hexec : exec I s = testBit locked f i g1 g2 s)
    (hlen : (encode I).length = 3 + (g1.length i.bytes + g2.length 4)) :
    Completes I s ((bitPut (afterSrc s i.bytes g1) ((src s i.bytes g1).setWidth i.bits).toInt f
      (baseOf (afterSrc s i.bytes g1) g2)).withPsr (setF (bitAt (afterSrc s i.bytes g1)
        ((src s i.bytes g1).setWidth i.bits).toInt (baseOf (afterSrc s i.bytes g1) g2)))) := by
  have hram : (afterSrc s i.bytes g1).ram = true := (afterSrc_ram s i.bytes g1).trans (plain_ram hs)
  refine completes_of_reaches hexec hlen hs (check_none rfl hi (legal_two h1 h2) (.inl rfl) rfl rfl) ?_
  refine Reaches.bind (readInt_plain (plain_ram hs) i h1) ?_
  rintro _ _ ⟨rfl, rfl⟩
  refine Reaches.bind (baseOp_plain hram h2) ?_
  rintro _ _ ⟨rfl, rfl⟩
  generalize baseOf (afterSrc s i.bytes g1) g2 = b at hin ⊢
  cases b with
  | reg k =>
    refine Reaches.getS fun _ _ _ _ => ?_
    refine Reaches.bind (registerBit_plain hin _) ?_
    rintro _ _ ⟨rfl, rfl⟩
    refine Reaches.bind (registerWithBit_plain hin f _) ?_
    rintro _ _ ⟨rfl, rfl⟩
    refine Reaches.bind (setReg_plain k (fun _ => _) fun _ _ _ _ => rfl) ?_
    rintro _ _ rfl
    refine Reaches.bind (Reaches.updPsr (Q := fun _ u' => u' = _) rfl) ?_
    rintro _ _ rfl
    exact Reaches.pure ⟨rfl, rfl⟩
  | mem a =>
    refine Reaches.join (readByte_plain hram _ locked) ?_
    rintro _ _ ⟨rfl, rfl⟩
    refine Reaches.join (writeByte_plain hram _ locked _) ?_
    rintro _ _ rfl
    rw [load_bitByte]
    refine Reaches.bind (Reaches.updPsr (Q := fun _ u' => u' = _) rfl) ?_
    rintro _ _ rfl
    exact Reaches.pure ⟨rfl, rfl⟩

end Completes

/-- Settles O35: inside its base a bit is no free value, and the five instructions that change it are one with the
change as a parameter. -/
theorem bitInstructions : Obligations.BitInstructions := by
  intro i g1 g2 s hi hs h1 h2 s1 o hin old
  refine ⟨tbit_completes hi hs h1 h2 hin, fun p hp => ?_⟩
  simp only [List.mem_cons, List.not_mem_nil, or_false] at hp
  obtain rfl | rfl | rfl | rfl | rfl := hp
  all_goals exact testBit_completes hi hs h1 h2 hin rfl (encTwo_length ..)

end Sys2Proof.Machine
end

section
/-! PROOF. FFSi finds the first set bit (R377). -/

namespace Sys2Proof.Machine

section Search

variable {n : Nat} {b : BitVec n} {m : Nat}

theorem findSet_some {k j : Nat} (hk : k ≤ j) (hj : j < k + m) (hset : b.getLsbD j = true)
    (hfirst : ∀ x, k ≤ x → x < j → b.getLsbD x = false) : findSet b k m = some j := by
  induction m generalizing k with
  | zero => omega
  | succ m ih =>
    obtain rfl | hlt := Nat.eq_or_lt_of_le hk
    · rw [findSet, if_pos hset]
    · rw [findSet, hfirst k le_rfl hlt, if_neg (by decide)]
      exact ih hlt (by omega) fun x hx => hfirst x (by omega)

theorem findSet_none {k : Nat} (hclear : ∀ x, k ≤ x → x < k + m → b.getLsbD x = false) : findSet b k m = none := by
  induction m generalizing k with
  | zero => rfl
  | succ m ih =>
    rw [findSet, hclear k le_rfl (by omega), if_neg (by decide)]
    exact ih fun x hx hm => hclear x (by omega) (by omega)

end Search

/-- FFSi leaves in gen2, a byte, what the search gives (R377). -/
theorem ffs_completes {i : Size} {g1 g2 : Gen} {s : State} {v : Quad} {f : Bool} (hi : i ≠ .u) (hs : s.plain = true)
    (h1 : legal .read g1 = true) (h2 : legal .rmw g2 = true) {r : Option Nat}
    (hr : findSet ((src s i.bytes g1).setWidth i.bits) (dest s i.bytes g1 1 g2).toNat
      (i.bits - (dest s i.bytes g1 1 g2).toNat) = r)
    (hv : r.elim 0#8 (BitVec.ofNat 8) = v.setWidth 8) (hf : r.isNone = f) :
    Completes (.ffs i 0#3 g1 g2) s ((replaced s i.bytes g1 1 g2 v).withPsr (setF f)) := by
  have hbyte : ((dest s i.bytes g1 1 g2).setWidth 8).toNat = (dest s i.bytes g1 1 g2).toNat := by
    rw [BitVec.toNat_setWidth]
    exact Nat.mod_eq_of_lt (locValue_lt _ (i := .b) (by decide) _)
  have hlow : replaced s i.bytes g1 1 g2 ((v.setWidth 8).setWidth 64) = replaced s i.bytes g1 1 g2 v :=
    rewritten_setWidth _ .b ..
  rw [← hlow]
  refine replaced_completesUnless (ov := false) hs hi h1 h2 rfl (encTwo_length ..) fun _ _ _ _ => ?_
  rw [hbyte, hr, ← hv, ← hf]
  cases r with
  | none => rfl
  | some k => rfl

/-- Settles O36: the search finds what the statement calls the first set bit. -/
theorem findFirstSet : Obligations.FindFirstSet := by
  intro i g1 g2 s hi hs h1 h2 a o
  have hwidth {k : Nat} (hk : k < i.bits) : (a.setWidth i.bits).getLsbD k = a.getLsbD k := by
    rw [BitVec.getLsbD_setWidth, decide_eq_true hk, Bool.true_and]
  refine ⟨fun k hk hki hset hfirst => ?_, fun hclear => ?_⟩
  · refine ffs_completes hi hs h1 h2 (findSet_some hk (by omega) ((hwidth hki).trans hset) fun x hx hxk =>
      (hwidth (by omega)).trans (hfirst x hx hxk)) ?_ rfl
    exact (BitVec.setWidth_ofNat_of_le (by decide) k).symm
  · exact ffs_completes hi hs h1 h2 (findSet_none fun x hx hm => (hwidth (by omega)).trans (hclear x hx (by omega)))
      rfl rfl

end Sys2Proof.Machine
end

section
/-! PROOF. Dedicated registers stored (R483), and the register lists of SAVE, RESTORE, ENTER and EXIT (R459 to R462). -/

namespace Sys2Proof.Machine

/-! ### SPRi -/

/-- The reserved bits of a register read as bits of a free double-word (U4). -/
theorem withReserved_plain (v mask : Word) (u : State) :
    Reaches (withReserved v mask) u fun w u' => (∃ x : Word, w = (v &&& mask) ||| (x &&& ~~~mask)) ∧ u' = u := by
  rintro _ ⟨wb, sc, fc, rf, hw, rfl⟩
  exact ⟨_, u, u.book wb sc (fc + 1) rf, rfl, ⟨_, _, _, _, hw, rfl⟩, ⟨_, rfl⟩, rfl⟩

/-- Reading a dedicated register gives its value, with free reserved bits (R483). -/
theorem readAReg_plain (r : AReg) (u : State) :
    Reaches (readAReg r) u fun w u' => (∃ x : Word, w = aregValue u r ||| (x &&& aregFree r)) ∧ u' = u := by
  refine Reaches.getS fun _ _ _ _ => ?_
  cases r with
  | dcr | dsr => exact withReserved_plain _ _ u
  | sp => exact Reaches.pure ⟨⟨0#32, by simp [aregValue, aregFree]⟩, rfl⟩
  | upsr | fp | sb | usp | mod | cfg | psr | intbase | car | bpc | res5 | res6 | res7 =>
    exact Reaches.pure ⟨⟨0#32, (BitVec.or_zero).symm⟩, rfl⟩

/-- Settles O47: the register is read before the destination is located, and only its reserved bits are drawn. -/
theorem storeDedicatedRegister : Obligations.StoreDedicatedRegister := by
  intro i r g s hs hg hi hp
  have hram := plain_ram hs
  simp only [aregOk, Bool.and_eq_true, Bool.not_eq_true', beq_iff_eq] at hi
  obtain ⟨hres, rfl⟩ := hi
  have hcheck : Shape.check { basic := 2, size := aregSize r, ops := [wr g (aregSize r).bytes],
                              privileged := aregPrivileged r, reserved := procRegRefusal (aregSize r) r } s = none :=
    check_none rfl (aregSize_ne_u r) (by simpa [wr] using hg) hp rfl (by simp [procRegRefusal, hres, refuseIf])
  have hbody : Reaches (do
      let v ← readAReg r
      let l ← locGen g
      writeLoc (aregSize r).bytes (v.setWidth 64) l
      return ({} : Done)) s fun d u => d = {} ∧ ∃ x : Word,
        u = written s (aregSize r).bytes ((aregValue s r ||| (x &&& aregFree r)).setWidth 64) (genLoc s g) := by
    refine Reaches.bind (readAReg_plain r s) ?_
    rintro _ _ ⟨⟨x, rfl⟩, rfl⟩
    refine Reaches.bind (locGen_plain hram hg) ?_
    rintro _ _ ⟨rfl, rfl⟩
    refine Reaches.bind (writeLoc_plain hram _ _ (genLoc_not_imm (by decide) hg)) ?_
    rintro _ _ rfl
    exact Reaches.pure ⟨rfl, x, rfl⟩
  obtain ⟨_, _, ⟨rfl, x, rfl⟩, hgoes⟩ := run_agrees hs hcheck hbody (by rintro _ _ ⟨rfl, -⟩; simp)
  have hlen : (encode (.spr (aregSize r) r g)).length = Shape.length { basic := 2, ops := [wr g (aregSize r).bytes] } :=
    encQ_length ..
  refine ⟨x, ?_⟩
  unfold Completes nextPc
  rw [hlen]
  exact hgoes

/-! ### ENTER and EXIT -/

theorem listPopped_ram (m : Byte) (l : List RegNum) (s : State) : (listPopped m l s).ram = s.ram := by
  induction l generalizing s with
  | nil => rfl
  | cons n rest ih =>
    have hbit : (bitPopped m n s).ram = s.ram := by
      unfold bitPopped
      split
      · exact (State.setReg_ram ..).trans (State.popped_ram ..)
      · rfl
    exact (ih _).trans hbit

theorem enter_length (m : Byte) (d : Disp) : (encode (.enter m d)).length = 2 + d.length := by
  rw [encode, List.length_cons, List.length_cons, Disp.encode_length]
  omega

section Lists

variable {s : State} (hs : s.plain = true) (m : Byte)
include hs

/-- ENTER (R459): FP saved and set, the locals, then the registers. -/
theorem enter_completes {d : Disp} (hd : d.wf = true) :
    let s1 := s.pushed 4 (s.fp.setWidth 64)
    let s2 : State := { s1 with fp := s1.sp }
    Completes (.enter m d) s (listPushed m listBits (s2.setSp (s2.sp - d.value))) := by
  intro s1 s2
  have hram : (s2.setSp (s2.sp - d.value)).ram = true :=
    (State.setSp_ram ..).trans ((State.pushed_ram s 4 (s.fp.setWidth 64)).trans (plain_ram hs))
  refine completes_of_reaches (by rfl) (by exact enter_length m d) hs (check_none_disp rfl hd (check_list s)) ?_
  refine Reaches.getS fun _ _ _ _ => Reaches.bind (push_plain (plain_ram hs) 4 _) ?_
  rintro _ _ rfl
  refine Reaches.bind (Reaches.upd (u' := s2) (fun _ _ _ _ => rfl) (Q := fun _ u' => u' = s2) rfl) ?_
  rintro _ _ rfl
  refine Reaches.bind (setSp_upd (fun s => s.sp - d.value) (fun _ _ _ _ => rfl) (Q := fun _ u' => u' = _) rfl) ?_
  rintro _ _ rfl
  refine Reaches.bind (saveRegs_plain m listBits hram) ?_
  rintro _ _ rfl
  exact Reaches.pure ⟨rfl, rfl⟩

/-- EXIT (R460): the registers, then SP from FP and FP from the stack. -/
theorem exit_completes :
    let s1 := listPopped m listBits s
    let s2 := s1.setSp s1.fp
    Completes (.exit m) s { s2.popped 4 with fp := s2.load32 s2.sp } := by
  intro s1 s2
  have hram : s2.ram = true := (State.setSp_ram ..).trans ((listPopped_ram ..).trans (plain_ram hs))
  refine completes_of_reaches (by rfl) (by rfl) hs (check_list s) ?_
  refine Reaches.bind (restoreRegs_plain m listBits (plain_ram hs)) ?_
  rintro _ _ rfl
  refine Reaches.bind (setSp_upd State.fp (fun _ _ _ _ => rfl) (Q := fun _ u' => u' = _) rfl) ?_
  rintro _ _ rfl
  refine Reaches.bind (pop_plain hram 4) ?_
  rintro _ _ ⟨rfl, rfl⟩
  refine Reaches.bind (Reaches.upd (u' := { s2.popped 4 with fp := s2.load32 s2.sp }) (fun _ _ _ _ => rfl)
    (Q := fun _ u' => u' = { s2.popped 4 with fp := s2.load32 s2.sp }) rfl) ?_
  rintro _ _ rfl
  exact Reaches.pure ⟨rfl, rfl⟩

end Lists

/-- Settles O45: the order of the list's bits is that of the statement. -/
theorem registerLists : Obligations.RegisterLists := by
  intro m d s hs hd order
  have hsave : Completes (.save m) s (listPushed m order s) := by
    refine completes_of_reaches (by rfl) (by rfl) hs (check_list s) ?_
    refine Reaches.bind (saveRegs_plain m listBits (plain_ram hs)) ?_
    rintro _ _ rfl
    exact Reaches.pure ⟨rfl, rfl⟩
  exact ⟨hsave, restore_completes hs m, enter_completes hs m hd, exit_completes hs m⟩

end Sys2Proof.Machine
end

section
/-! PROOF. An unassigned slave opcode runs as one of the three kinds of slave instruction (R230, R551, R581). -/

namespace Sys2Proof.Machine

theorem CompletesSending.completes {I : Instr} {s u : State} {cycles : List Ref} (h : CompletesSending I s u cycles) :
    Completes I s u := h.mono fun _ ⟨hagrees, _⟩ => hagrees

/-- Whichever note is chosen, the instruction completes as that kind does when the slave is done. -/
theorem slot_completes {note : SlotNote} {set : SlaveSet} {I : Instr} {t : SlaveType} {g1 g2 : Gen} {s : State}
    {lo hi : Word} {rest : List SlaveReply} (hs : s.plain = true) (hset : s.slaveDisabled (some set) = false)
    (hr : s.slaveReplies = .done lo hi :: rest) (ht : t.bytes ≠ 0) (h1 : legal .read g1 = true)
    (h2 : legal .write g2 = true) (hexec : exec I s = slot note set I none t g1 g2 s)
    (hlen : (encode I).length = 3 + (g1.length t.bytes + g2.length t.bytes)) :
    Completes I s (slaveMoved s t g1 t g2 lo hi rest) ∨ Completes I s (slaveReplaced s t g1 t g2 lo hi rest)
      ∨ Completes I s (slaveCompared s t g1 t g2 rest) := by
  have hd : Size.d ≠ .u := nofun
  cases note with
  | likeMov => exact .inl (likeMov_completes hs hr hset rfl hlen h1 hd ht hexec h2).completes
  | likeAdd =>
    exact .inr (.inl (likeAdd_completes hs hr hset rfl hlen h1 ht hexec (legal_rmw_of_write h2)).completes)
  | likeCmp => exact .inr (.inr (likeCmp_completes hs hr hset rfl hlen h1 hexec (legal_read_of_write h2)).completes)

/-- Settles O54: the note is one of three, and each is a kind of slave instruction. -/
theorem slaveSlots : Obligations.SlaveSlots := by
  intro op f c g1 g2 s lo hi rest hs h1 h2 hr F C
  exact ⟨fun hf => slot_completes hs (float_enabled hf) hr (FSize.bytes_ne_zero f) h1 h2 rfl (encTwo_length ..),
    fun hc => slot_completes hs (custom_enabled hc) hr (CSize.bytes_ne_zero c) h1 h2 rfl (encTwo_length ..)⟩

end Sys2Proof.Machine
end

section
/-! PROOF. Packed decimal: what is encoded is decimal and has its value, and the sum or difference of decimal operands is
what ADDPi and SUBPi leave (R335, R336). -/

namespace Sys2Proof.Machine

theorem bcd_encode (k v : Nat) (hv : v < 10 ^ k) :
    bcdValid k (bcdEncode k v) = true ∧ bcdValue k (bcdEncode k v) = v ∧ bcdEncode k v < 16 ^ k := by
  induction k generalizing v with
  | zero => exact ⟨rfl, (Nat.lt_one_iff.mp hv).symm, Nat.one_pos⟩
  | succ k ih =>
    obtain ⟨hvalid, hvalue, hlt⟩ := ih (v / 10) (by omega)
    have hlow : bcdEncode (k + 1) v % 16 = v % 10 := by rw [bcdEncode]; omega
    have hhigh : bcdEncode (k + 1) v / 16 = bcdEncode k (v / 10) := by rw [bcdEncode]; omega
    refine ⟨?_, ?_, by rw [bcdEncode]; omega⟩
    · rw [bcdValid, hlow, hhigh, hvalid, Bool.and_true, decide_eq_true (by omega)]
    · rw [bcdValue, hlow, hhigh, hvalue]
      omega

theorem setWidth_toNat_src (s : State) {i : Size} (hi : i ≠ .u) (g : Gen) :
    ((src s i.bytes g).setWidth i.bits).toNat = (src s i.bytes g).toNat := by
  rw [BitVec.toNat_setWidth]
  exact Nat.mod_eq_of_lt (locValue_lt s hi _)

theorem setWidth_toNat_dest (s : State) {i : Size} (hi : i ≠ .u) (n : Nat) (g1 g2 : Gen) :
    ((dest s n g1 i.bytes g2).setWidth i.bits).toNat = (dest s n g1 i.bytes g2).toNat := by
  rw [BitVec.toNat_setWidth]
  exact Nat.mod_eq_of_lt (locValue_lt _ hi _)

/-- A binary instruction whose result is a number leaves it in gen2. -/
theorem number_completes {I : Instr} {i : Size} {g1 g2 : Gen} {s : State} {v : Nat} {p : Half → Half}
    {f : State → BitVec i.bits → BitVec i.bits → M (Result i.bits)} (hi : i ≠ .u) (hs : s.plain = true)
    (h1 : legal .read g1 = true) (h2 : legal .rmw g2 = true) (hexec : exec I s = binary 3 i g1 g2 f s)
    (hlen : (encode I).length = 3 + (g1.length i.bytes + g2.length i.bytes))
    (hf : ∀ t, t.flagC = s.flagC → f t ((dest s i.bytes g1 i.bytes g2).setWidth i.bits)
      ((src s i.bytes g1).setWidth i.bits) = pure { value := BitVec.ofNat i.bits v, psr := p }) :
    Completes I s ((replaced s i.bytes g1 i.bytes g2 (BitVec.ofNat 64 v)).withPsr p) := by
  have hlow : replaced s i.bytes g1 i.bytes g2 ((BitVec.ofNat i.bits v).setWidth 64)
      = replaced s i.bytes g1 i.bytes g2 (BitVec.ofNat 64 v) := by
    have hw : i.bits ≤ 64 := (Size.bits_le i).trans (by decide)
    rw [← BitVec.setWidth_ofNat_of_le hw v]
    exact rewritten_setWidth ..
  rw [← hlow]
  exact binary_completesUnless (ov := false) hs hi h1 h2 hexec hlen hf

/-- Settles O31: on valid digits neither instruction draws a value. -/
theorem packedDecimal : Obligations.PackedDecimal := by
  refine ⟨bcd_encode, fun i g1 g2 s hi hs h1 h2 => ?_⟩
  intro k a b out ha hb x y
  have hvalid : (bcdValid k b && bcdValid k a) = true := by rw [ha, hb]; rfl
  constructor
  · refine number_completes hi hs h1 h2 rfl (encTwo_length ..) fun t ht => ?_
    rw [ht, addPacked, setWidth_toNat_src s hi, setWidth_toNat_dest s hi, Nat.add_assoc]
    exact if_pos hvalid
  · refine number_completes hi hs h1 h2 rfl (encTwo_length ..) fun t ht => ?_
    rw [ht, subPacked, setWidth_toNat_src s hi, setWidth_toNat_dest s hi]
    exact if_pos hvalid

end Sys2Proof.Machine
end

section
/-! SUPPORT. Double-length operands in memory: twice as many bytes, of which the low half comes first (R266). -/

namespace Sys2Proof.Machine

theorem getLsbD_load (s : State) (a : Word) (n : Nat) {k : Nat} (hk : k < 64) : (s.load a n).getLsbD k
    = (decide (k < 8 * n) && (memGet s.mem (a + BitVec.ofNat 32 (k / 8)).toNat).getLsbD (k % 8)) := by
  by_cases hn : k < 8 * n
  · rw [load_bit s a hn hk, decide_eq_true hn, Bool.true_and]
  · have hlen : (bytesFrom (fun x => memGet s.mem x.toNat) a n).length ≤ k / 8 := by
      rw [bytesFrom_length]
      omega
    rw [State.load, getLsbD_ofBytes _ hk, List.getD_eq_default _ _ hlen, decide_eq_false hn, Bool.false_and]
    exact BitVec.getLsbD_zero

theorem lowBytes_eq {i : Size} (hi : i ≠ .u) (v : Quad) : lowBytes i.bytes v = v &&& lowMask (8 * i.bytes) := by
  cases i with
  | u => exact absurd rfl hi
  | b | w | d => rfl

section Halves

variable {i : Size} (hi : i ≠ .u)
include hi

theorem getLsbD_lowBytes (v : Quad) {k : Nat} (hk : k < 64) :
    (lowBytes i.bytes v).getLsbD k = (v.getLsbD k && decide (k < 8 * i.bytes)) := by
  rw [lowBytes_eq hi, BitVec.getLsbD_and, getLsbD_lowMask hk]

theorem load_low (s : State) (a : Word) : lowBytes i.bytes (s.load a (2 * i.bytes)) = s.load a i.bytes := by
  refine BitVec.eq_of_getLsbD_eq fun k hk => ?_
  rw [getLsbD_lowBytes hi _ hk, getLsbD_load s a _ hk, getLsbD_load s a _ hk]
  by_cases hlow : k < 8 * i.bytes
  · have hall : k < 8 * (2 * i.bytes) := by omega
    simp only [hlow, hall, decide_true, Bool.true_and, Bool.and_true]
  · simp only [hlow, decide_false, Bool.false_and, Bool.and_false]

omit hi in
theorem load_high (s : State) (a : Word) :
    s.load a (2 * i.bytes) >>> (8 * i.bytes) = s.load (a + BitVec.ofNat 32 i.bytes) i.bytes := by
  have hbytes : 8 * i.bytes ≤ 32 := (Size.bytes_le_bits i).trans (Size.bits_le i)
  refine BitVec.eq_of_getLsbD_eq fun k hk => ?_
  rw [BitVec.getLsbD_ushiftRight, getLsbD_load s _ _ hk]
  by_cases hlow : k < 8 * i.bytes
  · have hall : 8 * i.bytes + k < 8 * (2 * i.bytes) := by omega
    have haddr : a + BitVec.ofNat 32 ((8 * i.bytes + k) / 8)
        = a + BitVec.ofNat 32 i.bytes + BitVec.ofNat 32 (k / 8) := by
      rw [BitVec.add_assoc, ← BitVec.ofNat_add]
      congr 2
      omega
    rw [getLsbD_load s _ _ (by omega), haddr, Nat.mul_add_mod]
    simp only [hlow, hall, decide_true]
  · have hclear : (s.load a (2 * i.bytes)).getLsbD (8 * i.bytes + k) = false := by
      by_cases h64 : 8 * i.bytes + k < 64
      · have hall : ¬8 * i.bytes + k < 8 * (2 * i.bytes) := by omega
        rw [getLsbD_load s _ _ h64, decide_eq_false hall, Bool.false_and]
      · exact BitVec.getLsbD_of_ge _ _ (by omega)
    rw [hclear, decide_eq_false hlow, Bool.false_and]

end Halves

theorem storeBytes_append (p : List Region) (m : List Host.Cell) (a : Word) (xs ys : List Byte) :
    storeBytes p m a (xs ++ ys) = storeBytes p (storeBytes p m a xs) (a + BitVec.ofNat 32 xs.length) ys := by
  induction xs generalizing m a with
  | nil => rw [List.nil_append, List.length_nil, BitVec.add_zero, storeBytes]
  | cons x rest ih =>
    have hnext : a + 1#32 + BitVec.ofNat 32 rest.length = a + BitVec.ofNat 32 (x :: rest).length := by
      rw [BitVec.add_assoc, ← BitVec.ofNat_add, Nat.add_comm, List.length_cons]
    rw [List.cons_append, storeBytes, ih, hnext, storeBytes]

/-- The bytes of a double-length value are those of its halves. -/
theorem toBytes_double {n : Nat} {lo : Quad} (hlo : lo.toNat < 2 ^ (8 * n)) (hi : Quad) (hn : n ≤ 4) :
    toBytes (2 * n) (lo ||| (hi <<< (8 * n))) = toBytes n lo ++ toBytes n hi := by
  refine List.ext_getElem? fun k => ?_
  rw [List.getElem?_append, toBytes_length, getElem?_toBytes, getElem?_toBytes, getElem?_toBytes]
  by_cases hk : k < n
  · have hall : k < 2 * n := by omega
    have hbyte : (((lo ||| (hi <<< (8 * n))) >>> (8 * k)).setWidth 8 : Byte) = (lo >>> (8 * k)).setWidth 8 := by
      ext j hj
      have hin : 8 * k + j < 8 * n := by omega
      simp [hin]
    simp only [hk, hall, if_true, hbyte]
  · by_cases hall : k < 2 * n
    · have hin : k - n < n := by omega
      have hbyte : (((lo ||| (hi <<< (8 * n))) >>> (8 * k)).setWidth 8 : Byte) = (hi >>> (8 * (k - n))).setWidth 8 := by
        ext j hj
        have hclear : lo.getLsbD (8 * k + j) = false :=
          Nat.testBit_lt_two_pow (hlo.trans_le (Nat.pow_le_pow_right (by decide) (by omega)))
        have hout : ¬8 * k + j < 8 * n := by omega
        have h64 : 8 * k + j < 64 := by omega
        have hplace : 8 * k + j - 8 * n = 8 * (k - n) + j := by omega
        simp [hclear, hout, h64, hplace, -BitVec.getLsbD_eq_getElem]
      simp only [hk, hall, hin, if_true, if_false, hbyte]
    · have hout : ¬k - n < n := by omega
      simp only [hk, hall, hout, if_false]

/-! ### Reading and writing the halves -/

section Actions

variable {u : State} (h : u.ram = true) {i : Size} (hi : i ≠ .u)
include h hi

theorem readDouble_plain (l : Loc) : Reaches (readDouble i.bytes l) u fun v u' => v = doubleValue u i.bytes l ∧ u' = u
    := by
  cases l with
  | reg k => exact Reaches.getS fun _ _ _ _ => Reaches.pure ⟨rfl, rfl⟩
  | imm v => exact Reaches.pure ⟨rfl, rfl⟩
  | mem a =>
    refine Reaches.bind (memReadRmw_plain h a _) ?_
    rintro _ _ ⟨rfl, rfl⟩
    rw [load_low hi, load_high]
    exact Reaches.pure ⟨rfl, rfl⟩
  | tos =>
    refine Reaches.getS fun _ _ _ _ => Reaches.bind (memReadRmw_plain h _ _) ?_
    rintro _ _ ⟨rfl, rfl⟩
    rw [load_low hi, load_high]
    exact Reaches.pure ⟨rfl, rfl⟩

theorem writeDouble_plain {lo : Quad} (hlo : lo.toNat < 2 ^ i.bits) (hi' : Quad) {l : Loc} (hl : ∀ w, l ≠ .imm w) :
    Reaches (writeDouble i.bytes lo hi' l) u fun _ u' => u' = doublePut u i.bytes lo hi' l := by
  have hfour : i.bytes ≤ 4 := by have := i.two_mul_bytes_le; omega
  have hput (a : Word) : u.put a (2 * i.bytes) (lo ||| (hi' <<< (8 * i.bytes)))
      = (u.put a i.bytes lo).put (a + BitVec.ofNat 32 i.bytes) i.bytes hi' := by
    have hbytes := toBytes_double (Size.bits_eq hi ▸ hlo) hi' hfour
    simp only [State.put, hbytes, storeBytes_append, toBytes_length]
  cases l with
  | reg k =>
    refine Reaches.bind (writeReg_plain u i.bytes k lo) ?_
    rintro _ _ rfl
    exact writeReg_plain _ i.bytes _ hi'
  | imm w => exact absurd rfl (hl w)
  | mem a => exact (memWrite_plain h a _ _).mono fun _ _ hu => hu.trans (hput a)
  | tos => exact Reaches.getS fun _ _ _ _ => (memWrite_plain h _ _ _).mono fun _ _ hu => hu.trans (hput _)

end Actions

theorem doubleValue_lt (s : State) {i : Size} (hi : i ≠ .u) {g : Gen} (hg : legal .rmw g = true) :
    (doubleValue s i.bytes (genLoc s g)).1.toNat < 2 ^ i.bits
      ∧ (doubleValue s i.bytes (genLoc s g)).2.toNat < 2 ^ i.bits := by
  have hnotImm := genLoc_not_imm (u := s) (by decide) hg
  generalize genLoc s g = l at hnotImm ⊢
  cases l with
  | reg k => exact ⟨lowBytes_lt hi _, lowBytes_lt hi _⟩
  | imm w => exact absurd rfl (hnotImm w)
  | mem a => exact ⟨load_lt s a hi, load_lt s _ hi⟩
  | tos => exact ⟨load_lt s _ hi, load_lt s _ hi⟩

end Sys2Proof.Machine
end

section
/-! PROOF. MEIi and DEIi on double-length operands (R333, R334). -/

namespace Sys2Proof.Machine

theorem evenPair_unrefused {g : Gen} (h : oddRegister g = false) : refuseIf (oddRegister g) .oddPair = none := by
  simp [refuseIf, h]

theorem doublePut_frame (s : State) (n : Nat) (lo hi : Quad) (l : Loc) :
    (doublePut s n lo hi l).ram = s.ram ∧ (doublePut s n lo hi l).dcr = s.dcr := by
  cases l with
  | reg | imm | mem | tos => exact ⟨rfl, rfl⟩

section Values

variable {i : Size} (hi : i ≠ .u)
include hi

theorem toNat_lowBytes (v : Quad) : (lowBytes i.bytes v).toNat = v.toNat % 2 ^ i.bits := by
  cases i with
  | u => exact absurd rfl hi
  | b => exact Nat.and_two_pow_sub_one_eq_mod v.toNat 8
  | w => exact Nat.and_two_pow_sub_one_eq_mod v.toNat 16
  | d => exact Nat.and_two_pow_sub_one_eq_mod v.toNat 32

/-- The product of two operands fits 64 bits, and so its halves are those of the number (R333). -/
theorem product_halves {a b : BitVec i.bits} :
    let p : Quad := a.setWidth 64 * b.setWidth 64
    lowBytes i.bytes p = BitVec.ofNat 64 (a.toNat * b.toNat % 2 ^ i.bits)
      ∧ p >>> i.bits = BitVec.ofNat 64 (a.toNat * b.toNat / 2 ^ i.bits) := by
  intro p
  have hbits : (2 : Nat) ^ i.bits ≤ 2 ^ 32 := Nat.pow_le_pow_right (by decide) (Size.bits_le i)
  have hnum {v : BitVec i.bits} : v.toNat < 2 ^ 32 := v.isLt.trans_le hbits
  have hlt : a.toNat * b.toNat < 2 ^ 64 := (Nat.mul_lt_mul'' hnum hnum).trans_eq (by rfl)
  have hwide {v : BitVec i.bits} : (v.setWidth 64 : Quad).toNat = v.toNat := by
    rw [BitVec.toNat_setWidth, Nat.mod_eq_of_lt (hnum.trans (by decide))]
  have hp : p.toNat = a.toNat * b.toNat := by rw [BitVec.toNat_mul, hwide, hwide, Nat.mod_eq_of_lt hlt]
  refine ⟨BitVec.eq_of_toNat_eq ?_, BitVec.eq_of_toNat_eq ?_⟩
  · rw [toNat_lowBytes hi, hp, BitVec.toNat_ofNat, Nat.mod_eq_of_lt ((Nat.mod_le _ _).trans_lt hlt)]
  · rw [BitVec.toNat_ushiftRight, Nat.shiftRight_eq_div_pow, hp, BitVec.toNat_ofNat,
      Nat.mod_eq_of_lt ((Nat.div_le_self _ _).trans_lt hlt)]

end Values

/-- An instruction whose actions leave one of several states, with or without an overflow, as the values drawn say. -/
theorem completesUnless_of_reaches_some {I : Instr} {sh : Shape} {body : M Done} {s : State}
    {P : Bool → State → Prop} (hexec : exec I s = run sh body s) (hlen : (encode I).length = sh.length)
    (hs : s.plain = true) (hc : sh.check s = none) (hP : ∀ o u, P o u → u.ram = true ∧ u.dcr = s.dcr)
    (hb : Reaches body s fun d u => ∃ o, d = { overflow := o } ∧ P o u) : ∃ o u, P o u ∧ CompletesUnless o I s u := by
  obtain ⟨_, u, t, hok, hsim, o, rfl, hu⟩ := hb s (Sim.refl (plain_pendingError hs))
  obtain ⟨hram, hdcr⟩ := hP o u hu
  -- From this state the actions are those that leave just what they leave here.
  have hfixed : run sh body s = run sh (fun _ => .ok { overflow := o } t) s := by
    simp only [run, finish, checked, hc, hok]
  exact ⟨o, u, hu, completesUnless_of_reaches (hexec.trans hfixed) hlen hs hc hram hdcr
    fun _ _ => ⟨_, u, t, rfl, hsim, rfl, rfl⟩⟩

theorem drawWord_plain (u : State) : Reaches drawWord u fun _ u' => u' = u := by
  rintro _ ⟨wb, sc, fc, rf, hw, rfl⟩
  exact ⟨_, u, u.book wb sc (fc + 1) rf, rfl, ⟨_, _, _, _, hw, rfl⟩, rfl⟩

section Completes

variable {i : Size} {g1 g2 : Gen} {s : State} (hi : i ≠ .u) (hs : s.plain = true) (h1 : legal .read g1 = true)
  (h2 : legal .rmw g2 = true) (hodd : oddRegister g2 = false)

include hi h1 h2 hodd in
theorem double_check : Shape.check { basic := 3, size := i, ops := [rd g1 i.bytes, rw g2 (2 * i.bytes)],
                                     reserved := refuseIf (oddRegister g2) .oddPair } s = none :=
  check_none rfl hi (legal_two h1 h2) (.inl rfl) rfl (evenPair_unrefused hodd)

include hi hs h1 h2 hodd

variable {lo high : Quad} (hv : doubleValue (afterSrc s i.bytes g1) i.bytes (genLoc (afterSrc s i.bytes g1) g2)
  = (lo, high))
include hv

/-- MEIi (R333). -/
theorem mei_completes : Completes (.mei i g1 g2) s (doublePut (afterSrc s i.bytes g1) i.bytes
    (BitVec.ofNat 64 ((src s i.bytes g1).toNat * lo.toNat % 2 ^ i.bits))
    (BitVec.ofNat 64 ((src s i.bytes g1).toNat * lo.toNat / 2 ^ i.bits)) (genLoc (afterSrc s i.bytes g1) g2)) := by
  have hram : (afterSrc s i.bytes g1).ram = true := (afterSrc_ram s i.bytes g1).trans (plain_ram hs)
  obtain ⟨hlo, -⟩ := doubleValue_lt (afterSrc s i.bytes g1) hi h2
  rw [hv] at hlo
  have hlow : (lo.setWidth i.bits).toNat = lo.toNat := by rw [BitVec.toNat_setWidth, Nat.mod_eq_of_lt hlo]
  refine completes_of_reaches (by rfl) (by exact encTwo_length ..) hs (double_check hi h1 h2 hodd) ?_
  refine Reaches.bind (readInt_plain (plain_ram hs) i h1) ?_
  rintro _ _ ⟨rfl, rfl⟩
  refine Reaches.bind (locGen_plain hram h2) ?_
  rintro _ _ ⟨rfl, rfl⟩
  refine Reaches.bind (hv ▸ readDouble_plain hram hi _) ?_
  rintro _ _ ⟨rfl, rfl⟩
  refine Reaches.bind (writeDouble_plain hram hi (lowBytes_lt hi _) _ (genLoc_not_imm (by decide) h2)) ?_
  rintro _ _ rfl
  obtain ⟨hl, hh⟩ := product_halves hi (a := (src s i.bytes g1).setWidth i.bits) (b := lo.setWidth i.bits)
  rw [setWidth_toNat_src s hi, hlow] at hl hh
  rw [hl, hh]
  exact Reaches.pure ⟨rfl, rfl⟩

/-- DEIi (R334): a quotient that does not fit is an overflow, and leaves some halves. -/
theorem dei_completesUnless :
    let a := (src s i.bytes g1).toNat
    let b := lo.toNat + 2 ^ i.bits * high.toNat
    0 < a → ∃ x y, (b / a < 2 ^ i.bits → x = BitVec.ofNat 64 (b % a) ∧ y = BitVec.ofNat 64 (b / a))
      ∧ CompletesUnless (decide (2 ^ i.bits ≤ b / a)) (.dei i g1 g2) s
          (doublePut (afterSrc s i.bytes g1) i.bytes x y (genLoc (afterSrc s i.bytes g1) g2)) := by
  intro a b ha0
  have hram : (afterSrc s i.bytes g1).ram = true := (afterSrc_ram s i.bytes g1).trans (plain_ram hs)
  have ha : a < 2 ^ i.bits := locValue_lt s hi _
  have hbits : (2 : Nat) ^ i.bits ≤ 2 ^ 32 := Nat.pow_le_pow_right (by decide) (Size.bits_le i)
  have hnotImm := genLoc_not_imm (u := afterSrc s i.bytes g1) (by decide) h2
  obtain ⟨hlo, hhigh⟩ := doubleValue_lt (afterSrc s i.bytes g1) hi h2
  rw [hv] at hlo hhigh
  have hb : (lo.setWidth i.bits).toNat + 2 ^ i.bits * (high.setWidth i.bits).toNat = b := by
    rw [BitVec.toNat_setWidth, BitVec.toNat_setWidth, Nat.mod_eq_of_lt hlo, Nat.mod_eq_of_lt hhigh]
  have hzero : (src s i.bytes g1).setWidth i.bits ≠ 0#i.bits := fun h => by
    have := congrArg BitVec.toNat h
    rw [setWidth_toNat_src s hi] at this
    simp at this
    omega
  have hrem : (BitVec.ofNat 64 (b % a)).toNat < 2 ^ i.bits := by
    rw [BitVec.toNat_ofNat]
    exact (Nat.mod_le _ _).trans_lt ((Nat.mod_lt _ ha0).trans ha)
  let P (o : Bool) (u : State) : Prop := o = decide (2 ^ i.bits ≤ b / a) ∧ ∃ x y : Quad,
    (b / a < 2 ^ i.bits → x = BitVec.ofNat 64 (b % a) ∧ y = BitVec.ofNat 64 (b / a))
      ∧ u = doublePut (afterSrc s i.bytes g1) i.bytes x y (genLoc (afterSrc s i.bytes g1) g2)
  obtain ⟨o, u, ⟨rfl, x, y, hxy, rfl⟩, hcompletes⟩ := completesUnless_of_reaches_some (I := .dei i g1 g2) (P := P)
    (by rfl) (by exact encTwo_length ..) hs (double_check hi h1 h2 hodd) (by
      rintro _ _ ⟨-, x, y, -, rfl⟩
      obtain ⟨h3, h4⟩ := doublePut_frame (afterSrc s i.bytes g1) i.bytes x y (genLoc (afterSrc s i.bytes g1) g2)
      exact ⟨h3.trans hram, h4.trans (afterSrc_dcr ..)⟩) (by
      refine Reaches.bind (readInt_plain (plain_ram hs) i h1) ?_
      rintro _ _ ⟨rfl, rfl⟩
      refine Reaches.bind (locGen_plain hram h2) ?_
      rintro _ _ ⟨rfl, rfl⟩
      refine Reaches.bind (hv ▸ readDouble_plain hram hi _) ?_
      rintro _ _ ⟨rfl, rfl⟩
      simp only [if_neg hzero, hb, setWidth_toNat_src s hi]
      by_cases hfit : 2 ^ i.bits ≤ b / a
      · rw [if_pos hfit]
        refine Reaches.bind (drawWord_plain _) ?_
        rintro x _ rfl
        refine Reaches.bind (drawWord_plain _) ?_
        rintro y _ rfl
        refine Reaches.bind (writeDouble_plain hram hi (lowBytes_lt hi _) _ hnotImm) ?_
        rintro _ _ rfl
        exact Reaches.pure ⟨true, rfl, (decide_eq_true hfit).symm, _, _, fun h => absurd h (by omega), rfl⟩
      · rw [if_neg hfit]
        refine Reaches.bind (writeDouble_plain hram hi hrem _ hnotImm) ?_
        rintro _ _ rfl
        exact Reaches.pure ⟨false, rfl, (decide_eq_false hfit).symm, _, _, fun _ => ⟨rfl, rfl⟩, rfl⟩)
  exact ⟨x, y, hxy, hcompletes⟩

end Completes

/-- Settles O30: a quotient that fits is no overflow. -/
theorem extendedIntegers : Obligations.ExtendedIntegers := by
  intro i g1 g2 s hi hs h1 h2 hodd a s1 l lo b
  refine ⟨mei_completes hi hs h1 h2 hodd rfl, fun ha hfit => ?_⟩
  obtain ⟨_, _, hxy, hcompletes⟩ := dei_completesUnless hi hs h1 h2 hodd rfl ha
  obtain ⟨rfl, rfl⟩ := hxy hfit
  have hno : decide (2 ^ i.bits ≤ b / a) = false := decide_eq_false (Nat.not_le.mpr hfit)
  exact (hno ▸ hcompletes : CompletesUnless false ..)

end Sys2Proof.Machine
end

section
/-! SUPPORT. Instructions whose actions draw free values complete with some of them (93_implementation_defined U17 to
U21). -/

namespace Sys2Proof.Machine

theorem Reaches.ite {α : Type} {c : Prop} [Decidable c] {m m' : M α} {u : State} {P : α → State → Prop}
    (h : Reaches m u P) (h' : Reaches m' u P) : Reaches (if c then m else m') u P := by
  by_cases hc : c
  · rwa [if_pos hc]
  · rwa [if_neg hc]

theorem drawBool_plain (u : State) : Reaches drawBool u fun _ u' => u' = u := by
  rintro _ ⟨wb, sc, fc, rf, hw, rfl⟩
  exact ⟨_, u, u.book wb sc (fc + 1) rf, rfl, ⟨_, _, _, _, hw, rfl⟩, rfl⟩

/-- An instruction whose actions leave one of several states, without an overflow, completes with one of these. -/
theorem completes_of_reaches_some {I : Instr} {sh : Shape} {body : M Done} {s : State} {P : State → Prop}
    (hexec : exec I s = run sh body s) (hlen : (encode I).length = sh.length) (hs : s.plain = true)
    (hc : sh.check s = none) (hP : ∀ u, P u → u.ram = true ∧ u.dcr = s.dcr)
    (hb : Reaches body s fun d u => d = {} ∧ P u) : ∃ u, P u ∧ Completes I s u := by
  obtain ⟨_, u, ⟨rfl, hu⟩, hcompletes⟩ := completesUnless_of_reaches_some (P := fun o u => o = false ∧ P u)
    hexec hlen hs hc (fun _ u h => hP u h.2) (hb.mono fun _ _ ⟨hd, hu⟩ => ⟨false, hd, rfl, hu⟩)
  exact ⟨u, hu, hcompletes⟩

/-- gen2 replaced with one of several results. -/
theorem replaced_completesUnless_some {I : Instr} {basic n1 n2 w1 w2 : Nat} {i : Size} {g1 g2 : Gen} {s : State}
    {f : State → BitVec w2 → BitVec w1 → M (Result w2)} {P : Result w2 → Prop} (hs : s.plain = true) (hi : i ≠ .u)
    (h1 : legal .read g1 = true) (h2 : legal .rmw g2 = true)
    (hexec : exec I s = run { basic := basic, size := i, ops := [rd g1 n1, rw g2 n2] }
      (readModify n1 n2 w1 w2 g1 g2 f) s)
    (hlen : (encode I).length = basic + (g1.length n1 + g2.length n2))
    (hf : ∀ t b a u, Reaches (f t b a) u fun r u' => P r ∧ u' = u) :
    ∃ r, P r ∧ CompletesUnless r.overflow I s ((replaced s n1 g1 n2 g2 (r.value.setWidth 64)).withPsr r.psr) := by
  have hram : (afterSrc s n1 g1).ram = true := (afterSrc_ram s n1 g1).trans (plain_ram hs)
  obtain ⟨_, _, ⟨r, hr, rfl, rfl⟩, hcompletes⟩ := completesUnless_of_reaches_some
    (P := fun o u => ∃ r, P r ∧ o = r.overflow ∧ u = (replaced s n1 g1 n2 g2 (r.value.setWidth 64)).withPsr r.psr)
    hexec hlen hs (check_none rfl hi (legal_two h1 h2) (.inl rfl) rfl rfl) (by
      rintro _ _ ⟨r, -, -, rfl⟩
      obtain ⟨h3, h4⟩ := rewritten_frame (afterSrc s n1 g1) n2 (r.value.setWidth 64) (genLoc (afterSrc s n1 g1) g2)
      exact ⟨h3.trans hram, h4.trans (afterSrc_dcr ..)⟩)
    ((readModify_plain (plain_ram hs) h1 h2 fun _ _ _ _ => hf _ _ _ _).mono
      fun _ _ ⟨r, hr, hd, hu⟩ => ⟨r.overflow, hd, r, hr, rfl, hu⟩)
  exact ⟨r, hr, hcompletes⟩

end Sys2Proof.Machine
end

section
/-! PROOF. Shifts by any count, packed decimal on any digits, and bits and fields anywhere in a register (R335, R336,
R367 to R376, R400 to R404; U17 to U21). -/

namespace Sys2Proof.Machine

/-! ### Results with a free value -/

section Results

variable {n : Nat} (b : BitVec n) (count : Byte) (u : State)

/-- A free value changes no flag and is no overflow (U19). -/
theorem drawnShift_some : Reaches (do let v ← drawWord; return ({ value := v.setWidth n } : Result n)) u fun r u' =>
    (r.psr = id ∧ r.overflow = false) ∧ u' = u := by
  refine Reaches.bind (drawWord_plain u) ?_
  rintro _ _ rfl
  exact Reaches.pure ⟨⟨rfl, rfl⟩, rfl⟩

/-- A free value with free C and F (U18). -/
theorem drawnPacked_some :
    Reaches (do let v ← drawWord; let x ← drawBool; let y ← drawBool
                return ({ value := v.setWidth n, psr := setCF x y } : Result n)) u fun r u' =>
      ((∃ c f, r.psr = setCF c f) ∧ r.overflow = false) ∧ u' = u := by
  refine Reaches.bind (drawWord_plain u) ?_
  rintro _ _ rfl
  refine Reaches.bind (drawBool_plain _) ?_
  rintro x _ rfl
  refine Reaches.bind (drawBool_plain _) ?_
  rintro y _ rfl
  exact Reaches.pure ⟨⟨⟨x, y, rfl⟩, rfl⟩, rfl⟩

theorem logicalShift_some :
    Reaches (logicalShift b count) u fun r u' => (r.psr = id ∧ r.overflow = false) ∧ u' = u :=
  Reaches.ite (Reaches.pure ⟨⟨rfl, rfl⟩, rfl⟩) (drawnShift_some u)

theorem rotate_some : Reaches (rotate b count) u fun r u' => (r.psr = id ∧ r.overflow = false) ∧ u' = u :=
  Reaches.ite (Reaches.pure ⟨⟨rfl, rfl⟩, rfl⟩) (drawnShift_some u)

theorem arithmeticShift_some : Reaches (arithmeticShift b count) u fun r u' => r.psr = id ∧ u' = u := by
  refine Reaches.ite (Reaches.pure ⟨rfl, rfl⟩) ?_
  refine Reaches.bind (drawWord_plain u) ?_
  rintro _ _ rfl
  refine Reaches.bind (drawBool_plain _) ?_
  rintro _ _ rfl
  exact Reaches.pure ⟨rfl, rfl⟩

variable (a : BitVec n) (carry : Bool)

theorem addPacked_some : Reaches (addPacked b a carry) u fun r u' =>
    ((∃ c f, r.psr = setCF c f) ∧ r.overflow = false) ∧ u' = u :=
  Reaches.ite (Reaches.pure ⟨⟨⟨decide _, false, rfl⟩, rfl⟩, rfl⟩) (drawnPacked_some u)

theorem subPacked_some : Reaches (subPacked b a carry) u fun r u' =>
    ((∃ c f, r.psr = setCF c f) ∧ r.overflow = false) ∧ u' = u :=
  Reaches.ite (Reaches.pure ⟨⟨⟨decide _, false, rfl⟩, rfl⟩, rfl⟩) (drawnPacked_some u)

end Results

section Replaced

variable {I : Instr} {i : Size} {g1 g2 : Gen} {s : State} (hi : i ≠ .u) (hs : s.plain = true)
  (h1 : legal .read g1 = true) (h2 : legal .rmw g2 = true)
include hi hs h1 h2

/-- A shift by any count but ASHi's completes with some value (U19, log 18). -/
theorem shift_completes_some {f : BitVec i.bits → Byte → M (Result i.bits)} (hexec : exec I s = shift i g1 g2 f s)
    (hlen : (encode I).length = 3 + (g1.length 1 + g2.length i.bytes))
    (hf : ∀ b c u, Reaches (f b c) u fun r u' => (r.psr = id ∧ r.overflow = false) ∧ u' = u) :
    ∃ v, Completes I s (replaced s 1 g1 i.bytes g2 v) := by
  obtain ⟨r, ⟨hpsr, hover⟩, hcompletes⟩ := replaced_completesUnless_some hs hi h1 h2 hexec hlen fun _ b c u => hf b c u
  rw [hpsr, hover] at hcompletes
  exact ⟨_, hcompletes⟩

/-- ADDPi and SUBPi on any digits complete with some value and some C and F (U18, log 17). -/
theorem packed_completes_some {f : State → BitVec i.bits → BitVec i.bits → M (Result i.bits)}
    (hexec : exec I s = binary 3 i g1 g2 f s) (hlen : (encode I).length = 3 + (g1.length i.bytes + g2.length i.bytes))
    (hf : ∀ t b a u, Reaches (f t b a) u fun r u' => ((∃ c f, r.psr = setCF c f) ∧ r.overflow = false) ∧ u' = u) :
    ∃ v c f, Completes I s ((replaced s i.bytes g1 i.bytes g2 v).withPsr (setCF c f)) := by
  obtain ⟨r, ⟨⟨c, f, hpsr⟩, hover⟩, hcompletes⟩ := replaced_completesUnless_some hs hi h1 h2 hexec hlen hf
  rw [hpsr, hover] at hcompletes
  exact ⟨_, c, f, hcompletes⟩

end Replaced

/-! ### Bits and fields of a register -/

theorem registerBit_some (w : Word) (o : Int) (u : State) : Reaches (registerBit w o) u fun _ u' => u' = u :=
  Reaches.ite (Reaches.pure rfl) (drawBool_plain u)

theorem registerWithBit_some (w : Word) (o : Int) (f : Bool → Bool) (u : State) :
    Reaches (registerWithBit w o f) u fun _ u' => u' = u :=
  Reaches.ite (Reaches.pure rfl) (drawWord_plain u)

/-- A field is no longer than its length, also where its bits are free (R400). -/
theorem fieldRead_reg_some (k : RegNum) (o : Int) (len : Nat) (u : State) :
    Reaches (fieldRead (.reg k) o len) u fun v u' => v &&& ~~~lowMask len = 0#64 ∧ u' = u := by
  have hlow (v : Quad) : v &&& lowMask len &&& ~~~lowMask len = 0#64 := by
    rw [BitVec.and_assoc, BitVec.and_not_self]
    exact BitVec.and_zero
  refine Reaches.getS fun _ _ _ _ => Reaches.ite ?_ ?_
  · exact Reaches.pure ⟨hlow _, rfl⟩
  · refine Reaches.bind (drawWord_plain u) ?_
    rintro _ _ rfl
    exact Reaches.pure ⟨hlow _, rfl⟩

theorem fieldWrite_reg_some (k : RegNum) (o : Int) (len : Nat) (v : Quad) (u : State) :
    Reaches (fieldWrite (.reg k) o len v) u fun _ u' => ∃ w, u' = u.setReg k w := by
  refine Reaches.getS fun _ _ _ _ => Reaches.ite ?_ ?_
  · exact (setReg_plain k (fun _ => _) fun _ _ _ _ => rfl).mono fun _ _ hu => ⟨_, hu⟩
  · refine Reaches.bind (drawWord_plain u) ?_
    rintro w _ rfl
    exact (setReg_plain k (fun _ => w) fun _ _ _ _ => rfl).mono fun _ _ hu => ⟨_, hu⟩

/-- The source is inserted with free bits above it, where it is shorter than the field (R402, U21). -/
theorem insertSource_some {i : Size} (v : BitVec i.bits) (len : Nat) (u : State) :
    Reaches (insertSource i v len) u fun x u' => x.setWidth i.bits = v ∧ u' = u := by
  have hw : i.bits ≤ 64 := (Size.bits_le i).trans (by decide)
  refine Reaches.ite ?_ ?_
  · exact Reaches.pure ⟨(BitVec.setWidth_setWidth_of_le v hw).trans (BitVec.setWidth_eq v), rfl⟩
  · refine Reaches.bind (drawWord_plain u) ?_
    rintro x _ rfl
    refine Reaches.pure ⟨BitVec.eq_of_getLsbD_eq fun k hk => ?_, rfl⟩
    have hk64 : k < 64 := by omega
    simp [hk, hk64]

section Registers

variable {i : Size} {g1 : Gen} {k : RegNum} {s : State} (hi : i ≠ .u) (hs : s.plain = true)
include hi hs

section Source

variable (h1 : legal .read g1 = true)
include h1

/-- TBITi of a register with any offset (U20, log 19). -/
theorem tbit_reg_some : ∃ f, Completes (.tbit i g1 (.mode (.reg k))) s ((afterSrc s i.bytes g1).withPsr (setF f)) := by
  have hram : (afterSrc s i.bytes g1).ram = true := (afterSrc_ram s i.bytes g1).trans (plain_ram hs)
  obtain ⟨_, ⟨f, rfl⟩, hcompletes⟩ := completes_of_reaches_some (I := .tbit i g1 (.mode (.reg k)))
    (P := fun u => ∃ f, u = (afterSrc s i.bytes g1).withPsr (setF f))
    (by rfl) (by exact enc4_length ..) hs (check_none rfl hi (legal_two h1 rfl) (.inl rfl) rfl rfl)
    (by
      rintro _ ⟨f, rfl⟩
      exact ⟨hram, afterSrc_dcr s i.bytes g1⟩)
    (by
      refine Reaches.bind (readInt_plain (plain_ram hs) i h1) ?_
      rintro _ _ ⟨rfl, rfl⟩
      refine Reaches.bind (baseOp_plain hram rfl) ?_
      rintro _ _ ⟨rfl, rfl⟩
      refine Reaches.getS fun _ _ _ _ => Reaches.bind (registerBit_some _ _ _) ?_
      rintro b _ rfl
      refine Reaches.bind (Reaches.updPsr (Q := fun _ u' => u' = _) rfl) ?_
      rintro _ _ rfl
      exact Reaches.pure ⟨rfl, b, rfl⟩)
  exact ⟨f, hcompletes⟩

/-- A bit of a register changed, with any offset (U20, log 19). -/
theorem testBit_reg_some {I : Instr} {locked : Bool} {f : Bool → Bool}
    (hexec : exec I s = testBit locked f i g1 (.mode (.reg k)) s)
    (hlen : (encode I).length = 3 + (g1.length i.bytes + (Gen.mode (.reg k)).length 4)) :
    ∃ w b, Completes I s (((afterSrc s i.bytes g1).setReg k w).withPsr (setF b)) := by
  have hram : (afterSrc s i.bytes g1).ram = true := (afterSrc_ram s i.bytes g1).trans (plain_ram hs)
  obtain ⟨_, ⟨w, b, rfl⟩, hcompletes⟩ := completes_of_reaches_some
    (P := fun u => ∃ w b, u = ((afterSrc s i.bytes g1).setReg k w).withPsr (setF b))
    hexec hlen hs (check_none rfl hi (legal_two h1 rfl) (.inl rfl) rfl rfl)
    (by
      rintro _ ⟨w, b, rfl⟩
      exact ⟨hram, afterSrc_dcr s i.bytes g1⟩)
    (by
      refine Reaches.bind (readInt_plain (plain_ram hs) i h1) ?_
      rintro _ _ ⟨rfl, rfl⟩
      refine Reaches.bind (baseOp_plain hram rfl) ?_
      rintro _ _ ⟨rfl, rfl⟩
      refine Reaches.getS fun _ _ _ _ => Reaches.bind (registerBit_some _ _ _) ?_
      rintro b _ rfl
      refine Reaches.bind (registerWithBit_some _ _ _ _) ?_
      rintro w _ rfl
      refine Reaches.bind (setReg_plain k (fun _ => w) fun _ _ _ _ => rfl) ?_
      rintro _ _ rfl
      refine Reaches.bind (Reaches.updPsr (Q := fun _ u' => u' = _) rfl) ?_
      rintro _ _ rfl
      exact Reaches.pure ⟨rfl, w, b, rfl⟩)
  exact ⟨w, b, hcompletes⟩

/-- INSi into a register (U20, U21, log 19). -/
theorem ins_reg_some {r : RegNum} {d : Disp} (hd : d.wf = true) (hlength : lengthOk d = true) :
    ∃ w, Completes (.ins i r g1 (.mode (.reg k)) d) s ((afterSrc s i.bytes g1).setReg k w) := by
  have hram : (afterSrc s i.bytes g1).ram = true := (afterSrc_ram s i.bytes g1).trans (plain_ram hs)
  obtain ⟨_, ⟨w, rfl⟩, hcompletes⟩ := completes_of_reaches_some (I := .ins i r g1 (.mode (.reg k)) d)
    (P := fun u => ∃ w, u = (afterSrc s i.bytes g1).setReg k w)
    (by rfl) (by exact encTwo_disp_length ..) hs
    (check_none_disp rfl hd (check_none rfl hi (legal_two h1 rfl) (.inl rfl) rfl (lengthOk_unrefused hlength)))
    (by
      rintro _ ⟨w, rfl⟩
      exact ⟨hram, afterSrc_dcr s i.bytes g1⟩)
    (by
      refine Reaches.bind (readInt_plain (plain_ram hs) i h1) ?_
      rintro _ _ ⟨rfl, rfl⟩
      refine Reaches.bind (baseOp_plain hram rfl) ?_
      rintro _ _ ⟨rfl, rfl⟩
      refine Reaches.getS fun _ _ _ _ => Reaches.bind (insertSource_some _ _ _) ?_
      rintro _ _ ⟨-, rfl⟩
      refine Reaches.bind (fieldWrite_reg_some k _ _ _ _) ?_
      rintro _ _ ⟨w, rfl⟩
      exact Reaches.pure ⟨rfl, w, rfl⟩)
  exact ⟨w, hcompletes⟩

/-- INSSi into a register (U20, log 19). -/
theorem inss_reg_some {c : Byte} :
    ∃ w, Completes (.inss i g1 (.mode (.reg k)) c) s ((afterSrc s i.bytes g1).setReg k w) := by
  have hram : (afterSrc s i.bytes g1).ram = true := (afterSrc_ram s i.bytes g1).trans (plain_ram hs)
  obtain ⟨_, ⟨w, rfl⟩, hcompletes⟩ := completes_of_reaches_some (I := .inss i g1 (.mode (.reg k)) c)
    (P := fun u => ∃ w, u = (afterSrc s i.bytes g1).setReg k w)
    (by rfl) (by exact encTwo_byte_length ..) hs (check_none rfl hi (legal_two h1 rfl) (.inl rfl) rfl rfl)
    (by
      rintro _ ⟨w, rfl⟩
      exact ⟨hram, afterSrc_dcr s i.bytes g1⟩)
    (by
      refine Reaches.bind (readInt_plain (plain_ram hs) i h1) ?_
      rintro _ _ ⟨rfl, rfl⟩
      refine Reaches.bind (baseOp_plain hram rfl) ?_
      rintro _ _ ⟨rfl, rfl⟩
      refine Reaches.bind (fieldWrite_reg_some k _ _ _ _) ?_
      rintro _ _ ⟨w, rfl⟩
      exact Reaches.pure ⟨rfl, w, rfl⟩)
  exact ⟨w, hcompletes⟩

/-- INSi inserts some value whose low bits are the source, inside its base (U21, log 19). -/
theorem ins_completes_some {r : RegNum} {d : Disp} {g2 : Gen} (h2 : legal .regaddr g2 = true) (hd : d.wf = true)
    (hlength : lengthOk d = true)
    (hin : insideBase (baseOf (afterSrc s i.bytes g1) g2) (s.reg r).toInt d.value.toNat = true) :
    ∃ v : Quad, v.setWidth i.bits = (src s i.bytes g1).setWidth i.bits ∧
      Completes (.ins i r g1 g2 d) s (fieldPut (afterSrc s i.bytes g1) (s.reg r).toInt d.value.toNat v
        (baseOf (afterSrc s i.bytes g1) g2)) := by
  have hram : (afterSrc s i.bytes g1).ram = true := (afterSrc_ram s i.bytes g1).trans (plain_ram hs)
  obtain ⟨_, ⟨v, hv, rfl⟩, hcompletes⟩ := completes_of_reaches_some (I := .ins i r g1 g2 d)
    (P := fun u => ∃ v : Quad, v.setWidth i.bits = (src s i.bytes g1).setWidth i.bits ∧
      u = fieldPut (afterSrc s i.bytes g1) (s.reg r).toInt d.value.toNat v (baseOf (afterSrc s i.bytes g1) g2))
    (by rfl) (by exact encTwo_disp_length ..) hs
    (check_none_disp rfl hd (check_none rfl hi (legal_two h1 h2) (.inl rfl) rfl (lengthOk_unrefused hlength)))
    (by
      rintro _ ⟨v, -, rfl⟩
      cases baseOf (afterSrc s i.bytes g1) g2 <;> exact ⟨hram, afterSrc_dcr s i.bytes g1⟩)
    (by
      refine Reaches.bind (readInt_plain (plain_ram hs) i h1) ?_
      rintro _ _ ⟨rfl, rfl⟩
      refine Reaches.bind (baseOp_plain hram h2) ?_
      rintro _ _ ⟨rfl, rfl⟩
      refine Reaches.getS fun _ _ _ _ => Reaches.bind (insertSource_some _ _ _) ?_
      rintro v _ ⟨hv, rfl⟩
      rw [State.book_reg, afterSrc_reg]
      refine Reaches.bind (fieldWrite_plain hram hin v) ?_
      rintro _ _ rfl
      exact Reaches.pure ⟨rfl, v, hv, rfl⟩)
  exact ⟨v, hv, hcompletes⟩

end Source

variable {g2 : Gen} (h2 : legal .write g2 = true)
include h2

/-- EXTi of a register (U20, log 19). -/
theorem extf_reg_some {r : RegNum} {d : Disp} (hd : d.wf = true) (hlength : lengthOk d = true) :
    ∃ v, v &&& ~~~lowMask d.value.toNat = 0#64 ∧
      Completes (.extf i r (.mode (.reg k)) g2 d) s (written s i.bytes v (genLoc s g2)) := by
  have hram := plain_ram hs
  obtain ⟨_, ⟨v, hv, rfl⟩, hcompletes⟩ := completes_of_reaches_some (I := .extf i r (.mode (.reg k)) g2 d)
    (P := fun u => ∃ v, v &&& ~~~lowMask d.value.toNat = 0#64 ∧ u = written s i.bytes v (genLoc s g2))
    (by rfl) (by exact encTwo_disp_length ..) hs
    (check_none_disp rfl hd (check_none rfl hi (legal_two rfl h2) (.inl rfl) rfl (lengthOk_unrefused hlength)))
    (by
      rintro _ ⟨v, -, rfl⟩
      obtain ⟨h3, h4⟩ := written_frame s i.bytes v (genLoc s g2)
      exact ⟨h3.trans hram, h4⟩)
    (by
      refine Reaches.bind (baseOp_plain hram rfl) ?_
      rintro _ _ ⟨rfl, rfl⟩
      refine Reaches.bind (locGen_plain hram h2) ?_
      rintro _ _ ⟨rfl, rfl⟩
      refine Reaches.getS fun _ _ _ _ => Reaches.bind (fieldRead_reg_some k _ _ _) ?_
      rintro v _ ⟨hv, rfl⟩
      refine Reaches.bind (writeLoc_plain hram _ _ (genLoc_not_imm (by decide) h2)) ?_
      rintro _ _ rfl
      exact Reaches.pure ⟨rfl, v, hv, rfl⟩)
  exact ⟨v, hv, hcompletes⟩

/-- EXTSi of a register (U20, log 19). -/
theorem exts_reg_some {c : Byte} : ∃ v, v &&& ~~~lowMask (shortLength c) = 0#64 ∧
    Completes (.exts i (.mode (.reg k)) g2 c) s (written s i.bytes v (genLoc s g2)) := by
  have hram := plain_ram hs
  obtain ⟨_, ⟨v, hv, rfl⟩, hcompletes⟩ := completes_of_reaches_some (I := .exts i (.mode (.reg k)) g2 c)
    (P := fun u => ∃ v, v &&& ~~~lowMask (shortLength c) = 0#64 ∧ u = written s i.bytes v (genLoc s g2))
    (by rfl) (by exact encTwo_byte_length ..) hs (check_none rfl hi (legal_two rfl h2) (.inl rfl) rfl rfl)
    (by
      rintro _ ⟨v, -, rfl⟩
      obtain ⟨h3, h4⟩ := written_frame s i.bytes v (genLoc s g2)
      exact ⟨h3.trans hram, h4⟩)
    (by
      refine Reaches.bind (baseOp_plain hram rfl) ?_
      rintro _ _ ⟨rfl, rfl⟩
      refine Reaches.bind (locGen_plain hram h2) ?_
      rintro _ _ ⟨rfl, rfl⟩
      refine Reaches.bind (fieldRead_reg_some k _ _ _) ?_
      rintro v _ ⟨hv, rfl⟩
      refine Reaches.bind (writeLoc_plain hram _ _ (genLoc_not_imm (by decide) h2)) ?_
      rintro _ _ rfl
      exact Reaches.pure ⟨rfl, v, hv, rfl⟩)
  exact ⟨v, hv, hcompletes⟩

end Registers

/-- Settles O34: where a result is undefined the instruction draws it, and drawing a value stops nothing. -/
theorem undefinedResultsGoOn : Obligations.UndefinedResultsGoOn := by
  intro i g1 g2 k s hi hs h1 s1
  refine ⟨fun h2 => ⟨fun u hu => ?_, ?_, fun u hu => ?_, fun hodd ha => ?_⟩, tbit_reg_some hi hs h1,
    fun u hu => ?_, fun r d c hd hlength => ⟨fun h2 => ⟨extf_reg_some hi hs h2 hd hlength, exts_reg_some hi hs h2⟩,
      ins_reg_some hi hs h1 hd hlength, inss_reg_some hi hs h1, fun h2 hin => ins_completes_some hi hs h1 h2 hd hlength hin⟩⟩
  · simp only [List.mem_cons, List.not_mem_nil, or_false] at hu
    obtain rfl | rfl := hu
    · exact shift_completes_some hi hs h1 h2 rfl (encTwo_length ..) logicalShift_some
    · exact shift_completes_some hi hs h1 h2 rfl (encTwo_length ..) rotate_some
  · obtain ⟨r, hpsr, hcompletes⟩ := replaced_completesUnless_some (I := .ash i g1 g2) hs hi h1 h2 (by rfl)
      (encTwo_length ..) fun _ b c u => arithmeticShift_some b c u
    rw [hpsr] at hcompletes
    exact ⟨_, _, hcompletes⟩
  · simp only [List.mem_cons, List.not_mem_nil, or_false] at hu
    obtain rfl | rfl := hu
    · exact packed_completes_some hi hs h1 h2 rfl (encTwo_length ..) fun _ b a u => addPacked_some b u a _
    · exact packed_completes_some hi hs h1 h2 rfl (encTwo_length ..) fun _ b a u => subPacked_some b u a _
  · obtain ⟨x, y, -, hcompletes⟩ := dei_completesUnless hi hs h1 h2 hodd rfl
      (Nat.pos_of_ne_zero fun h => ha (BitVec.eq_of_toNat_eq h))
    exact ⟨x, y, hcompletes⟩
  · simp only [List.mem_cons, List.not_mem_nil, or_false] at hu
    obtain rfl | rfl | rfl | rfl | rfl := hu
    all_goals exact testBit_reg_some hi hs h1 rfl (encTwo_length ..)

end Sys2Proof.Machine
end

section
/-! PROOF. One element of a string instruction: the flags set before the loop, the entry read and matched, the
instruction's own step on it, and the pointers and the count advanced (R420 to R427). -/

namespace Sys2Proof.Machine

/-- The pointers and the count advanced; which registers these are does not overlap (R420). -/
theorem advance_plain (u : State) (n : Nat) (back two : Bool) :
    Reaches (advance n back two) u fun _ u' => u' = advanced u n back two := by
  refine Reaches.bind (setReg_plain 1#3 (fun t => t.reg 1#3 + stride n back) fun _ _ _ _ => rfl) ?_
  rintro _ _ rfl
  have hcount (t : State) (v : Word) {k : RegNum} (hk : 0#3 ≠ k) : (t.setReg k v).reg 0#3 = t.reg 0#3 :=
    State.setReg_reg_other t v hk
  cases two with
  | false =>
    refine (setReg_plain 0#3 (fun t => t.reg 0#3 - 1#32) fun _ _ _ _ => rfl).mono ?_
    rintro _ _ rfl
    simp only [advanced, Bool.false_eq_true, if_false, hcount _ _ (show (0#3 : RegNum) ≠ 1#3 by decide)]
  | true =>
    refine Reaches.bind (setReg_plain 2#3 (fun t => t.reg 2#3 + stride n back) fun _ _ _ _ => rfl) ?_
    rintro _ _ rfl
    refine (setReg_plain 0#3 (fun t => t.reg 0#3 - 1#32) fun _ _ _ _ => rfl).mono ?_
    rintro _ _ rfl
    simp only [advanced, if_true, hcount _ _ (show (0#3 : RegNum) ≠ 1#3 by decide),
      hcount _ _ (show (0#3 : RegNum) ≠ 2#3 by decide)]

theorem advanced_frame (u : State) (n : Nat) (back two : Bool) :
    (advanced u n back two).pc = u.pc ∧ (advanced u n back two).afterException = u.afterException := by
  cases two <;> exact ⟨rfl, rfl⟩

/-- What a step of a string instruction does with its entry: `stopped` where CMPS finds a difference (R422, R424, R426). -/
def ElementStep (k : StringKind) (i : Size) (e : Quad) (u : State) (stopped : Bool) (u' : State) : Prop :=
  if k = .compare ∧ e ≠ u.load (u.reg 2#3) i.bytes then
    stopped = true ∧ u' = u.withPsr (compareFlags (e.setWidth i.bits) ((u.load (u.reg 2#3) i.bytes).setWidth i.bits))
  else stopped = false ∧ u' = if k = .move then u.put (u.reg 2#3) i.bytes e else u

section Steps

variable {u : State} (h : u.ram = true) (i : Size) (e : Quad)
include h

theorem moveStep_plain : Reaches (moveStep i.bytes e) u (ElementStep .move i e u) := by
  refine Reaches.getS fun _ _ _ _ => Reaches.bind (memWrite_plain h _ _ _) ?_
  rintro _ _ rfl
  exact Reaches.pure ⟨rfl, rfl⟩

theorem compareStep_plain : Reaches (compareStep i e) u (ElementStep .compare i e u) := by
  refine Reaches.getS fun _ _ _ _ => Reaches.bind (memRead_plain h _ _) ?_
  rintro _ t ⟨rfl, rfl⟩
  by_cases he : e = t.load (t.reg 2#3) i.bytes
  · rw [State.book_reg, if_pos he]
    refine Reaches.pure ?_
    rw [ElementStep, if_neg fun hne => hne.2 he]
    exact ⟨rfl, rfl⟩
  · rw [State.book_reg, if_neg he]
    refine Reaches.bind (Reaches.updPsr (Q := fun _ u' => u' = _) rfl) ?_
    rintro _ _ rfl
    refine Reaches.pure ?_
    rw [ElementStep, if_pos ⟨rfl, he⟩]
    exact ⟨rfl, rfl⟩

end Steps

theorem skipStep_plain (u : State) (i : Size) (e : Quad) : Reaches (pure false) u (ElementStep .skip i e u) :=
  Reaches.pure ⟨rfl, rfl⟩

/-- How the actions of an element end: they leave what the step leaves, but for the PC and what says that elements are
left (R421). -/
def ElementDone (k : StringKind) (i : Size) (translate : Bool) (o : StrOpts) (next : Word) (s : State) (d : Done)
    (u : State) : Prop :=
  ∃ left, d = { element := true, unfinished := left } ∧ u.pc = s.pc ∧ u.afterException = s.afterException
    ∧ stringState k i translate o next s = if left then { u with midString := true } else u.retired next

section Element

variable {k : StringKind} {i : Size} {translate : Bool} {o : StrOpts} {before : M Unit} {step : Quad → M Bool} {s : State}

/-- The entry, translated or not (R423, R425, R427). -/
theorem entry_plain (translate : Bool) {u : State} (h : u.ram = true) (a : Word) (e : Quad) :
    Reaches (if translate then memRead a 1 else pure e) u fun v u' =>
      v = (if translate then u.load a 1 else e) ∧ u' = u := by
  cases translate with
  | true => exact memRead_plain h a 1
  | false => exact Reaches.pure ⟨rfl, rfl⟩

theorem iteration_plain (next : Word) (h : s.ram = true)
    (hbefore : ∀ u, Reaches before u fun _ u' => u' = u.withPsr (if k = .compare then setZNL true false false else id))
    (hstep : ∀ u e, u.ram = true → Reaches (step e) u (ElementStep k i e u)) :
    Reaches (iteration i.bytes translate (k != .skip) o before step) s (ElementDone k i translate o next s) := by
  refine Reaches.bind (Reaches.updPsr (Q := fun _ u' => u' = _) rfl) ?_
  rintro _ _ rfl
  refine Reaches.bind (hbefore _) ?_
  rintro _ _ rfl
  have hreg (f g : Half → Half) (r : RegNum) : ((s.withPsr f).withPsr g).reg r = s.reg r := rfl
  refine Reaches.getS fun _ _ _ _ => ?_
  simp only [State.book_reg, hreg]
  by_cases hzero : s.reg 0#3 = 0#32
  · rw [if_pos hzero]
    exact Reaches.pure ⟨false, rfl, rfl, rfl, by rw [stringState, if_pos hzero]; rfl⟩
  rw [if_neg hzero]
  have hflagged : ((s.withPsr (setF false)).withPsr (if k = .compare then setZNL true false false else id)).ram = true := h
  refine Reaches.bind (memRead_plain hflagged _ _) ?_
  rintro _ _ ⟨rfl, rfl⟩
  refine Reaches.join (entry_plain translate hflagged _ _) ?_
  rintro e _ ⟨he, rfl⟩
  by_cases hends : ends o.uw (e == lowBytes i.bytes ((s.reg 4#3).setWidth 64)) = true
  · rw [if_pos hends]
    refine Reaches.bind (Reaches.updPsr (Q := fun _ u' => u' = _) rfl) ?_
    rintro _ _ rfl
    refine Reaches.pure ⟨false, rfl, rfl, rfl, ?_⟩
    rw [he] at hends
    rw [stringState, if_neg hzero]
    exact if_pos hends
  rw [if_neg hends]
  refine Reaches.bind (hstep _ e hflagged) ?_
  intro stopped u hdone
  by_cases hdiffer : k = .compare ∧ e ≠ s.load (s.reg 2#3) i.bytes
  · obtain ⟨rfl, rfl⟩ := (if_pos hdiffer).mp hdone
    refine Reaches.pure ⟨false, rfl, rfl, rfl, ?_⟩
    rw [he] at hends hdiffer ⊢
    rw [stringState, if_neg hzero]
    exact (if_neg hends).trans (if_pos hdiffer)
  · obtain ⟨rfl, rfl⟩ := (if_neg hdiffer).mp hdone
    refine Reaches.bind (advance_plain _ _ _ _) ?_
    rintro _ _ rfl
    refine Reaches.pure ⟨decide (s.reg 0#3 ≠ 1#32), rfl, ?_, ?_, ?_⟩
    · refine (advanced_frame _ _ _ _).1.trans ?_
      split <;> rfl
    · refine (advanced_frame _ _ _ _).2.trans ?_
      split <;> rfl
    rw [he] at hends hdiffer ⊢
    rw [stringState, if_neg hzero]
    refine ((if_neg hends).trans (if_neg hdiffer)).trans ?_
    by_cases hlast : s.reg 0#3 = 1#32
    · exact (if_pos hlast).trans (if_neg (by simp [hlast])).symm
    · exact (if_neg hlast).trans (if_pos (decide_eq_true hlast)).symm

/-- A string instruction leaves what its element leaves, and has elements left or retires (R23, R421, R690). -/
theorem string_goes (hi : i ≠ .u) (hs : s.plain = true) (huw : o.uw ≠ .unassigned) (hpad : o.pad = 0#6)
    (hbefore : ∀ u, Reaches before u fun _ u' => u' = u.withPsr (if k = .compare then setZNL true false false else id))
    (hstep : ∀ u e, u.ram = true → Reaches (step e) u (ElementStep k i e u)) :
    Goes (string i translate (k != .skip) o before step s) (Agrees s (stringState k i translate o (s.pc + 3#32) s)) := by
  have hc : Shape.check { basic := 3, size := i,
                          reserved := if o.uw = .unassigned then some .stringOption
                                      else refuseIf (o.pad != 0#6) .dontCareBits } s = none :=
    check_none rfl hi (fun _ ho => nomatch ho) (.inl rfl) rfl (by rw [if_neg huw, hpad]; rfl)
  obtain ⟨_, u, t, hok, hsim, left, rfl, hpc, hafter, hstate⟩ :=
    iteration_plain (s.pc + 3#32) (plain_ram hs) hbefore hstep s (Sim.refl (plain_pendingError hs))
  have hrun : string i translate (k != .skip) o before step s
      = complete 3 s { element := true, unfinished := left } t := run_complete hc hok hsim.pendingError
  rw [hrun, hstate]
  cases left with
  | false => exact complete_agrees 3 hsim rfl rfl (.inl rfl)
  | true =>
    obtain ⟨wb, sc, fc, rf, hw, rfl⟩ := hsim
    refine ⟨_, rfl, ?_, rfl, fun _ => ⟨rfl, rfl⟩⟩
    simp only [if_true, State.book, hpc, hafter]
    rfl

end Element

/-- Settles O40: the six instructions are one element with its step and its flags as parameters. -/
theorem stringElements : Obligations.StringElements := by
  intro i o s hi hs huw hpad next
  have hb : Size.b ≠ .u := nofun
  have hsilent (u : State) : Reaches (pure ()) u fun _ u' => u' = u.withPsr id := Reaches.pure rfl
  have hflags (u : State) : Reaches equalFlags u fun _ u' => u' = u.withPsr (setZNL true false false) :=
    Reaches.updPsr rfl
  exact ⟨string_goes (k := .move) hi hs huw hpad hsilent fun _ e h => moveStep_plain h i e,
    string_goes (k := .move) hb hs huw hpad hsilent fun _ e h => moveStep_plain h .b e,
    string_goes (k := .compare) hi hs huw hpad hflags fun _ e h => compareStep_plain h i e,
    string_goes (k := .compare) hb hs huw hpad hflags fun _ e h => compareStep_plain h .b e,
    string_goes (k := .skip) hi hs huw hpad hsilent fun u e _ => skipStep_plain u i e,
    string_goes (k := .skip) hb hs huw hpad hsilent fun u e _ => skipStep_plain u .b e⟩

end Sys2Proof.Machine
end

section
/-! PROOF. The frame of an exception in both dispatch modes: what is pushed on SP0, and the bytes outside it (R641,
R642, R644). -/

namespace Sys2Proof.Machine

/-- Settles O12: the dispatch table and the module descriptor of a plain state are memory. -/
theorem exceptionEntry : Obligations.ExceptionEntry := fun clearP clearI vector ret _ hs =>
  takeException_agrees hs clearP clearI vector ret

/-- The frame of an entry in the modular mode (R642). -/
def moduleFramed (s : State) (copy : Half) (ret : Word) : State :=
  ((s.put (s.sp0 - 2#32) 2 (copy.setWidth 64)).put (s.sp0 - 4#32) 2 (s.mod.setWidth 64)).put (s.sp0 - 8#32) 4
    (ret.setWidth 64)

theorem moduleFramed_loads {s : State} (hm : Memory.wf s.mem = true) (copy : Half) (ret : Word) :
    (moduleFramed s copy ret).load32 (s.sp0 - 8#32) = ret
      ∧ ((moduleFramed s copy ret).load (s.sp0 - 8#32 + 6#32) 2).setWidth 16 = copy
      ∧ ((moduleFramed s copy ret).load (s.sp0 - 8#32 + 4#32) 2).setWidth 16 = s.mod
      ∧ ∀ a : Word, 8 ≤ (a - (s.sp0 - 8#32)).toNat →
          memGet (moduleFramed s copy ret).mem a.toNat = memGet s.mem a.toNat := by
  have hwf := put_wf hm (s.sp0 - 2#32) 2 (copy.setWidth 64)
  have hwf' := put_wf hwf (s.sp0 - 4#32) 2 (s.mod.setWidth 64)
  refine ⟨load32_put hwf' _ ret, ?_, ?_, fun a ha => ?_⟩
  · have hslot : s.sp0 - 8#32 + 6#32 = s.sp0 - 2#32 := by bv_omega
    rw [moduleFramed, load_put_other hwf' (by decide) _ fun k hk => by bv_omega,
      load_put_other hwf (by decide) _ fun k hk => by bv_omega, hslot]
    exact load16_put hm _ copy
  · have hslot : s.sp0 - 8#32 + 4#32 = s.sp0 - 4#32 := by bv_omega
    rw [moduleFramed, load_put_other hwf' (by decide) _ fun k hk => by bv_omega, hslot]
    exact load16_put hwf _ s.mod
  · rw [moduleFramed, memGet_put_other hwf' (by decide) _ (by omega), memGet_put_other hwf (by decide) _ (by bv_omega),
      memGet_put_other hm (by decide) _ (by bv_omega)]

/-- What is left of the stack pointers, the general registers and memory when `k` bytes have been pushed on SP0. -/
structure Frames (k : Word) (s f u : State) : Prop where
  sp0 : u.sp0 = s.sp0 - k
  sp1 : u.sp1 = s.sp1
  regs : u.regs = s.regs
  mem : u.mem = f.mem

theorem Frames.pushed {k k' : Word} {s f u : State} (h : Frames k s f u) (hS : u.flagS = false) (n : Nat) (v : Quad)
    (hk : k + BitVec.ofNat 32 n = k') : Frames k' s (f.put (s.sp0 - k') n v) (u.pushed n v) := by
  have hslot : u.sp0 - BitVec.ofNat 32 n = s.sp0 - k' := by
    rw [h.sp0, ← hk]
    bv_omega
  rw [pushed_supervisor hS, hslot]
  refine ⟨rfl, h.sp1, h.regs, ?_⟩
  change storeBytes [] u.mem _ _ = storeBytes [] f.mem _ _
  rw [h.mem]

section EntryState

variable {s : State} (clearI : Bool) (v : Byte) (copy : Half) (ret : Word)

theorem entryState_frames_direct (hde : s.cfgDE = true) :
    Frames 8#32 s (framed s copy ret) (entryState clearI v copy ret s) := by
  rw [entryState_direct hde]
  exact ⟨rfl, rfl, rfl, rfl⟩

theorem entryState_frames_modular (hde : s.cfgDE = false) :
    Frames 8#32 s (moduleFramed s copy ret) (entryState clearI v copy ret s) := by
  have hS (t : State) (ht : t.psr = entryPsr clearI copy) : t.flagS = false :=
    (congrArg (·.getLsbD 9) ht).trans (entryPsr_clears clearI copy (by decide))
  let u : State := { s with psr := entryPsr clearI copy }
  let t : State := (u.pushed 2 (copy.setWidth 64)).pushed 2 (s.mod.setWidth 64)
  have ht : t.psr = entryPsr clearI copy := (State.pushed_psr ..).trans (State.pushed_psr ..)
  have h0 : Frames 0#32 s s u := ⟨(BitVec.sub_zero _).symm, rfl, rfl, rfl⟩
  have h2 := h0.pushed (k' := 2#32) (hS u rfl) 2 (copy.setWidth 64) (by decide)
  have h4 := h2.pushed (k' := 4#32) (hS _ (State.pushed_psr ..)) 2 (s.mod.setWidth 64) (by decide)
  have h8 (m : Half) (pc sb : Word) := Frames.pushed (k := 4#32) (k' := 8#32) (u := { t with mod := m, pc := pc, sb := sb })
    ⟨h4.sp0, h4.sp1, h4.regs, h4.mem⟩ (hS _ ht) 4 (ret.setWidth 64) (by decide)
  simp only [entryState, entryPushed, hde, Bool.false_eq_true, if_false]
  exact ⟨(h8 _ _ _).sp0, (h8 _ _ _).sp1, (h8 _ _ _).regs, (h8 _ _ _).mem⟩

end EntryState

theorem Frames.of_agrees {k : Word} {s f s' u t : State} (h : Frames k s f u) (ht : Agrees s' u t) : Frames k s f t where
  sp0 := (congrArg State.sp0 ht.marked :).trans h.sp0
  sp1 := (congrArg State.sp1 ht.marked :).trans h.sp1
  regs := (congrArg State.regs ht.marked :).trans h.regs
  mem := ht.mem.trans h.mem

/-- Settles O13: the words of the frame do not overlap, in either mode. -/
theorem exceptionFrame : Obligations.ExceptionFrame := by
  intro clearP clearI vector ret s hs hm
  refine (takeException_agrees hs clearP clearI vector ret).mono fun t ht => ?_
  cases hde : s.cfgDE with
  | true =>
    obtain ⟨hsp0, hsp1, hregs, hmem⟩ := (entryState_frames_direct _ _ _ _ hde).of_agrees ht
    obtain ⟨hret, hcopy, hkept⟩ := framed_loads hm (entryCopy clearP s.psr) ret
    rw [hsp0, hmem, State.load32, load_congr hmem, load_congr hmem]
    exact ⟨rfl, hsp1, hregs, hret, hcopy, nofun, hkept⟩
  | false =>
    obtain ⟨hsp0, hsp1, hregs, hmem⟩ := (entryState_frames_modular _ _ _ _ hde).of_agrees ht
    obtain ⟨hret, hcopy, hmod, hkept⟩ := moduleFramed_loads hm (entryCopy clearP s.psr) ret
    rw [hsp0, hmem, State.load32, load_congr hmem, load_congr hmem, load_congr hmem]
    exact ⟨rfl, hsp1, hregs, hret, hcopy, fun _ => hmod, hkept⟩

end Sys2Proof.Machine
end

section
/-! PROOF. What is taken between instructions: the acknowledge cycles of NMI and INT with the answers of the interrupt
control units, Trap (TRC) and Trap (DBG) (R632, R633, R660, R684, R685). -/

namespace Sys2Proof.Machine

theorem icuRead_reply {u : State} (h : u.ram = true) {b : Byte} {rest : List Byte} (hicu : u.icuReplies = b :: rest)
    (status : BitVec 5) (a : Word) :
    Reaches (icuRead status a) u fun x u' => x = b ∧ u' = u.withReplies rest := by
  intro t ht
  obtain ⟨t', hok, hsim⟩ := icuRead_ok h ht status a
  obtain ⟨wb, sc, fc, rf, hw, rfl⟩ := ht
  have hb : (u.book wb sc fc rf).icuReplies = b :: rest := hicu
  rw [hb] at hok
  rw [hicu] at hsim
  exact ⟨b, _, t', hok, hsim, rfl, rfl⟩

/-- An exception taken in a state that is `s` but for the bookkeeping and PSR leaves what its sequence leaves of `s`, the
debug conditions of the entry's references committed (R641, R686). -/
theorem takeException_leaves {s t e : State} {clearP clearI : Bool} {vector : M Byte} {copy : Half} {ret : Word}
    (hcopy : entryCopy clearP t.psr = copy)
    (ht : Sim { s with psr := entryPsr clearI copy } { t with psr := entryPsr clearI copy })
    (hrun : Reaches (do let x ← vector; service x copy ret) { s with psr := entryPsr clearI copy } fun _ w =>
      { w with op := .executing, midString := false, afterException := true } = e) (hdcr : e.dcr = s.dcr) :
    Goes (takeException clearP clearI vector ret t) (Agrees s e) := by
  subst hcopy
  obtain ⟨⟨⟩, u, w, hok, hsim, he⟩ := hrun _ ht
  have hentry : entryRun clearP clearI vector ret t = .ok () w := hok
  rw [takeException_ok hentry]
  have hdcr' : u.dcr = s.dcr := (congrArg State.dcr he).trans hdcr
  obtain ⟨wb, sc, fc, rf, -, rfl⟩ := hsim
  unfold entered commitRefs
  obtain ⟨x, b, hx, hm, hd⟩ := commitDebug_eq (u.book wb sc fc rf).debugRegs
    ((rf.drop t.refs.length).any ((u.book wb sc fc rf).debugRegs.hit false))
    ((rf.drop t.refs.length).any ((u.book wb sc fc rf).debugRegs.hit true)) false
    { u.book wb sc fc rf with op := .executing, midString := false, elementRefs := [], afterException := true }
  refine ⟨_, congrArg Host.Outcome.next hx, ?_⟩
  rw [← he]
  refine ⟨rfl, hm, fun hden => ?_⟩
  have hden' : (u.book wb sc fc rf).debugRegs.dcr.getLsbD 23 = false := (congrArg (·.getLsbD 23) hdcr').trans hden
  exact hd (hit_disabled hden' _ _) (hit_disabled hden' _ _) rfl

/-- An exception whose vector is answered by interrupt control units leaves what `entryState` says, and their other
answers (R633, R641). -/
theorem takeException_vector {s : State} (hs : s.plain = true) {clearP clearI : Bool} {vector : M Byte} {v : Byte}
    {rest : List Byte} (hv : Reaches vector { s with psr := entryPsr clearI (entryCopy clearP s.psr) } fun x u =>
      x = v ∧ u = State.withReplies { s with psr := entryPsr clearI (entryCopy clearP s.psr) } rest) (ret : Word) :
    Goes (takeException clearP clearI vector ret s)
      (Agrees s (entryState clearI v (entryCopy clearP s.psr) ret (s.withReplies rest))) := by
  have hram : (s.withReplies rest).ram = true := plain_ram hs
  refine takeException_leaves rfl (Sim.refl (plain_pendingError hs)) ?_ (entryState_dcr ..)
  refine Reaches.bind hv ?_
  rintro _ _ ⟨rfl, rfl⟩
  exact service_plain hram clearI _ _ ret

/-- A vector F0 to FF has bit 7 set (R633). -/
theorem cascade_bit {b : Byte} (hb : b.extractLsb' 4 4 = 0xF#4) : b.getLsbD 7 = true := by
  have := congrArg (·.getLsbD 3) hb
  simpa using this

section Vectors

variable {u : State} (h : u.ram = true) {b : Byte} {rest : List Byte} (hicu : u.icuReplies = b :: rest)
include h hicu

theorem interruptVector_nmi : Reaches (interruptVector true) u fun x u' => x = 1#8 ∧ u' = u.withReplies rest := by
  refine Reaches.getS fun _ _ _ _ => Reaches.of_true rfl ?_
  refine Reaches.bind (icuRead_reply h hicu _ _) ?_
  rintro _ _ ⟨rfl, rfl⟩
  exact Reaches.pure ⟨rfl, rfl⟩

/-- What INT does with the byte of its acknowledge cycle (R633). -/
theorem interruptVector_reads {P : Byte → State → Prop}
    (hk : Reaches (if !u.cfgI then pure 0#8
      else if !b.getLsbD 7 then pure b
      else if b.extractLsb' 4 4 == 0xF#4 then do
        let ca ← memRead32 (u.intbase + 4#32 * b.signExtend 32)
        icuRead 0b00101#5 ca
      else stop (.refuse .vectorByte)) (u.withReplies rest) P) : Reaches (interruptVector false) u P := by
  refine Reaches.getS fun _ _ _ _ => Reaches.of_false nofun ?_
  refine Reaches.bind (icuRead_reply h hicu _ _) ?_
  rintro _ _ ⟨rfl, rfl⟩
  exact hk

theorem interruptVector_fixed (hi : u.cfgI = false) :
    Reaches (interruptVector false) u fun x u' => x = 0#8 ∧ u' = u.withReplies rest :=
  interruptVector_reads h hicu (Reaches.of_true (by rw [hi]; rfl) (Reaches.pure ⟨rfl, rfl⟩))

section Vectored

variable (hi : u.cfgI = true)
include hi

theorem interruptVector_answered (hb : b.getLsbD 7 = false) :
    Reaches (interruptVector false) u fun x u' => x = b ∧ u' = u.withReplies rest :=
  interruptVector_reads h hicu <| Reaches.of_false (by rw [hi]; decide) <|
    Reaches.of_true (by rw [hb]; rfl) (Reaches.pure ⟨rfl, rfl⟩)

theorem interruptVector_cascaded (hb : b.extractLsb' 4 4 = 0xF#4) {c : Byte} {rest' : List Byte}
    (hrest : rest = c :: rest') :
    Reaches (interruptVector false) u fun x u' => x = c ∧ u' = u.withReplies rest' := by
  have hsign := cascade_bit hb
  refine interruptVector_reads h hicu <| Reaches.of_false (by rw [hi]; decide) <|
    Reaches.of_false (by rw [hsign]; decide) <| Reaches.of_true (by rw [hb]; rfl) ?_
  refine Reaches.bind (memRead32_plain (u := u.withReplies rest) h _) ?_
  rintro _ _ ⟨rfl, rfl⟩
  exact icuRead_reply (u := u.withReplies rest) h hrest _ _

theorem interruptVector_reserved (hsign : b.getLsbD 7 = true) (hb : b.extractLsb' 4 4 ≠ 0xF#4) :
    Stops (.refuse .vectorByte) (interruptVector false) u (u.withReplies rest) := by
  refine Stops.getS fun wb sc fc rf => ?_
  have hvectored : (u.book wb sc fc rf).cfgI = true := hi
  simp only [Bool.false_eq_true, if_false]
  refine Reaches.bind_stops (icuRead_reply h hicu _ _) ?_
  rintro _ _ ⟨rfl, rfl⟩
  simp only [hvectored, hsign, beq_eq_false_iff_ne.mpr hb, Bool.not_true, Bool.false_eq_true, if_false]
  exact Stops.stop _

end Vectored

end Vectors

theorem takeException_of_refused {s t : State} {clearP clearI : Bool} {vector : M Byte} {ret : Word} {r : Refusal}
    (h : entryRun clearP clearI vector ret s = .error (.refuse r) t) :
    takeException clearP clearI vector ret s = .refused r := by
  unfold entryRun entryCopy at h
  simp only [takeException, h]

/-- An exception whose vector is refused is not taken. -/
theorem takeException_refused {s w : State} (hs : s.plain = true) {clearP clearI : Bool} {vector : M Byte} {r : Refusal}
    (hv : Stops (.refuse r) vector { s with psr := entryPsr clearI (entryCopy clearP s.psr) } w) (ret : Word) :
    takeException clearP clearI vector ret s = .refused r := by
  obtain ⟨t, herror, -⟩ := (hv.bind (k := fun x => service x (entryCopy clearP s.psr) ret)) _
    (Sim.refl (plain_pendingError hs))
  exact takeException_of_refused herror

/-- An interrupt whose vector is known is taken. -/
theorem takeInterrupt_vector {s : State} (hs : s.plain = true) {nmi : Bool} {v : Byte} {rest : List Byte}
    (hv : ∀ p latch, Reaches (interruptVector nmi) { s with psr := p, nmiLatch := latch } fun x u =>
      x = v ∧ u = State.withReplies { s with psr := p, nmiLatch := latch } rest) :
    Goes (takeInterrupt s nmi s) (Agrees s (entryState true v (entryCopy s.midString s.psr) s.pc
      { s with icuReplies := rest, nmiLatch := if nmi then false else s.nmiLatch })) := by
  have hp : s.pendingError = false := plain_pendingError hs
  have htaken : takeInterrupt s nmi s = takeException s.midString true (interruptVector nmi) s.pc
      { s with nmiLatch := if nmi then false else s.nmiLatch } := if_neg (ne_true_of_eq_false hp)
  rw [htaken]
  exact takeException_vector (s := { s with nmiLatch := if nmi then false else s.nmiLatch }) hs (hv _ _) s.pc

/-- Settles O21: each has its vector, and what it does away with is done away with before the entry. -/
theorem interruptsAndDebugTraps : Obligations.InterruptsAndDebugTraps := by
  intro s b c rest hs hicu copy after
  have hram := plain_ram hs
  have hp : s.pendingError = false := plain_pendingError hs
  refine ⟨takeInterrupt_vector hs fun p l => interruptVector_nmi (u := { s with psr := p, nmiLatch := l }) hram hicu,
    fun hi => takeInterrupt_vector hs fun p l => interruptVector_fixed (u := { s with psr := p, nmiLatch := l }) hram hicu hi,
    fun hi hb => takeInterrupt_vector hs fun p l =>
      interruptVector_answered (u := { s with psr := p, nmiLatch := l }) hram hicu hi hb,
    fun hi hb rest' hrest => takeInterrupt_vector hs fun p l =>
      interruptVector_cascaded (u := { s with psr := p, nmiLatch := l }) hram hicu hi hb hrest,
    fun hi hsign hb => ?_, ?_, ?_⟩
  · have htaken : takeInterrupt s false s = takeException s.midString true (interruptVector false) s.pc s :=
      if_neg (ne_true_of_eq_false hp)
    rw [htaken]
    exact takeException_refused hs (interruptVector_reserved (u := { s with psr := entryPsr true _ }) hram hicu hi hsign hb) s.pc
  · have htaken : takeTrace s = takeException true false (pure 9#8) s.pc s := if_neg (ne_true_of_eq_false hp)
    rw [htaken]
    exact takeException_agrees hs true false 9#8 s.pc
  · have htaken : takeDebug s s = takeException s.midString true (pure 14#8) s.pc (debugTaken s) :=
      if_neg (ne_true_of_eq_false hp)
    rw [htaken]
    exact takeException_agrees (s := debugTaken s) hs s.midString true 14#8 s.pc

end Sys2Proof.Machine
end

section
/-! SUPPORT. What a step without input does in each operating state, and which exception it takes first (R58, R645,
R690). -/

namespace Sys2Proof.Machine

section Steps

variable {s : State} (hinput : s.inputs = [])
include hinput

theorem applyInput_nil : applyInput s = s := by
  simp only [applyInput, hinput]

theorem step_halted (hop : s.op = .halted) : step s = .next s := by
  simp only [step, cycle, applyInput_nil hinput, hop]

theorem step_reset (hop : s.op = .reset) : step s = .next s := by
  simp only [step, cycle, applyInput_nil hinput, hop]

theorem step_executing (hop : s.op = .executing) : step s = executingStep s := by
  simp only [step, cycle, applyInput_nil hinput, hop]

theorem step_waiting (hop : s.op = .waiting) : step s = waitingStep s := by
  simp only [step, cycle, applyInput_nil hinput, hop]

/-- A failed write that is recognized now comes before everything else (R690; log 27). -/
theorem step_writeError (hop : s.op = .executing ∨ s.op = .waiting) (hp : s.pendingError = true)
    (hnow : Config.freeBool s.freeCount = true) :
    step s = takeWriteError s { s with freeCount := s.freeCount + 1 } := by
  have hreporting (go : State → Out) : reporting s go s = takeWriteError s { s with freeCount := s.freeCount + 1 } := by
    simp only [reporting, hp, hnow, if_true]
  rcases hop with hop | hop
  · exact (step_executing hinput hop).trans (hreporting _)
  · exact (step_waiting hinput hop).trans (hreporting _)

section NoError

variable (hp : s.pendingError = false)
include hp

theorem step_event (hop : s.op = .executing ∨ s.op = .waiting) {o : Out} (hevent : pendingEvent s = some o) :
    step s = o := by
  rcases hop with hop | hop
  · simp only [step_executing hinput hop, executingStep, reporting_none _ hp, hevent]
  · simp only [step_waiting hinput hop, waitingStep, reporting_none _ hp, hevent]

theorem step_waits (hop : s.op = .waiting) (hevent : pendingEvent s = none) : step s = .next s := by
  simp only [step_waiting hinput hop, waitingStep, reporting_none _ hp, hevent]

theorem step_trace (hop : s.op = .executing) (hevent : pendingEvent s = none) {o : Out}
    (htrace : pendingTrace s = some o) : step s = o := by
  simp only [step_executing hinput hop, executingStep, reporting_none _ hp, hevent, htrace]

theorem step_instruction (hop : s.op = .executing) (hevent : pendingEvent s = none) (htrace : pendingTrace s = none) :
    step s = runInstruction s := by
  simp only [step_executing hinput hop, executingStep, reporting_none _ hp, hevent, htrace]

end NoError

end Steps

/-! ### The order of the exceptions -/

/-- Settling the conditions of a string instruction changes DSR and the pending Trap (DBG) only (R421). -/
theorem settle_frame (s : State) : ∃ x b rs, settle s = { s with dsr := x, dbgPending := b, elementRefs := rs } := by
  unfold settle
  split
  · obtain ⟨x, b, he, -⟩ := commitRefs_frame s.debugRegs s.elementRefs false { s with elementRefs := [] }
    exact ⟨x, b, [], he⟩
  · exact ⟨_, _, _, rfl⟩

theorem settle_latches (s : State) : (settle s).dbgLatch = s.dbgLatch ∧ (settle s).nmiLatch = s.nmiLatch
    ∧ (settle s).intLow = s.intLow ∧ (settle s).flagI = s.flagI := by
  obtain ⟨x, b, rs, he⟩ := settle_frame s
  rw [he]
  exact ⟨rfl, rfl, rfl, rfl⟩

section Priority

variable {s : State}

theorem pendingEvent_debug (h : (settle s).dbgPending = true ∨ s.dbgLatch = true) :
    pendingEvent s = some (takeDebug s (settle s)) := by
  obtain ⟨hdbg, -⟩ := settle_latches s
  exact if_pos (Bool.or_eq_true_iff.mpr (hdbg ▸ h))

section NoDebug

variable (hpending : (settle s).dbgPending = false) (hlatch : s.dbgLatch = false)
include hpending hlatch

theorem pendingEvent_nmi (h : s.nmiLatch = true) : pendingEvent s = some (takeInterrupt s true (settle s)) := by
  obtain ⟨hdbg, hnmi, -⟩ := settle_latches s
  simp only [pendingEvent, hdbg, hpending, hlatch, hnmi, h, Bool.or_self, Bool.false_eq_true, if_false, if_true]

variable (hnone : s.nmiLatch = false)
include hnone

theorem pendingEvent_int (hlow : s.intLow = true) (hi : s.flagI = true) :
    pendingEvent s = some (takeInterrupt s false (settle s)) := by
  obtain ⟨hdbg, hnmi, hint, hflag⟩ := settle_latches s
  simp only [pendingEvent, hdbg, hpending, hlatch, hnmi, hnone, hint, hflag, hlow, hi, Bool.or_self, Bool.and_self,
    Bool.false_eq_true, if_false, if_true]

theorem pendingEvent_none (h : s.intLow = false ∨ s.flagI = false) : pendingEvent s = none := by
  obtain ⟨hdbg, hnmi, hint, hflag⟩ := settle_latches s
  have hmasked : (s.intLow && s.flagI) = false := Bool.and_eq_false_iff.mpr h
  simp only [pendingEvent, hdbg, hpending, hlatch, hnmi, hnone, hint, hflag, hmasked, Bool.or_self, Bool.false_eq_true,
    if_false]

end NoDebug

theorem pendingTrace_trace (hP : s.flagP = true) (hmid : s.midString = false) :
    pendingTrace s = some (takeTrace s) := if_pos (by simp [hP, hmid])

end Priority

end Sys2Proof.Machine
end

section
/-! PROOF. The order of R645 and R690, and the instruction that a step runs when nothing comes before it (R105, R660). -/

namespace Sys2Proof.Machine

/-- Settles O11, one equation of `pendingEvent` for each rank of R645. -/
theorem eventPriority : Obligations.EventPriority := by
  intro s hinput
  refine ⟨step_halted hinput, step_writeError hinput, fun hp => ⟨step_waits hinput hp, fun hop => ?_⟩⟩
  refine ⟨fun h => step_event hinput hp hop (pendingEvent_debug h), fun hpending hlatch => ?_⟩
  refine ⟨fun h => step_event hinput hp hop (pendingEvent_nmi hpending hlatch h), fun hnone => ?_⟩
  refine ⟨fun hlow hi => step_event hinput hp hop (pendingEvent_int hpending hlatch hnone hlow hi), ?_⟩
  intro h hexecuting hP hmid
  exact step_trace hinput hp hexecuting (pendingEvent_none hpending hlatch hnone h) (pendingTrace_trace hP hmid)

theorem runInstruction_exec {s : State} {i : Instr} {rest : List Byte}
    (hdecode : decode (fetchFrom (begin s) s.pc maxLength) = .ok (i, rest)) {n : Nat}
    (hn : n = neededBytes (begin s) ((fetchFrom (begin s) s.pc maxLength).headD 0#8) (maxLength - rest.length))
    (hres : anyFrom reservedAddress s.pc n = false) (herr : fetchError (begin s) s.pc n = false) :
    runInstruction s = exec i (fetched n (begin s)) := by
  have hpc : (begin s).pc = s.pc := rfl
  simp only [runInstruction, hpc, hdecode, ← hn, hres, herr, Bool.false_eq_true, if_false]

/-- Settles O5: of what a step does, fetching, decoding and executing are what is left. -/
theorem stepRunsDecoded : Obligations.StepRunsDecoded := by
  intro s i rest hinput hop hp hevent htrace bytes n hdecode hres herr
  exact (step_instruction hinput hp hop hevent htrace).trans (runInstruction_exec hdecode rfl hres herr)

end Sys2Proof.Machine
end

section
/-! PROOF. Where memory holds the encoding of an instruction at the PC, a fetch that passes the caches delivers it, and
decoding gives the instruction back (R105, R140, R150, R180 to R228, R690). -/

namespace Sys2Proof.Machine

/-! ### The bytes of an encoding -/

/-- An encoding that begins with the first byte of a slave instruction has its basic part (R187, R520): fewer bytes would
not decode. -/
theorem encode_slave_length {i : Instr} (hwf : i.wf = true) {set : SlaveSet}
    (h : setOfByte ((encode i).headD 0#8) = some set) : 3 ≤ (encode i).length := by
  have hdecode := decodeOfEncode i [] hwf
  rw [List.append_nil] at hdecode
  generalize encode i = bytes at h hdecode
  have hfirst (b : Byte) (hb : setOfByte b = some set) :
      b = 0x3E#8 ∨ b = 0xBE#8 ∨ b = 0xFE#8 ∨ b = 0x16#8 ∨ b = 0x36#8 ∨ b = 0xB6#8 := by
    unfold setOfByte at hb
    grind
  match bytes with
  | [] => cases h
  | [b] =>
    obtain rfl | rfl | rfl | rfl | rfl | rfl := hfirst b h
    all_goals cases hdecode
  | [b, c] =>
    obtain rfl | rfl | rfl | rfl | rfl | rfl := hfirst b h
    all_goals cases hdecode
  | _ :: _ :: _ :: _ => exact Nat.le_add_left ..

theorem neededBytes_le {s : State} {i : Instr} (hwf : i.wf = true) :
    neededBytes s ((encode i).headD 0#8) (encode i).length ≤ (encode i).length := by
  unfold neededBytes
  cases hset : setOfByte ((encode i).headD 0#8) with
  | none => exact le_rfl
  | some set =>
    have hlen := encode_slave_length hwf hset
    split <;> omega

/-- An encoding is no longer than the longest instruction (R186). -/
theorem encode_length_le {i : Instr} (hwf : i.wf = true) : 1 ≤ (encode i).length ∧ (encode i).length ≤ maxLength := by
  have hlong : maxLength ≤ (encode i ++ List.replicate maxLength 0#8).length := by simp
  obtain ⟨i', rest, hok, -, hpos, hmax⟩ := decode_decodes hlong
  rw [decodeOfEncode i _ hwf] at hok
  cases hok
  exact ⟨hpos, hmax⟩

/-! ### The fetch -/

section Fetch

variable {s : State} (hram : s.ram = true) (hic : s.cfgIC = false)
include hram hic

theorem icLookup_ram (a : Word) : icLookup s a = s := by
  have huse : icLookup s a = useReply s := by simp [icLookup, hic]
  exact huse.trans (useReply_ram hram)

theorem fetchByte_ram (hstale : s.fetchUnit.prefetched = []) (k : Nat) (a : Word) :
    fetchByte s k a = memGet s.mem a.toNat := by
  have hmiss : icByte s a = none := by simp [icByte, hic]
  have hnone : staleBytes s = [] := by simp [staleBytes, hstale, hic]
  rw [fetchByte_miss k hmiss (staleAt_eq_nil (by simp [hnone])), busByte]
  simp only [(ram_region hram a).1]

theorem fetchAll_ram (hstale : s.fetchUnit.prefetched = []) (k : Nat) (l : List Word) :
    fetchAll k (l.map fun a => (a, s)) = l.map fun a => memGet s.mem a.toNat := by
  induction l generalizing k with
  | nil => rfl
  | cons a l ih => simp only [List.map_cons, fetchAll, fetchByte_ram hram hic hstale, ih]

theorem fetchFrom_ram (hstale : s.fetchUnit.prefetched = []) (a : Word) (n : Nat) :
    fetchFrom s a n = bytesFrom (fun x => memGet s.mem x.toNat) a n := by
  have hviews : views icLookup s a n = ((List.range n).map fun k => a + BitVec.ofNat 32 k).map fun x => (x, s) := by
    rw [views_of_fixed (icLookup_ram hram hic), List.map_map]
    rfl
  rw [fetchFrom, hviews, fetchAll_ram hram hic hstale, bytesFrom_eq_map, List.map_map]
  rfl

theorem fetchError_ram (a : Word) (n : Nat) : fetchError s a n = false := by
  rw [fetchError, views_of_fixed (icLookup_ram hram hic), List.any_map]
  refine List.any_eq_false.mpr fun k _ => ?_
  simp [fetchErrorAt, (ram_region hram _).2.1]

end Fetch

theorem bytesFrom_split (f : Word → Byte) (a : Word) {m n : Nat} (h : m ≤ n) :
    ∃ rest, bytesFrom f a n = bytesFrom f a m ++ rest := by
  refine ⟨(bytesFrom f a n).drop m, ?_⟩
  have htake : (bytesFrom f a n).take m = bytesFrom f a m := by
    rw [bytesFrom_eq_map, bytesFrom_eq_map, ← List.map_take, List.take_range, Nat.min_eq_left h]
  rw [← htake, List.take_append_drop]

/-- The status and address of each double-word fetched (R140, R150). -/
theorem fetchCycles_mapIdx {s : State} (hic : s.cfgIC = false) {n : Nat} (hn : 1 ≤ n) :
    fetchCycles (fetchStatus s) s (dwordsOf s.pc n) = (dwordsOf s.pc n).mapIdx fun k x =>
      if k = 0 ∧ s.fetchUnit.sequence ≠ .running then .fetch 0b01001#5 x s.flagU
      else .fetch 0b01000#5 (x &&& 0xFFFFFFFC#32) s.flagU := by
  obtain ⟨n, rfl⟩ := Nat.exists_eq_add_of_le' hn
  rw [dwordsOf, fetchCycles_off hic, List.mapIdx_cons]
  congr 1
  · by_cases hrun : s.fetchUnit.sequence = .running
    · simp [fetchStatus, fetchAddress, hrun, stSequential]
    · simp [fetchStatus, fetchAddress, hrun, stSequential, stNonSequential]
  · refine List.ext_getElem (by simp) fun k hk hk' => ?_
    simp [stSequential]

/-- Settles O6: what is fetched is the encoding and some more bytes, and the decoder takes no more than the encoding. -/
theorem stepRunsMemory : Obligations.StepRunsMemory := by
  intro s i hs hic hstale hinput hop hevent htrace hwf hmem hres n
  have hram : (begin s).ram = true := plain_ram hs
  obtain ⟨hpos, hmax⟩ := encode_length_le hwf
  obtain ⟨rest, hrest⟩ := bytesFrom_split (fun x => memGet s.mem x.toNat) s.pc hmax
  have hfetch : fetchFrom (begin s) s.pc maxLength = encode i ++ rest := by
    rw [fetchFrom_ram hram hic hstale]
    exact hrest.trans (congrArg (· ++ rest) hmem)
  have hlen : maxLength - rest.length = (encode i).length := by
    have := congrArg List.length hfetch
    rw [fetchFrom_length, List.length_append] at this
    omega
  have hhead : (encode i ++ rest).headD 0#8 = (encode i).headD 0#8 := by
    obtain ⟨b, bs, hb⟩ := List.exists_cons_of_length_pos hpos
    rw [hb]
    rfl
  have hneeded : n = neededBytes (begin s) ((fetchFrom (begin s) s.pc maxLength).headD 0#8) (maxLength - rest.length) := by
    rw [hfetch, hhead, hlen]
    rfl
  have hres' : anyFrom reservedAddress s.pc n = false := by
    refine Bool.eq_false_iff.mpr fun hany => ?_
    obtain ⟨k, hk, hbad⟩ := (anyFrom_iff ..).mp hany
    rw [anyFrom_of_false hres (hk.trans_le (neededBytes_le hwf))] at hbad
    cases hbad
  rw [step_instruction hinput (plain_pendingError hs) hop hevent htrace,
    runInstruction_exec (hfetch ▸ decodeOfEncode i rest hwf) hneeded hres' (fetchError_ram hram hic ..)]
  have hn : 1 ≤ n := neededBytes_pos _ _ hpos
  have hflag : (begin s).flagU = s.flagU := by
    cases hT : s.flagT <;> simp [begin, State.flagU, setP, setBit, hT]
  refine congrArg (exec i) ?_
  have hcycles := fetchCycles_mapIdx (s := begin s) hic hn
  rw [hflag] at hcycles
  unfold fetched
  rw [afterViews_of_fixed (icLookup_ram hram hic), hcycles]
  rfl

end Sys2Proof.Machine
end

section
/-! PROOF. Reset recognized, the Reset state while RST stays low, and the empty instruction queue after it (R58, R70,
R700 to R703). -/

namespace Sys2Proof.Machine

/-! ### What reset leaves -/

/-- The state that reset leaves, in so far as it is not free (R70, R700). -/
structure WasReset (s t : State) : Prop where
  pc : t.pc = 0#32
  psr : t.psr = 0#16
  cfg : t.cfg = 0x000000F0#32
  den : t.dcr.getLsbD 23 = false
  op : t.op = .reset
  nmiLatch : t.nmiLatch = false
  dbgLatch : t.dbgLatch = false
  dbgPending : t.dbgPending = false
  midString : t.midString = false
  writeBuffer : t.writeBuffer = []
  inputs : t.inputs = s.inputs
  fetchUnit : t.fetchUnit = .empty
  icache : t.icache = icInvalidate s.icache
  dcache : t.dcache = dcInvalidate s.dcache
  kept : s.midString = false → t.reg 0#3 = s.pc ∧ (t.reg 1#3).setWidth 16 = s.psr

/-- Bytes whose contents are lost are no concern of it: the data cache, being off, is left as it is (R131, R603). -/
theorem WasReset.freeSpans {s t : State} (h : WasReset s t) (xs : List (Word × Nat)) :
    WasReset s (xs.foldl freeSpan t) := by
  induction xs generalizing t with
  | nil => exact h
  | cons x rest ih =>
    have hoff : t.cfgDC = false := congrArg (·.getLsbD 9) h.cfg
    have hsame : (freeSpan t x).dcache = t.dcache := if_neg (ne_true_of_eq_false hoff)
    exact ih (t := freeSpan t x) { h with dcache := hsame.trans h.dcache }

theorem applyReset_wasReset (s : State) : WasReset s (applyReset s) := by
  refine WasReset.freeSpans ?_ (lostSpans s s)
  constructor
  case kept =>
    intro hmid
    simp only [hmid]
    exact ⟨rfl, BitVec.setWidth_append_eq_right⟩
  case den => simp
  all_goals rfl

/-- Nothing is valid in an invalidated cache, on or off (R125, R136). -/
theorem WasReset.misses {s t : State} (h : WasReset s t) (a : Word) :
    icByte { t with cfg := 0xFFFFFFFF#32 } a = none ∧ dcByte t a = none := by
  refine ⟨icByte_of_invalid (s := { t with cfg := 0xFFFFFFFF#32 }) (fun k => ?_) a, ?_⟩
  · exact h.icache ▸ icInvalidate_valid s.icache k
  · obtain ⟨h0, h1⟩ := dcInvalidate_valid s.dcache (setOf a)
    rw [← h.dcache] at h0 h1
    simp only [dcByte, Line.hit_of_invalid h0, Line.hit_of_invalid h1, Bool.false_eq_true, if_false]

/-! ### Inputs -/

theorem externalWrites_inputs (s : State) (ws : List (Word × Byte)) (rest : List Input) (low : Bool) :
    externalWrites { s with inputs := rest, intLow := low } ws
      = { externalWrites s ws with inputs := rest, intLow := low } := by
  induction ws generalizing s with
  | nil => rfl
  | cons w ws ih => exact ih (externalWrite s w.1 w.2)

/-- The state after what another master writes and the invalidation requests of an input, before its RST (R9; log 41). -/
def driven (s : State) (x : Input) (rest : List Input) : State :=
  x.invalidate.foldl applyInvalidation (externalWrites { s with inputs := rest, intLow := x.int } x.writes)

/-- What another master writes and the invalidation requests leave alone (R9, R126, R756). -/
theorem driven_frame (s : State) (x : Input) (rest : List Input) :
    ∃ ic dc sc wb, driven s x rest = { s with
      inputs := rest, intLow := x.int, mem := (externalWrites s x.writes).mem, icache := ic, dcache := dc,
      fetchUnit := sc, writeBuffer := wb } := by
  obtain ⟨m, st, wb, hext⟩ := externalWrites_frame x.writes s
  obtain ⟨ic, dc, sc, hinv⟩ := applyInvalidation_frame x.invalidate
    (externalWrites { s with inputs := rest, intLow := x.int } x.writes)
  rw [driven, hinv, externalWrites_inputs, hext]
  exact ⟨ic, dc, sc, wb, rfl⟩

section Inputs

variable {s : State} {x : Input} {rest : List Input} (hinput : s.inputs = x :: rest)
include hinput

theorem applyInput_low (hrst : x.rst = true) : applyInput s = sampleRst true (driven s x rest) := by
  simp only [applyInput, hinput, hrst, if_true, driven]

theorem step_recognizes (hrst : x.rst = true) (hop : s.op ≠ .reset) :
    step s = .next (applyReset (driven s x rest)) := by
  obtain ⟨ic, dc, sc, wb, hdriven⟩ := driven_frame s x rest
  have hop' : (driven s x rest).op ≠ .reset := by rwa [hdriven]
  have happly := applyInput_low hinput hrst
  rw [sampleRst, if_pos rfl, if_neg hop'] at happly
  simp only [step, cycle, happly, (applyReset_wasReset _).op]

theorem step_staysReset (hrst : x.rst = true) (hop : s.op = .reset) : step s = .next (driven s x rest) := by
  obtain ⟨ic, dc, sc, wb, hdriven⟩ := driven_frame s x rest
  have hop' : (driven s x rest).op = .reset := by rwa [hdriven]
  have happly := applyInput_low hinput hrst
  rw [sampleRst, if_pos rfl, if_pos hop'] at happly
  simp only [step, cycle, happly, hop']

theorem applyInput_leavesReset (hrst : x.rst = false) (hop : s.op = .reset) : (applyInput s).op = .executing := by
  obtain ⟨ic, dc, sc, wb, hdriven⟩ := driven_frame s x rest
  have hop' : (driven s x rest).op = .reset := by rwa [hdriven]
  unfold driven at hop'
  simp only [applyInput, hinput, hrst, sampleRst, hop', Bool.false_eq_true, if_false, if_true]

end Inputs

/-! ### The instruction queue -/

/-- Before the first fetch nothing has been prefetched that another master could make old (R702). -/
theorem externalWrites_empty {s : State} (h : s.fetchUnit = .empty) (ws : List (Word × Byte)) :
    (externalWrites s ws).fetchUnit = .empty := by
  induction ws generalizing s with
  | nil => exact h
  | cons w rest ih =>
    refine ih (s := externalWrite s w.1 w.2) ((if_pos ?_).trans h)
    rw [h]
    rfl

theorem fetchByte_unstarted {s : State} (h : s.fetchUnit = .empty) {a : Word} (hmiss : icByte s a = none)
    (ws : List (Word × Byte)) (k : Nat) :
    fetchByte (externalWrites s ws) k a = busByte (externalWrites s ws) a := by
  have hempty := externalWrites_empty h ws
  obtain ⟨m, st, wb, hframe⟩ := externalWrites_frame ws s
  have hmiss' : icByte (externalWrites s ws) a = none := by
    rw [hframe]
    exact hmiss
  refine fetchByte_miss k hmiss' (staleAt_eq_nil ?_)
  simp [staleBytes, hempty, FetchUnit.empty]

/-- Settles O10: reset overwrites whatever the state was, and in the Reset state a step is its input only. -/
theorem resetInput : Obligations.ResetInput := by
  intro s
  refine ⟨fun x rest hinput hrst hop => ?_, fun hop hinput => step_reset hinput hop,
    fun x rest hinput hop => ⟨fun hrst => ?_, fun hrst => ?_⟩, rfl,
    fun hempty ws a k => ⟨externalWrites_empty hempty ws, fun hmiss => fetchByte_unstarted hempty hmiss ws k⟩⟩
  · have hreset := applyReset_wasReset (driven s x rest)
    obtain ⟨ic, dc, sc, wb, hdriven⟩ := driven_frame s x rest
    have hinputs : (driven s x rest).inputs = rest := by rw [hdriven]
    refine ⟨_, step_recognizes hinput hrst hop, fun hmid => ?_, hreset.pc, hreset.psr, hreset.cfg, hreset.den,
      hreset.op, hreset.nmiLatch, hreset.dbgLatch, hreset.dbgPending, hreset.midString, hreset.writeBuffer,
      hreset.inputs.trans hinputs, hreset.fetchUnit, hreset.misses⟩
    have hkept := hreset.kept
    rw [hdriven] at hkept ⊢
    exact hkept hmid
  · obtain ⟨ic, dc, sc, wb, hdriven⟩ := driven_frame s x rest
    refine ⟨_, step_staysReset hinput hrst hop, ?_⟩
    rw [hdriven]
    exact ⟨hop, rfl, rfl, rfl, rfl, rfl, rfl, rfl, rfl, rfl, rfl, rfl, rfl, rfl, rfl, rfl, rfl⟩
  · have hexecuting := applyInput_leavesReset hinput hrst hop
    exact ⟨hexecuting, by simp only [step, cycle, hexecuting]⟩

end Sys2Proof.Machine
end

section
/-! SUPPORT. A board of RAM on which bus cycles may end in an error, with the data cache off: a reference fails exactly
where one of its bus cycles does, and a failed write is recognized by the end of a serializing operation (R101, R110,
R148, R625). -/

namespace Sys2Proof.Machine

/-! ### Single references -/

/-- RAM everywhere, the data cache off (R89, R131); which bus cycles end in an error is left open. -/
structure RamBoard (u : State) : Prop where
  cacheOff : u.cfgDC = false
  noReplies : u.busReplies = []
  ram : ∀ a, (regionAt u.platform a).kind = .ram

/-- Whether one of the bus cycles of a read of `n` bytes ends in an error (R148). -/
def BadRead (p : List Region) (a : Word) (n : Nat) : Prop := anyFrom (fun x => (regionAt p x).readError) a n = true

/-- Whether one of the bus cycles of a write of `n` bytes ends in an error (R148). -/
def BadWrite (p : List Region) (a : Word) (n : Nat) : Prop := anyFrom (fun x => (regionAt p x).writeError) a n = true

theorem RamBoard.of_eq {u t : State} (h : RamBoard u) (hc : t.cfg = u.cfg) (hb : t.busReplies = u.busReplies)
    (hp : t.platform = u.platform) : RamBoard t := by
  obtain ⟨hcache, hreplies, hram⟩ := h
  exact ⟨(congrArg (·.getLsbD 9) hc).trans hcache, hb.trans hreplies, hp ▸ hram⟩

section Board

variable {u : State} (h : RamBoard u)
include h

theorem RamBoard.regionOf_eq (a : Word) : regionOf u a = regionAt u.platform a := by simp [regionOf, h.noReplies]

theorem RamBoard.useReply_eq : useReply u = u := by
  have hb := h.noReplies
  cases u
  simp_all [useReply]

theorem RamBoard.readCycle_eq (c : Bool) (a : Word) : readCycle c u a = u := by
  simp [readCycle, h.cacheOff, plainCycle, h.useReply_eq]

/-- A read of RAM delivers what memory holds, or ends in a bus error (R82, R148). -/
theorem RamBoard.readNow_eq (k : RefKind) (a : Word) (n : Nat) :
    readNow k a n u =
      let t : State := { u with
        refs := u.refs ++ [.mem k.status a n false k.user k.interlocked (u.load a n)]
        freeCount := u.freeCount + 1 }
      if anyFrom (fun x => (regionAt u.platform x).readError) a n then .error .readError t else .ok (u.load a n) t := by
  have hfix := h.readCycle_eq k.cached
  have hviews : dataViews k.cached u a n = (List.range n).map fun j => (a + BitVec.ofNat 32 j, u) :=
    views_of_fixed hfix a n
  have hval : ofBytes ((dataViews k.cached u a n).map fun e => readByte k.cached e.2 e.1) = u.load a n := by
    rw [hviews, List.map_map, State.load, bytesFrom_eq_map]
    refine congrArg ofBytes (List.map_congr_left fun j _ => ?_)
    simp [readByte, h.cacheOff, busByte, h.ram]
  have hany : ((dataViews k.cached u a n).any fun e => readErrorAt k.cached e.2 e.1)
      = anyFrom (fun x => (regionAt u.platform x).readError) a n := by
    rw [hviews, Bool.eq_iff_iff, anyFrom_iff]
    simp [readErrorAt, readCycleAt, h.cacheOff, h.regionOf_eq]
  unfold readNow
  simp only [hany, hval, afterViews_of_fixed hfix]

/-- A write is made in RAM; one of which a bus cycle ends in an error waits as failed, and the failure of an older store
than the last two is recognized (R83, R101, R625). -/
theorem RamBoard.writeRef_eq (k : RefKind) (a : Word) (n : Nat) (v : Quad) : ∃ fu old rf,
    let wb : List PendingStore := ⟨a, old, anyFrom (fun x => (regionAt u.platform x).writeError) a n⟩ :: u.writeBuffer
    writeRef k a n v u =
      if (wb.drop 2).any (·.failed) then .error .writeError ((u.put a n v).book wb fu u.freeCount rf)
      else .ok () ((u.put a n v).book (wb.take 2) fu u.freeCount rf) := by
  have hfix : ∀ x, plainCycle u x = u := fun _ => h.useReply_eq
  have hany : ((views plainCycle u a n).any fun e => (regionOf e.2 e.1).writeError)
      = anyFrom (fun x => (regionAt u.platform x).writeError) a n := by
    rw [views_of_fixed hfix, Bool.eq_iff_iff, anyFrom_iff]
    simp [h.regionOf_eq]
  let t : State := { u with refs := u.refs ++ [.mem k.status a n true k.user k.interlocked v] }
  have hstore (failed : Bool) : store t a (toBytes n v) failed = (u.put a n v).book
      (⟨a, bytesFrom (fun x => memGet u.mem x.toNat) a (toBytes n v).length, failed⟩ :: u.writeBuffer)
      (.note t a (toBytes n v)) u.freeCount t.refs := by
    have hcache : t.cfgDC = false := h.cacheOff
    have hram : ∀ x, (regionAt t.platform x).kind = .ram := h.ram
    simp only [store, hcache, Bool.false_eq_true, if_false, storeBytes_kind hram]
    rfl
  refine ⟨.note t a (toBytes n v), bytesFrom (fun x => memGet u.mem x.toNat) a (toBytes n v).length, t.refs, ?_⟩
  unfold writeRef
  simp only [t] at hstore
  simp only [hany, afterViews_of_fixed hfix, hstore]
  rfl

end Board

/-! ### Actions in which a bus cycle may fail -/

/-- `t` is `u` but for the bookkeeping; a write that has failed may wait. -/
def Near (u t : State) : Prop := ∃ wb sc fc rf, t = u.book wb sc fc rf

theorem Sim.near {u t : State} (h : Sim u t) : Near u t := by
  obtain ⟨wb, sc, fc, rf, -, rfl⟩ := h
  exact ⟨wb, sc, fc, rf, rfl⟩

theorem Near.sim {u t : State} (h : Near u t) (hp : t.pendingError = false) : Sim u t := by
  obtain ⟨wb, sc, fc, rf, rfl⟩ := h
  exact ⟨wb, sc, fc, rf, hp, rfl⟩

/-- The action stops with a bus error. -/
def BusStop {α : Type} (m : M α) (t : State) : Prop := ∃ e t', m t = .error e t' ∧ (e = .readError ∨ e = .writeError)

/-- From every state near `u` the action goes through, with a value and a pure state that satisfy `P`, or stops with a bus
error; it stops only if a failed write waits or one of its own bus cycles fails, as `bad` says, and when it goes through
this leaves a failed write that waits. -/
def Runs {α : Type} (m : M α) (u : State) (bad : Prop) (P : α → State → Prop) : Prop :=
  ∀ t, Near u t → (BusStop m t ∧ (t.pendingError = true ∨ bad)) ∨
    ∃ a u' t', m t = .ok a t' ∧ Near u' t' ∧ P a u' ∧ (t'.pendingError = true ↔ t.pendingError = true ∨ bad)

section Rules

variable {α β : Type} {m : M α} {k : α → M β} {u : State} {bad bad' : Prop} {P : α → State → Prop}
  {Q : β → State → Prop}

theorem Runs.bind (h : Runs m u bad P) (hk : ∀ a u', P a u' → Runs (k a) u' bad' Q) :
    Runs (m >>= k) u (bad ∨ bad') Q := by
  intro t ht
  obtain ⟨⟨e, t', hm, he⟩, hbad⟩ | ⟨a, u', t', hm, ht', hP, hpending⟩ := h t ht
  · exact .inl ⟨⟨e, t', by simp [Bind.bind, EStateM.bind, hm], he⟩, by tauto⟩
  obtain ⟨⟨e, t'', hk', he⟩, hbad⟩ | ⟨b, u'', t'', hk', ht'', hQ, hpending'⟩ := hk a u' hP t' ht'
  · exact .inl ⟨⟨e, t'', by simp [Bind.bind, EStateM.bind, hm, hk'], he⟩, by tauto⟩
  · exact .inr ⟨b, u'', t'', by simp [Bind.bind, EStateM.bind, hm, hk'], ht'', hQ, by tauto⟩

/-- An action without bus cycles. -/
theorem Runs.bind_silent (h : Runs m u False P) (hk : ∀ a u', P a u' → Runs (k a) u' bad Q) :
    Runs (m >>= k) u bad Q := false_or bad ▸ h.bind hk

theorem Runs.mono (h : Runs m u bad P) {P' : α → State → Prop} (hP : ∀ a u', P a u' → P' a u') : Runs m u bad P' := by
  intro t ht
  obtain hstop | ⟨a, u', t', hm, ht', ha, hpending⟩ := h t ht
  · exact .inl hstop
  · exact .inr ⟨a, u', t', hm, ht', hP a u' ha, hpending⟩

theorem Runs.pure {a : α} (h : P a u) : Runs (Pure.pure a : M α) u False P :=
  fun t ht => .inr ⟨a, u, t, rfl, ht, h, by tauto⟩

theorem Runs.getS {k : State → M β} (hk : ∀ wb sc fc rf, Runs (k (u.book wb sc fc rf)) u bad Q) :
    Runs (Machine.getS >>= k) u bad Q := by
  rintro _ ⟨wb, sc, fc, rf, rfl⟩
  exact hk wb sc fc rf _ ⟨wb, sc, fc, rf, rfl⟩

theorem Runs.upd {f : State → State} {u' : State} {Q : Unit → State → Prop}
    (hf : ∀ wb sc fc rf, f (u.book wb sc fc rf) = u'.book wb sc fc rf) (h : Q () u') :
    Runs (Machine.upd f) u False Q := by
  rintro _ ⟨wb, sc, fc, rf, rfl⟩
  refine .inr ⟨(), u', _, rfl, ⟨wb, sc, fc, rf, hf wb sc fc rf⟩, h, ?_⟩
  rw [hf]
  exact ⟨.inl, fun h => h.elim id False.elim⟩

theorem Runs.of_true {c : Prop} [Decidable c] {m' : M α} (hc : c) (h : Runs m u bad P) :
    Runs (if c then m else m') u bad P := (if_pos hc).symm ▸ h

theorem Runs.of_false {c : Prop} [Decidable c] {m' : M α} (hc : ¬c) (h : Runs m' u bad P) :
    Runs (if c then m else m') u bad P := (if_neg hc).symm ▸ h

/-- Where nothing has failed and no bus cycle fails, the action goes through. -/
theorem Runs.reaches (h : Runs m u bad P) (hgood : ¬bad) : Reaches m u P := by
  intro t ht
  have hp : ¬(t.pendingError = true ∨ bad) := by
    rintro (h | h)
    · rw [ht.pendingError] at h
      cases h
    · exact hgood h
  obtain ⟨-, hbad⟩ | ⟨a, u', t', hm, ht', hP, hpending⟩ := h t ht.near
  · exact absurd hbad hp
  · exact ⟨a, u', t', hm, ht'.sim (eq_false_of_ne_true fun h => hp (hpending.mp h)), hP⟩

end Rules

/-- Waiting for stores recognizes the failure of those it waits for, and leaves the others waiting (R101, R625). -/
theorem settleWrites_runs (u : State) (p : PendingStore → Bool) : Runs (settleWrites p) u False fun _ u' => u' = u := by
  rintro _ ⟨wb, sc, fc, rf, rfl⟩
  let waiting := wb.takeWhile fun w => !p w
  obtain ⟨due, hsplit⟩ : waiting <+: wb := List.takeWhile_prefix _
  have hdue : wb.drop waiting.length = due := by rw [← hsplit, List.drop_left]
  have hany : wb.any (·.failed) = (waiting.any (·.failed) || due.any (·.failed)) := by rw [← hsplit, List.any_append]
  have hrun : settleWrites p (u.book wb sc fc rf) = if due.any (·.failed) then .error .writeError (u.book wb sc fc rf)
      else .ok () (u.book waiting sc fc rf) := by rw [← hdue]; rfl
  have hpending : (u.book wb sc fc rf).pendingError = wb.any (·.failed) := rfl
  cases hfailed : due.any (·.failed) with
  | true =>
    rw [hfailed] at hrun hany
    exact .inl ⟨⟨_, _, hrun, .inr rfl⟩, .inl (by rw [hpending, hany, Bool.or_true])⟩
  | false =>
    rw [hfailed] at hrun hany
    refine .inr ⟨(), u, _, hrun, ⟨waiting, sc, fc, rf, rfl⟩, rfl, ?_⟩
    rw [hpending, hany, Bool.or_false, or_false]
    rfl

/-- After a serializing operation no failed write waits (R110). -/
theorem serialize_settled : Ends (fun t => t.pendingError = false) serialize := by
  rintro s a t hok
  obtain ⟨_, w, hdrain, hdiscard⟩ := bind_ok hok
  have hnil (wb : List PendingStore) : (wb.takeWhile fun w => !(fun _ => true) w) = [] := by cases wb <;> rfl
  simp only [drain, settleWrites, hnil] at hdrain
  split at hdrain
  · cases hdrain
  · cases hdrain
    cases hdiscard
    rfl

/-! ### References -/

section Board

variable {u : State} (h : RamBoard u)
include h

theorem RamBoard.book (wb sc fc rf) : RamBoard (u.book wb sc fc rf) := h.of_eq rfl rfl rfl

theorem readNow_runs (k : RefKind) (a : Word) (n : Nat) :
    Runs (readNow k a n) u (BadRead u.platform a n) fun v w => v = u.load a n ∧ w = u := by
  rintro _ ⟨wb, sc, fc, rf, rfl⟩
  have hrun := (h.book wb sc fc rf).readNow_eq k a n
  by_cases hbad : BadRead u.platform a n
  · exact .inl ⟨⟨_, _, hrun.trans (if_pos hbad), .inl rfl⟩, .inr hbad⟩
  · refine .inr ⟨_, u, _, hrun.trans (if_neg hbad), ⟨wb, sc, fc + 1, _, rfl⟩, ⟨rfl, rfl⟩, ?_⟩
    exact ⟨.inl, fun h => h.elim id (absurd · hbad)⟩

theorem readRef_runs (k : RefKind) (a : Word) (n : Nat) :
    Runs (readRef k a n) u (BadRead u.platform a n) fun v w => v = u.load a n ∧ w = u := by
  refine Runs.getS fun _ _ _ _ => Runs.bind_silent (settleWrites_runs u _) ?_
  rintro _ _ rfl
  exact readNow_runs h k a n

theorem memRead_runs (a : Word) (n : Nat) :
    Runs (memRead a n) u (BadRead u.platform a n) fun v w => v = u.load a n ∧ w = u := fun t ht =>
  readRef_runs h ⟨stData, t.flagU, false, true⟩ a n t ht

theorem memReadRmw_runs (a : Word) (n : Nat) :
    Runs (memReadRmw a n) u (BadRead u.platform a n) fun v w => v = u.load a n ∧ w = u := fun t ht =>
  readRef_runs h ⟨stRmw, t.flagU, false, true⟩ a n t ht

theorem memRead32_runs (a : Word) :
    Runs (memRead32 a) u (BadRead u.platform a 4) fun v w => v = u.load32 a ∧ w = u := by
  have hread := (memRead_runs h a 4).bind (k := fun v => pure (v.setWidth 32)) (bad' := False)
    (Q := fun v w => v = u.load32 a ∧ w = u) (by
      rintro _ _ ⟨rfl, rfl⟩
      exact Runs.pure ⟨rfl, rfl⟩)
  rwa [or_false] at hread

theorem memWrite_runs (a : Word) (n : Nat) (v : Quad) :
    Runs (memWrite a n v) u (BadWrite u.platform a n) fun _ w => w = u.put a n v := by
  rintro _ ⟨wb, sc, fc, rf, rfl⟩
  obtain ⟨fu, old, rf', hrun⟩ := (h.book wb sc fc rf).writeRef_eq ⟨stData, u.flagU, false, false⟩ a n v
  let all : List PendingStore := ⟨a, old, anyFrom (fun x => (regionAt u.platform x).writeError) a n⟩ :: wb
  have hall : all.any (·.failed) = true ↔ (u.book wb sc fc rf).pendingError = true ∨ BadWrite u.platform a n := by
    rw [List.any_cons, Bool.or_eq_true_iff, or_comm]
    rfl
  have hsplit : all.any (·.failed) = ((all.take 2).any (·.failed) || (all.drop 2).any (·.failed)) := by
    rw [← List.any_append, List.take_append_drop]
  cases hdue : (all.drop 2).any (·.failed) with
  | true =>
    rw [hdue, Bool.or_true] at hsplit
    exact .inl ⟨⟨_, _, hrun.trans (if_pos hdue), .inr rfl⟩, hall.mp hsplit⟩
  | false =>
    rw [hdue, Bool.or_false] at hsplit
    refine .inr ⟨(), u.put a n v, _, hrun.trans (if_neg (ne_true_of_eq_false hdue)), ⟨all.take 2, fu, fc, rf', rfl⟩,
      rfl, ?_⟩
    rw [← hall, hsplit]
    rfl

theorem push_runs (n : Nat) (v : Quad) :
    Runs (push n v) u (BadWrite u.platform (u.sp - BitVec.ofNat 32 n) n) fun _ w => w = u.pushed n v := by
  have hlow : RamBoard (u.setSp (u.sp - BitVec.ofNat 32 n)) := h.of_eq (by simp) (by simp) (by simp)
  refine Runs.bind_silent (Runs.upd (u' := u.setSp (u.sp - BitVec.ofNat 32 n))
    (Q := fun _ w => w = u.setSp (u.sp - BitVec.ofNat 32 n)) (fun _ _ _ _ => setSp_book ..) rfl) ?_
  rintro _ _ rfl
  refine Runs.getS fun _ _ _ _ => ?_
  have hwrite := memWrite_runs hlow (u.sp - BitVec.ofNat 32 n) n v
  rw [State.setSp_platform] at hwrite
  simp only [State.book_sp, State.setSp_sp]
  refine hwrite.mono ?_
  rintro _ _ rfl
  simp [State.pushed]

end Board

theorem serialize_runs (u : State) : Runs serialize u False fun _ u' => u' = u := by
  refine Runs.bind_silent (settleWrites_runs u _) ?_
  rintro _ u rfl
  rintro _ ⟨wb, sc, fc, rf, rfl⟩
  exact .inr ⟨(), u, _, rfl, ⟨wb, { sc.restart with prefetched := [] }, fc, rf, rfl⟩, rfl,
    ⟨.inl, fun h => h.elim id False.elim⟩⟩

end Sys2Proof.Machine
end

section
/-! PROOF. The entry of an exception on a board whose bus cycles may fail: where a reference of it fails the CPU halts, and
where none does the entry is made (R626, R641). -/

namespace Sys2Proof.Machine

/-- Whether one of the references of an entry fails (R626, R641). -/
def EntryFails (clearI : Bool) (v : Byte) (copy : Half) (s : State) : Prop :=
  let u := entryPushed clearI copy s
  let slot := s.intbase + 4#32 * v.setWidth 32
  let m := u.load32 slot &&& 0xFFFF#32
  BadWrite s.platform (s.sp0 - 2#32) 2 ∨ BadWrite s.platform (s.sp0 - 8#32) 4 ∨ BadRead s.platform slot 4
    ∨ (s.cfgDE = false ∧ (BadWrite s.platform (s.sp0 - 4#32) 2 ∨ BadRead s.platform (m + 8#32) 4
      ∨ BadRead s.platform m 4))

section Service

variable {s : State} (h : RamBoard s)

theorem Runs.of_iff {α : Type} {m : M α} {u : State} {bad bad' : Prop} {P : α → State → Prop} (h : Runs m u bad P)
    (hb : bad ↔ bad') : Runs m u bad' P := propext hb ▸ h

theorem setPc_runs (u : State) (x : Word) :
    Runs (upd fun s => { s with pc := x }) u False fun _ w => w = { u with pc := x } := Runs.upd (fun _ _ _ _ => rfl) rfl

theorem setMod_runs (u : State) (x : Half) :
    Runs (upd fun s => { s with mod := x }) u False fun _ w => w = { u with mod := x } :=
  Runs.upd (fun _ _ _ _ => rfl) rfl

theorem setSb_runs (u : State) (x : Word) :
    Runs (upd fun s => { s with sb := x }) u False fun _ w => w = { u with sb := x } := Runs.upd (fun _ _ _ _ => rfl) rfl

theorem lowerSp_runs (u : State) (n : Word) :
    Runs (upd fun s => s.setSp (s.sp - n)) u False fun _ w => w = u.setSp (u.sp - n) :=
  Runs.upd (fun _ _ _ _ => setSp_book ..) rfl

theorem pushReturn_runs {u : State} (h : RamBoard u) (ret : Word) :
    Runs (do push 4 (ret.setWidth 64); serialize) u (BadWrite u.platform (u.sp - 4#32) 4) fun _ w =>
      w = u.pushed 4 (ret.setWidth 64) := by
  have hrun := (push_runs h 4 (ret.setWidth 64)).bind (k := fun _ => serialize) (bad' := False)
    (Q := fun _ w => w = u.pushed 4 (ret.setWidth 64)) (by
      rintro _ _ rfl
      exact serialize_runs _)
  rwa [or_false] at hrun

include h in
theorem service_runs (clearI : Bool) (v : Byte) (copy : Half) (ret : Word) :
    Runs (service v copy ret) { s with psr := entryPsr clearI copy } (EntryFails clearI v copy s) fun _ w =>
      { w with op := .executing, midString := false, afterException := true } = entryState clearI v copy ret s := by
  have hS (t : State) (ht : t.psr = entryPsr clearI copy) : t.flagS = false :=
    (congrArg (·.getLsbD 9) ht).trans (entryPsr_clears clearI copy (by decide))
  have hsp {t : State} (ht : t.psr = entryPsr clearI copy) : t.sp = t.sp0 := sp_supervisor (hS t ht)
  have hmodSlot : s.sp0 - 2#32 - 2#32 = s.sp0 - 4#32 := by bv_omega
  have hretSlot : s.sp0 - 4#32 - 4#32 = s.sp0 - 8#32 := by bv_omega
  let u : State := { s with psr := entryPsr clearI copy }
  have hu : RamBoard u := h.of_eq rfl rfl rfl
  let u1 := u.pushed 2 (copy.setWidth 64)
  have h1 : RamBoard u1 := hu.of_eq (by simp [u1]) (by simp [u1]) (by simp [u1])
  have hsp1 : u1.sp = s.sp0 - 2#32 := (State.pushed_sp ..).trans (congrArg (· - 2#32) (hsp (t := u) rfl))
  cases hde : s.cfgDE with
  | true =>
    let u2 := u1.setSp (u1.sp - 2#32)
    have h2 : RamBoard u2 := h1.of_eq (by simp [u2]) (by simp [u2]) (by simp [u2])
    have h3 (x : Word) : RamBoard { u2 with pc := x } := h2.of_eq rfl rfl rfl
    have hp2 : u2.platform = s.platform := by simp [u2, u1, u]
    have hsp2 : u2.sp - 4#32 = s.sp0 - 8#32 := by rw [State.setSp_sp, hsp1, hmodSlot, hretSlot]
    have hrun : Runs (service v copy ret) u (BadWrite u.platform (u.sp - 2#32) 2 ∨
        (BadRead u2.platform (s.intbase + 4#32 * v.setWidth 32) 4 ∨ BadWrite u2.platform (u2.sp - 4#32) 4)) fun _ w =>
          { w with op := .executing, midString := false, afterException := true } = entryState clearI v copy ret s := by
      refine Runs.getS fun _ _ _ _ => Runs.bind (push_runs hu 2 _) ?_
      rintro _ _ rfl
      refine Runs.getS fun _ _ _ _ => Runs.of_true hde (Runs.bind_silent (lowerSp_runs _ 2#32) ?_)
      rintro _ _ rfl
      refine Runs.bind (memRead32_runs h2 _) ?_
      rintro _ _ ⟨rfl, rfl⟩
      refine Runs.of_true hde (Runs.bind_silent (setPc_runs _ _) ?_)
      rintro _ _ rfl
      refine (pushReturn_runs (h3 _) ret).mono ?_
      rintro _ _ rfl
      simp only [entryState, entryPushed, hde, if_true]
      rfl
    refine hrun.of_iff ?_
    rw [hsp2, hp2, hsp (t := u) rfl]
    simp only [EntryFails, hde, Bool.true_eq_false, false_and, or_false]
    tauto
  | false =>
    have hmodular : ¬s.cfgDE = true := by simp [hde]
    let u2 := u1.pushed 2 (s.mod.setWidth 64)
    let slot := s.intbase + 4#32 * v.setWidth 32
    let m := u2.load32 slot &&& 0xFFFF#32
    have h2 : RamBoard u2 := h1.of_eq (by simp [u2]) (by simp [u2]) (by simp [u2])
    have h3 (x : Half) : RamBoard { u2 with mod := x } := h2.of_eq rfl rfl rfl
    have h4 (x : Half) (y : Word) : RamBoard { u2 with mod := x, pc := y } := h2.of_eq rfl rfl rfl
    have h5 (x : Half) (y z : Word) : RamBoard { u2 with mod := x, pc := y, sb := z } := h2.of_eq rfl rfl rfl
    have hp1 : u1.platform = s.platform := by simp [u1, u]
    have hp2 : u2.platform = s.platform := (by simp [u2] : u2.platform = u1.platform).trans hp1
    have hsp2 : u2.sp - 4#32 = s.sp0 - 8#32 := by
      rw [State.pushed_sp, hsp1]
      exact (congrArg (· - 4#32) hmodSlot).trans hretSlot
    have hrun : Runs (service v copy ret) u (BadWrite u.platform (u.sp - 2#32) 2 ∨
        BadWrite u1.platform (u1.sp - 2#32) 2 ∨ BadRead u2.platform slot 4 ∨ BadRead u2.platform (m + 8#32) 4 ∨
        BadRead u2.platform m 4 ∨ BadWrite u2.platform (u2.sp - 4#32) 4) fun _ w =>
          { w with op := .executing, midString := false, afterException := true } = entryState clearI v copy ret s := by
      refine Runs.getS fun _ _ _ _ => Runs.bind (push_runs hu 2 _) ?_
      rintro _ _ rfl
      refine Runs.getS fun _ _ _ _ => Runs.of_false hmodular (Runs.bind (push_runs h1 2 _) ?_)
      simp only [State.book_mod, State.pushed_mod]
      rintro _ _ rfl
      refine Runs.bind (memRead32_runs h2 _) ?_
      rintro _ _ ⟨rfl, rfl⟩
      refine Runs.of_false hmodular (Runs.bind_silent (setMod_runs _ _) ?_)
      rintro _ _ rfl
      refine Runs.bind (memRead32_runs (h3 _) _) ?_
      rintro _ _ ⟨rfl, rfl⟩
      refine Runs.bind_silent (setPc_runs _ _) ?_
      rintro _ _ rfl
      refine Runs.bind (memRead32_runs (h4 _ _) _) ?_
      rintro _ _ ⟨rfl, rfl⟩
      refine Runs.bind_silent (setSb_runs _ _) ?_
      rintro _ _ rfl
      refine (pushReturn_runs (h5 _ _ _) ret).mono ?_
      rintro _ _ rfl
      simp only [entryState, entryPushed, hde, Bool.false_eq_true, if_false]
      rfl
    have hpushed : entryPushed clearI copy s = u2 := by
      simp only [entryPushed, hde, Bool.false_eq_true, if_false]
      rfl
    refine hrun.of_iff ?_
    rw [hsp2, hp2, hp1, hsp (t := u) rfl, hsp1, hmodSlot]
    simp only [EntryFails, hde, hpushed, true_and]
    tauto

end Service

end Sys2Proof.Machine
end

section
/-! PROOF. The bus errors that halt the CPU: in an entry, in the acknowledge cycles of an interrupt and in the End of
Interrupt cycles of RETI (R626, R631, R633, R634). -/

namespace Sys2Proof.Machine

/-! ### Reads that fail -/

theorem badRead_byte {p : List Region} {a : Word} : BadRead p a 1 ↔ (regionAt p a).readError = true := by
  simp [BadRead, anyFrom]

section Board

variable {u : State} (h : RamBoard u)
include h

theorem readRef_stops {a : Word} {n : Nat} (hbad : BadRead u.platform a n) (k : RefKind) :
    Stops .readError (readRef k a n) u u := by
  refine Stops.getS fun _ _ _ _ => Reaches.bind_stops (settleWrites_plain u _) ?_
  rintro _ _ rfl
  rintro _ ⟨wb, sc, fc, rf, hw, rfl⟩
  exact ⟨_, ((h.book wb sc fc rf).readNow_eq k a n).trans (if_pos hbad), wb, sc, fc + 1, _, hw, rfl⟩

theorem memRead_stops {a : Word} {n : Nat} (hbad : BadRead u.platform a n) : Stops .readError (memRead a n) u u :=
  fun t ht => readRef_stops h hbad ⟨stData, t.flagU, false, true⟩ t ht

theorem memRead32_stops {a : Word} (hbad : BadRead u.platform a 4) : Stops .readError (memRead32 a) u u :=
  (memRead_stops h hbad).bind

/-- A cycle of an interrupt control unit uses up an answer, and answers or ends in a bus error (R145, R148). -/
theorem RamBoard.icuNow_eq (status : BitVec 5) (a : Word) : ∃ rf,
    let t : State := { u with icuReplies := u.icuReplies.tail, freeCount := u.freeCount + 1, refs := rf }
    icuNow status a u = if (regionAt u.platform a).readError then .error .readError t
      else .ok (u.icuReplies.headD (Config.icuByte u.freeCount a)) t := by
  let b := u.icuReplies.headD (Config.icuByte u.freeCount a)
  refine ⟨u.refs ++ [.mem status a 1 false u.flagU false (b.setWidth 64)], ?_⟩
  have hreply (rs : List Byte) (fc : Nat) (rf : List Ref) :
      useReply { u with icuReplies := rs, freeCount := fc, refs := rf } = { u with
        icuReplies := rs, freeCount := fc, refs := rf } :=
    (h.of_eq (t := { u with icuReplies := rs, freeCount := fc, refs := rf }) rfl rfl rfl).useReply_eq
  unfold icuNow
  simp only [hreply, h.regionOf_eq, b]
  cases u.icuReplies <;> rfl

theorem icuRead_stops {a : Word} (hbad : BadRead u.platform a 1) (status : BitVec 5) :
    Stops .readError (icuRead status a) u (u.withReplies u.icuReplies.tail) := by
  refine Stops.getS fun _ _ _ _ => Reaches.bind_stops (settleWrites_plain u _) ?_
  rintro _ u rfl
  rintro _ ⟨wb, sc, fc, rf, hw, rfl⟩
  obtain ⟨rf', hrun⟩ := (h.book wb sc fc rf).icuNow_eq status a
  exact ⟨_, hrun.trans (if_pos (badRead_byte.mp hbad)), wb, sc, fc + 1, rf', hw, rfl⟩

theorem icuRead_board {a : Word} (hgood : ¬BadRead u.platform a 1) {b : Byte} {rest : List Byte}
    (hicu : u.icuReplies = b :: rest) (status : BitVec 5) :
    Reaches (icuRead status a) u fun x u' => x = b ∧ u' = u.withReplies rest := by
  refine Reaches.getS fun _ _ _ _ => Reaches.bind (settleWrites_plain u _) ?_
  rintro _ u rfl
  rintro _ ⟨wb, sc, fc, rf, hw, rfl⟩
  obtain ⟨rf', hrun⟩ := (h.book wb sc fc rf).icuNow_eq status a
  have hok := hrun.trans (if_neg fun hbad => hgood (badRead_byte.mpr hbad))
  have hreplies : (u.book wb sc fc rf).icuReplies = b :: rest := hicu
  rw [hreplies] at hok
  exact ⟨b, u.withReplies rest, _, hok, ⟨wb, sc, fc + 1, rf', hw, rfl⟩, rfl, rfl⟩

theorem memRead32_board {a : Word} (hgood : ¬BadRead u.platform a 4) :
    Reaches (memRead32 a) u fun v w => v = u.load32 a ∧ w = u := (memRead32_runs h a).reaches hgood

/-! ### The cycles of NMI, INT and RETI (R633, R634) -/

theorem interruptVector_stops_nmi (hbad : BadRead u.platform 0xFFFFFF00#32 1) :
    ∃ w, Stops .readError (interruptVector true) u w := by
  refine ⟨u.withReplies u.icuReplies.tail, Stops.getS fun _ _ _ _ => ?_⟩
  rw [if_pos rfl]
  exact (icuRead_stops h hbad _).bind

theorem interruptVector_stops_int (hbad : BadRead u.platform 0xFFFFFE00#32 1) :
    ∃ w, Stops .readError (interruptVector false) u w := by
  refine ⟨u.withReplies u.icuReplies.tail, Stops.getS fun _ _ _ _ => ?_⟩
  rw [if_neg (by decide)]
  exact (icuRead_stops h hbad _).bind

omit h in
theorem Stops.fatally {α : Type} {m : M α} {w : State} (hm : Stops .readError m u w) :
    Stops .fatal (Machine.fatally m) u w := by
  intro t ht
  obtain ⟨t', hok, hsim⟩ := hm t ht
  exact ⟨t', by simp only [Machine.fatally, hok], hsim⟩

theorem endOfInterrupt_stops (hbad : BadRead u.platform 0xFFFFFE00#32 1) : ∃ w, Stops .fatal endOfInterrupt u w :=
  ⟨u.withReplies u.icuReplies.tail, Stops.getS fun _ _ _ _ => (icuRead_stops h hbad _).fatally.bind⟩

section Cascaded

variable {b : Byte} {rest : List Byte} (hbad : BadRead u.platform (u.intbase + 4#32 * b.signExtend 32) 4
    ∨ BadRead u.platform (u.load32 (u.intbase + 4#32 * b.signExtend 32)) 1)
include hbad

/-- The cascade-table entry and the cascaded unit's cycle: one of the two fails (R633). -/
theorem cascade_stops (status : BitVec 5) : ∃ w, Stops .readError (do
    let ca ← memRead32 (u.intbase + 4#32 * b.signExtend 32)
    icuRead status ca) (u.withReplies rest) w := by
  have h' : RamBoard (u.withReplies rest) := h.of_eq rfl rfl rfl
  by_cases hslot : BadRead u.platform (u.intbase + 4#32 * b.signExtend 32) 4
  · exact ⟨_, (memRead32_stops h' hslot).bind⟩
  · refine ⟨(u.withReplies rest).withReplies rest.tail, Reaches.bind_stops (memRead32_board h' hslot) ?_⟩
    rintro _ _ ⟨rfl, rfl⟩
    exact icuRead_stops h' (hbad.resolve_left hslot) status

variable (hi : u.cfgI = true) (hicu : u.icuReplies = b :: rest) (hb : b.extractLsb' 4 4 = 0xF#4)
include hi hicu hb

theorem interruptVector_stops_cascaded : ∃ w, Stops .readError (interruptVector false) u w := by
  by_cases hmaster : BadRead u.platform 0xFFFFFE00#32 1
  · exact interruptVector_stops_int h hmaster
  obtain ⟨w, hcascade⟩ := cascade_stops (rest := rest) h hbad 0b00101#5
  refine ⟨w, Stops.getS fun wb sc fc rf => ?_⟩
  rw [if_neg (by decide)]
  refine Reaches.bind_stops (icuRead_board h hmaster hicu _) ?_
  rintro _ _ ⟨rfl, rfl⟩
  have hvectored : (u.book wb sc fc rf).cfgI = true := hi
  simp only [hvectored, cascade_bit hb, hb, Bool.not_true, Bool.false_eq_true, if_false, beq_self_eq_true, if_true]
  exact hcascade

theorem endOfInterrupt_stops_cascaded : ∃ w, Stops .fatal endOfInterrupt u w := by
  by_cases hmaster : BadRead u.platform 0xFFFFFE00#32 1
  · exact endOfInterrupt_stops h hmaster
  have h' : RamBoard (u.withReplies rest) := h.of_eq rfl rfl rfl
  by_cases hslot : BadRead u.platform (u.intbase + 4#32 * b.signExtend 32) 4
  · refine ⟨u.withReplies rest, Stops.getS fun wb sc fc rf =>
      Reaches.bind_stops (icuRead_board h hmaster hicu _).fatally ?_⟩
    rintro _ _ ⟨rfl, rfl⟩
    have hvectored : (u.book wb sc fc rf).cfgI = true := hi
    simp only [hvectored, cascade_bit hb, Bool.and_self, if_true]
    exact (memRead32_stops h' hslot).fatally.bind
  · refine ⟨(u.withReplies rest).withReplies rest.tail, Stops.getS fun wb sc fc rf =>
      Reaches.bind_stops (icuRead_board h hmaster hicu _).fatally ?_⟩
    rintro _ _ ⟨rfl, rfl⟩
    have hvectored : (u.book wb sc fc rf).cfgI = true := hi
    simp only [hvectored, cascade_bit hb, Bool.and_self, if_true]
    refine Reaches.bind_stops (memRead32_board h' hslot).fatally ?_
    rintro _ _ ⟨rfl, rfl⟩
    exact (icuRead_stops h' (hbad.resolve_left hslot) _).fatally.bind

end Cascaded

end Board

/-! ### Halting -/

/-- The CPU halts. -/
def Halts (o : Out) : Prop := Goes o fun t => t.op = .halted

theorem takeException_halts {s t : State} {clearP clearI : Bool} {vector : M Byte} {ret : Word} {e : Stop}
    (hrun : entryRun clearP clearI vector ret s = .error e t) (he : e = .readError ∨ e = .writeError) :
    Halts (takeException clearP clearI vector ret s) := by
  unfold entryRun entryCopy at hrun
  obtain rfl | rfl := he
  all_goals
    exact ⟨{ t with op := .halted, writeBuffer := t.writeBuffer.take 2 }, by simp only [takeException, hrun], rfl⟩

theorem service_settled (v : Byte) (copy : Half) (ret : Word) :
    Ends (fun t => t.pendingError = false) (service v copy ret) := by
  have hlast : Ends (fun t => t.pendingError = false) (do push 4 (ret.setWidth 64); serialize) :=
    Ends.bind fun _ => serialize_settled
  refine Ends.bind fun _ => Ends.bind fun _ => Ends.bind fun _ => Ends.ite (Ends.bind fun _ => ?_) (Ends.bind fun _ => ?_)
  all_goals
    refine Ends.bind fun _ => Ends.ite (Ends.bind fun _ => hlast) ?_
    exact Ends.bind fun _ => Ends.bind fun _ => Ends.bind fun _ => Ends.bind fun _ => Ends.bind fun _ => hlast

/-- An entry one of whose references fails halts the CPU: the error of a write is recognized before the entry is over. -/
theorem takeException_halts_of_fails {s : State} (h : RamBoard s) {clearP clearI : Bool} {v : Byte}
    (hbad : EntryFails clearI v (entryCopy clearP s.psr) s) (ret : Word) :
    Halts (takeException clearP clearI (pure v) ret s) := by
  obtain ⟨⟨e, t, hrun, he⟩, -⟩ | ⟨_, _, t, hok, -, -, hpending⟩ :=
    service_runs h clearI v (entryCopy clearP s.psr) ret _ ⟨_, _, _, _, (State.book_self _).symm⟩
  · exact takeException_halts hrun he
  · have hfailed : t.pendingError = true := hpending.mpr (.inr hbad)
    rw [service_settled _ _ _ _ _ _ hok] at hfailed
    cases hfailed

theorem takeInterrupt_halts {s : State} {nmi : Bool} (hp : s.pendingError = false)
    (hv : ∀ p latch, ∃ w, Stops .readError (interruptVector nmi) { s with psr := p, nmiLatch := latch } w) :
    Halts (takeInterrupt s nmi s) := by
  let u : State := { s with nmiLatch := if nmi then false else s.nmiLatch }
  have htaken : takeInterrupt s nmi s = takeException s.midString true (interruptVector nmi) s.pc u :=
    if_neg (ne_true_of_eq_false hp)
  obtain ⟨w, hstop⟩ := hv (entryPsr true (entryCopy s.midString s.psr)) u.nmiLatch
  obtain ⟨t, hrun, -⟩ := (hstop.bind (k := fun x => service x (entryCopy s.midString s.psr) s.pc)) _ (Sim.refl hp)
  rw [htaken]
  exact takeException_halts (s := u) hrun (.inl rfl)

theorem reti_halts {s : State} (hp : s.pendingError = false) (hu : s.flagU = false)
    (hend : ∃ w, Stops .fatal endOfInterrupt s w) : Halts (exec .reti s) := by
  obtain ⟨w, hstop⟩ := hend
  obtain ⟨t, hrun, -⟩ := (hstop.bind (k := fun _ => returnFrom 0#32)) s (Sim.refl hp)
  have hc : Shape.check { basic := 1, privileged := true } s = none :=
    check_none rfl (by decide) (fun _ ho => nomatch ho) (.inr hu) rfl rfl
  have hexec : exec .reti s = .next { t with op := .halted } := by
    change run { basic := 1, privileged := true } (do endOfInterrupt; returnFrom 0#32) s = _
    simp only [run, finish, checked, hc, hrun]
  exact ⟨_, hexec, rfl⟩

/-- A halted CPU takes inputs and does nothing, until RST (R626). -/
theorem step_staysHalted {s : State} (hop : s.op = .halted) {x : Input} {rest : List Input}
    (hinput : s.inputs = x :: rest) (hrst : x.rst = false) : Goes (step s) fun t =>
      t.op = .halted ∧ t.inputs = rest ∧ t.regs = s.regs ∧ t.pc = s.pc ∧ t.psr = s.psr ∧ t.sp0 = s.sp0 := by
  obtain ⟨ic, dc, sc, wb, hdriven⟩ := driven_frame s x rest
  have happly : applyInput s = { driven s x rest with
      op := .halted
      nmiLatch := (driven s x rest).nmiLatch || x.nmi
      dbgLatch := (driven s x rest).dbgLatch || x.dbg } := by
    have hop' : (driven s x rest).op = .halted := by rwa [hdriven]
    unfold driven at hop' ⊢
    simp only [applyInput, hinput, hrst, sampleRst, hop', Bool.false_eq_true, if_false]
    rfl
  have hhalted : (applyInput s).op = .halted := by rw [happly]
  refine ⟨applyInput s, by simp only [step, cycle, hhalted], ?_⟩
  rw [happly, hdriven]
  exact ⟨rfl, rfl, rfl, rfl, rfl, rfl⟩

/-- Settles O14: each reference of the sequence fails where its board does, and a failed write is recognized when the
sequence serializes. -/
theorem fatalBusError : Obligations.FatalBusError := by
  intro clearP clearI vector b ret rest s badWrite badRead halts
  refine ⟨fun hram hoff hreplies hp => ?_, fun hop => ⟨fun hinput => step_halted hinput hop,
    fun x xs hinput hrst => step_staysHalted hop hinput hrst⟩⟩
  have h : RamBoard s := ⟨hoff, hreplies, regionAt_ram hram⟩
  have h' (p : Half) (latch : Bool) : RamBoard { s with psr := p, nmiLatch := latch } := h.of_eq rfl rfl rfl
  refine ⟨fun hbad => takeException_halts_of_fails h hbad ret, fun hbad => ?_, fun hbad => ⟨?_, fun hu => ?_⟩,
    fun hi hicu hb hbad => ⟨?_, fun hu => ?_⟩⟩
  · exact takeInterrupt_halts hp fun p l => interruptVector_stops_nmi (h' p l) hbad
  · exact takeInterrupt_halts hp fun p l => interruptVector_stops_int (h' p l) hbad
  · exact reti_halts hp hu (endOfInterrupt_stops h hbad)
  · exact takeInterrupt_halts hp fun p l => interruptVector_stops_cascaded (h' p l) hbad hi hicu hb
  · exact reti_halts hp hu (endOfInterrupt_stops_cascaded h hbad hi hicu hb)

end Sys2Proof.Machine
end

section
/-! PROOF. The restartable bus error: a read or a needed fetch that fails suspends the instruction, of which nothing is
left but the entry (R602, R604, R624). -/

namespace Sys2Proof.Machine

/-! ### The entry -/

/-- The restartable bus error is taken: vector 11, P clear in the copy, the instruction's own address (R624). -/
def TakesReadError (s : State) (o : Out) : Prop :=
  Goes o (Agrees s (entryState true 11#8 (setP false s.psr) s.pc s))

/-- From a state that is `s` but for the bookkeeping and P the exception is taken, if no reference of its entry fails. -/
theorem takeReadError_taken {s0 s t : State} (h : RamBoard s) (hgood : ¬EntryFails true 11#8 (setP false s.psr) s)
    (hp : t.pendingError = false) (hcopy : setP false t.psr = setP false s.psr) (hpc : t.pc = s.pc)
    (ht : Sim { s with psr := entryPsr true (setP false s.psr) } { t with psr := entryPsr true (setP false s.psr) }) :
    TakesReadError s (takeReadError s0 t) := by
  have htaken : takeReadError s0 t = takeException true true (pure 11#8) s.pc t :=
    hpc ▸ if_neg (ne_true_of_eq_false hp)
  rw [htaken]
  exact takeException_leaves hcopy ht ((service_runs h true 11#8 (setP false s.psr) s.pc).reaches hgood)
    (entryState_dcr ..)

/-- An instruction that stops with a read error and has changed nothing outside itself is as if it had not begun
(R602, R624). -/
theorem readError_taken {I : Instr} {sh : Shape} {body : M Done} {s w : State} (h : RamBoard s)
    (hgood : ¬EntryFails true 11#8 (setP false s.psr) s) (hp : s.pendingError = false)
    (hexec : exec I s = run sh body s) (hc : sh.check s = none) (hb : Stops .readError body s w)
    (hw : ∀ wb sc fc rf, suspend s (w.book wb sc fc rf) = s.book wb sc fc rf) : TakesReadError s (exec I s) := by
  obtain ⟨_, hrun, wb, sc, fc, rf, hfine, rfl⟩ := hb s (Sim.refl hp)
  have htaken : exec I s = takeReadError s (s.book wb sc fc rf) := by
    rw [hexec]
    simp only [run, finish, checked, hc, hrun, hw]
  rw [htaken]
  exact takeReadError_taken h hgood hfine rfl rfl ⟨wb, sc, fc, rf, hfine, rfl⟩

/-! ### Operands -/

theorem readOp_reg_board (u : State) (k : RegNum) (n : Nat) :
    Reaches (readOp (.mode (.reg k)) n) u fun _ w => w = u := by
  refine Reaches.bind (P := fun l w => l = .reg k ∧ w = u) (Reaches.pure ⟨rfl, rfl⟩) ?_
  rintro _ _ ⟨rfl, rfl⟩
  exact Reaches.getS fun _ _ _ _ => Reaches.pure rfl

section Operands

variable {u : State} (h : RamBoard u) {n : Nat}
include h

theorem readOp_abs_stops {d : Disp} (hbad : BadRead u.platform d.value n) :
    Stops .readError (readOp (.mode (.abs d)) n) u u :=
  Reaches.bind_stops (P := fun l w => l = .mem d.value ∧ w = u) (Reaches.pure ⟨rfl, rfl⟩) (by
    rintro _ _ ⟨rfl, rfl⟩
    exact memRead_stops h hbad)

theorem readOp_tos_stops (hbad : BadRead u.platform u.sp n) : Stops .readError (readOp (.mode .tos) n) u u :=
  Reaches.bind_stops (P := fun l w => l = .tos ∧ w = u) (Reaches.pure ⟨rfl, rfl⟩) (by
    rintro _ _ ⟨rfl, rfl⟩
    exact Stops.getS fun _ _ _ _ => (memRead_stops h hbad).bind)

/-- An operand popped: its value, and the stack pointer raised (R277). -/
theorem readOp_tos_board (hgood : ¬BadRead u.platform u.sp n) :
    Reaches (readOp (.mode .tos) n) u fun _ w => w = afterSrc u n (.mode .tos) := by
  refine Reaches.bind (P := fun l w => l = .tos ∧ w = u) (Reaches.pure ⟨rfl, rfl⟩) ?_
  rintro _ _ ⟨rfl, rfl⟩
  refine Reaches.getS fun _ _ _ _ => Reaches.bind ((memRead_runs h _ n).reaches hgood) ?_
  rintro _ _ ⟨rfl, rfl⟩
  refine Reaches.bind (setSp_upd (fun t => t.sp + BitVec.ofNat 32 n) (by simp) (Q := fun _ w => w = _) rfl) ?_
  rintro _ _ rfl
  exact Reaches.pure rfl

theorem readInt_tos_board {i : Size} (hgood : ¬BadRead u.platform u.sp i.bytes) :
    Reaches (readInt i (.mode .tos)) u fun _ w => w = afterSrc u i.bytes (.mode .tos) :=
  (readOp_tos_board h hgood).bind fun _ _ hw => Reaches.pure hw

theorem readRmw_mem_stops {a : Word} (hbad : BadRead u.platform a n) : Stops .readError (readRmw n (.mem a)) u u :=
  fun t ht => readRef_stops h hbad ⟨stRmw, t.flagU, false, true⟩ t ht

theorem readRmw_tos_stops (hbad : BadRead u.platform u.sp n) : Stops .readError (readRmw n .tos) u u :=
  Stops.getS fun _ _ _ _ => readRmw_mem_stops h hbad

end Operands

/-- The action stops with a read error, and a suspension undoes what it has changed of the state before (R602). -/
def Suspends {α : Type} (m : M α) (s : State) : Prop :=
  ∃ w, Stops .readError m s w ∧ ∀ wb sc fc rf, suspend s (w.book wb sc fc rf) = s.book wb sc fc rf

theorem Stops.of_false {α : Type} {e : Stop} {c : Prop} [Decidable c] {m m' : M α} {u w : State} (hc : ¬c)
    (h : Stops e m' u w) : Stops e (if c then m else m') u w := (if_neg hc).symm ▸ h

theorem Stops.suspends {α : Type} {m : M α} {s : State} (h : Stops .readError m s s) : Suspends m s :=
  ⟨s, h, fun _ _ _ _ => rfl⟩

/-- A stack pointer popped before the error, or by the read in error itself, is put back (R624 step 1). -/
theorem tos_suspends {α β : Type} {s : State} {n : Nat} {m : M α} {k : α → M β}
    (hstop : BadRead s.platform s.sp n → Stops .readError m s s)
    (hok : ¬BadRead s.platform s.sp n → Reaches m s fun _ w => w = afterSrc s n (.mode .tos))
    (hk : ∀ v, Stops .readError (k v) (afterSrc s n (.mode .tos)) (afterSrc s n (.mode .tos))) :
    Suspends (m >>= k) s := by
  by_cases hbad : BadRead s.platform s.sp n
  · exact (hstop hbad).bind.suspends
  · refine ⟨_, Reaches.bind_stops (hok hbad) ?_, suspend_afterSrc s n (.mode .tos)⟩
    rintro v _ rfl
    exact hk v

theorem afterTos_board {s : State} (h : RamBoard s) (n : Nat) : RamBoard (afterSrc s n (.mode .tos)) :=
  h.of_eq (State.popped_cfg ..) (State.popped_busReplies ..) (State.popped_platform ..)

theorem legal_abs {a : Access} {d : Disp} (hd : d.wf = true) : legal a (.mode (.abs d)) = true := by
  cases a <;> simp [legal, Operand.illegal, genReservedDisp, modeReservedDisp, hd]

/-! ### Instructions -/

section Instructions

variable {s : State} {i : Size} (h : RamBoard s) (hp : s.pendingError = false)
  (hgood : ¬EntryFails true 11#8 (setP false s.psr) s) (hi : i ≠ .u)
include h hp hgood

theorem suspends_taken {I : Instr} {sh : Shape} {body : M Done} (hexec : exec I s = run sh body s)
    (hc : sh.check s = none) (hb : Suspends body s) : TakesReadError s (exec I s) := by
  obtain ⟨w, hstop, hw⟩ := hb
  exact readError_taken h hgood hp hexec hc hstop hw

include hi

section Absolute

variable {d : Disp} (hd : d.wf = true) (hbad : BadRead s.platform d.value i.bytes)
include hd hbad

theorem mov_abs_taken (k : RegNum) : TakesReadError s (exec (.mov i (.mode (.abs d)) (.mode (.reg k))) s) :=
  suspends_taken h hp hgood rfl (check_none rfl hi (legal_two (legal_abs hd) rfl) (.inl rfl) rfl rfl)
    (readOp_abs_stops h hbad).bind.suspends

theorem cmp_tos_abs_taken : TakesReadError s (exec (.cmp i (.mode .tos) (.mode (.abs d))) s) := by
  refine suspends_taken h hp hgood rfl (check_none rfl hi (legal_two rfl (legal_abs hd)) (.inl rfl) rfl rfl) ?_
  have hbad' : BadRead (afterSrc s i.bytes (.mode .tos)).platform d.value i.bytes :=
    (State.popped_platform s i.bytes).symm ▸ hbad
  exact tos_suspends (fun hsp => (readOp_tos_stops h hsp).bind) (readInt_tos_board h) fun _ =>
    (readOp_abs_stops (afterTos_board h _) hbad').bind.bind

theorem add_tos_abs_taken : TakesReadError s (exec (.add i (.mode .tos) (.mode (.abs d))) s) := by
  refine suspends_taken h hp hgood rfl (check_none rfl hi (legal_two rfl (legal_abs hd)) (.inl rfl) rfl rfl) ?_
  have hbad' : BadRead (afterSrc s i.bytes (.mode .tos)).platform d.value i.bytes :=
    (State.popped_platform s i.bytes).symm ▸ hbad
  exact tos_suspends (readOp_tos_stops h) (readOp_tos_board h) fun _ =>
    (readRmw_mem_stops (afterTos_board h _) hbad').bind

theorem cmpq_abs_taken (q : BitVec 4) : TakesReadError s (exec (.cmpq i q (.mode (.abs d))) s) :=
  suspends_taken h hp hgood rfl (check_none rfl hi (legal_one (legal_abs hd)) (.inl rfl) rfl rfl)
    (readOp_abs_stops h hbad).bind.bind.suspends

end Absolute

section Stack

variable (hbad : BadRead s.platform s.sp i.bytes)
include hbad

theorem mov_tos_taken (k : RegNum) : TakesReadError s (exec (.mov i (.mode .tos) (.mode (.reg k))) s) :=
  suspends_taken h hp hgood rfl (check_none rfl hi (legal_two rfl rfl) (.inl rfl) rfl rfl)
    (readOp_tos_stops h hbad).bind.suspends

theorem cmp_tos_taken {d : Disp} (hd : d.wf = true) :
    TakesReadError s (exec (.cmp i (.mode .tos) (.mode (.abs d))) s) :=
  suspends_taken h hp hgood rfl (check_none rfl hi (legal_two rfl (legal_abs hd)) (.inl rfl) rfl rfl)
    (readOp_tos_stops h hbad).bind.bind.suspends

theorem add_tos_taken (k : RegNum) : TakesReadError s (exec (.add i (.mode (.reg k)) (.mode .tos)) s) := by
  refine suspends_taken h hp hgood rfl (check_none rfl hi (legal_two rfl rfl) (.inl rfl) rfl rfl) (Stops.suspends ?_)
  refine Reaches.bind_stops (readOp_reg_board s k i.bytes) ?_
  rintro _ _ rfl
  exact (readRmw_tos_stops h hbad).bind

end Stack

end Instructions

/-! ### String elements -/

section Strings

variable {s : State} {i : Size} {o : StrOpts} (h : RamBoard s) (hi : i ≠ .u) (huw : o.uw ≠ .unassigned)
  (hpad : o.pad = 0#6)

include hi huw hpad in
theorem string_check : Shape.check { basic := 3, size := i,
                                     reserved := if o.uw = .unassigned then some .stringOption
                                                 else refuseIf (o.pad != 0#6) .dontCareBits } s = none :=
  check_none rfl hi (fun _ ho => nomatch ho) (.inl rfl) rfl (by rw [if_neg huw, hpad]; rfl)

variable {translate two : Bool} {before : M Unit} {step : Quad → M Bool} {g : Half → Half}
  (hcount : s.reg 0#3 ≠ 0#32) (hbefore : ∀ u, Reaches before u fun _ w => w = u.withPsr g)

include h hcount hbefore

theorem iteration_suspends (hbad : BadRead s.platform (s.reg 1#3) i.bytes) :
    Suspends (iteration i.bytes translate two o before step) s := by
  have h' : RamBoard ((s.withPsr (setF false)).withPsr g) := h.of_eq rfl rfl rfl
  refine ⟨(s.withPsr (setF false)).withPsr g, ?_, fun _ _ _ _ => rfl⟩
  refine Reaches.bind_stops (Reaches.updPsr (Q := fun _ u' => u' = _) rfl) ?_
  rintro _ _ rfl
  refine Reaches.bind_stops (hbefore _) ?_
  rintro _ _ rfl
  refine Stops.getS fun _ _ _ _ => Stops.of_false hcount ?_
  exact (memRead_stops h' hbad).bind

/-- The second source of a comparison, where the first can be read (R424). -/
theorem iteration_suspends_second (huntil : o.uw = .none) (hbad : BadRead s.platform (s.reg 2#3) i.bytes) :
    Suspends (iteration i.bytes false two o before (compareStep i)) s := by
  by_cases hfirst : BadRead s.platform (s.reg 1#3) i.bytes
  · exact iteration_suspends h hcount hbefore hfirst
  have h' : RamBoard ((s.withPsr (setF false)).withPsr g) := h.of_eq rfl rfl rfl
  refine ⟨(s.withPsr (setF false)).withPsr g, ?_, fun _ _ _ _ => rfl⟩
  refine Reaches.bind_stops (Reaches.updPsr (Q := fun _ u' => u' = _) rfl) ?_
  rintro _ _ rfl
  refine Reaches.bind_stops (hbefore _) ?_
  rintro _ _ rfl
  refine Stops.getS fun _ _ _ _ => Stops.of_false hcount ?_
  refine Reaches.bind_stops ((memRead_runs h' _ _).reaches hfirst) ?_
  rintro e _ ⟨-, rfl⟩
  refine Stops.of_false nofun (Reaches.bind_stops (P := fun _ w => w = _) (Reaches.pure rfl) ?_)
  rintro _ _ rfl
  refine Stops.of_false (by rw [huntil]; exact Bool.false_ne_true) ?_
  exact (Stops.getS fun _ _ _ _ => (memRead_stops h' hbad).bind).bind

end Strings

/-! ### Fetches -/

theorem setP_false_setP (c : Bool) (p : Half) : setP false (setP c p) = setP false p := setBit_and p c (by decide)

theorem fetch_taken {s : State} {i : Instr} {rest : List Byte} (h : RamBoard s) (hp : s.pendingError = false)
    (hgood : ¬EntryFails true 11#8 (setP false s.psr) s) (hic : s.cfgIC = false)
    (hdecode : decode (fetchFrom (begin s) s.pc maxLength) = .ok (i, rest)) {n : Nat}
    (hn : n = neededBytes (begin s) ((fetchFrom (begin s) s.pc maxLength).headD 0#8) (maxLength - rest.length))
    (hres : anyFrom reservedAddress s.pc n = false) (hbad : BadRead s.platform s.pc n) :
    TakesReadError s (runInstruction s) := by
  have hb : RamBoard (begin s) := h.of_eq rfl rfl rfl
  have hlook (a : Word) : icLookup (begin s) a = begin s := by
    have huse : icLookup (begin s) a = useReply (begin s) := if_pos (by rw [show (begin s).cfgIC = false from hic]; rfl)
    exact huse.trans hb.useReply_eq
  have herr : fetchError (begin s) s.pc n = true := by
    obtain ⟨k, hk, hfail⟩ := (anyFrom_iff ..).mp hbad
    rw [fetchError, views_of_fixed hlook, List.any_map, List.any_eq_true]
    refine ⟨k, List.mem_range.mpr hk, ?_⟩
    have hmiss : icByte (begin s) (s.pc + BitVec.ofNat 32 k) = none := by simp [icByte, show (begin s).cfgIC = false from hic]
    simp only [Function.comp, fetchErrorAt, hb.regionOf_eq, hmiss]
    exact (Bool.and_true _).trans hfail
  have hpc : (begin s).pc = s.pc := rfl
  have hrun : runInstruction s = takeReadError (fetched n (begin s)) (fetched n (begin s)) := by
    simp only [runInstruction, hpc, hdecode, ← hn, hres, herr, Bool.false_eq_true, if_false, if_true]
  rw [hrun]
  unfold fetched
  rw [afterViews_of_fixed hlook]
  exact takeReadError_taken h hgood hp (setP_false_setP ..) rfl ⟨s.writeBuffer, _, _, _, hp, rfl⟩

theorem regionAt_writable {p : List Region} (h : p.all (fun r => r.kind == .ram && !r.writeError) = true) (a : Word) :
    (regionAt p a).writeError = false := by
  induction p with
  | nil => rfl
  | cons r rest ih =>
    simp only [List.all_cons, Bool.and_eq_true, Bool.not_eq_true'] at h
    unfold regionAt
    split
    · exact h.1.2
    · exact ih (List.all_eq_true.mpr fun r hr => by simpa using List.all_eq_true.mp h.2 r hr)

/-- Settles O19: what an instruction does before a read that fails a suspension undoes, and its entry makes no reference
that fails. -/
theorem restartableBusError : Obligations.RestartableBusError := by
  intro s i d k o v rest hboard hoff hreplies hp hi hd huw hpad err u m hslot hmodule taken abs tos
  have hram : s.platform.all (·.kind == .ram) = true :=
    List.all_eq_true.mpr fun r hr => (Bool.and_eq_true _ _).mp (List.all_eq_true.mp hboard r hr) |>.1
  have h : RamBoard s := ⟨hoff, hreplies, regionAt_ram hram⟩
  have hwrites (a : Word) (n : Nat) : ¬BadWrite s.platform a n := by
    rw [BadWrite, anyFrom_false (regionAt_writable hboard)]
    decide
  have hgood : ¬EntryFails true 11#8 (setP false s.psr) s := by
    rintro (hw | hw | hr | ⟨hde, hw | hr | hr⟩)
    · exact hwrites _ _ hw
    · exact hwrites _ _ hw
    · exact hslot hr
    · exact hwrites _ _ hw
    · exact (hmodule hde).1 hr
    · exact (hmodule hde).2 hr
  have hsilent (u : State) : Reaches (pure ()) u fun _ w => w = u.withPsr id := Reaches.pure rfl
  have hflags (u : State) : Reaches equalFlags u fun _ w => w = u.withPsr (setZNL true false false) :=
    Reaches.updPsr rfl
  have hcheck := string_check (s := s) hi huw hpad
  refine ⟨fun hbad => ⟨mov_abs_taken h hp hgood hi hd hbad k, cmp_tos_abs_taken h hp hgood hi hd hbad,
      add_tos_abs_taken h hp hgood hi hd hbad, cmpq_abs_taken h hp hgood hi hd hbad 1#4⟩,
    fun hbad => ⟨mov_tos_taken h hp hgood hi hbad k, add_tos_taken h hp hgood hi hbad k,
      cmp_tos_taken h hp hgood hi hbad hd⟩,
    fun hcount => ⟨fun hbad => ⟨?_, ?_, ?_⟩, fun huntil hbad => ?_⟩,
    fun hinput hop hevent htrace hic hdecode hres hbad => ?_⟩
  · exact suspends_taken h hp hgood rfl hcheck (iteration_suspends h hcount hsilent hbad)
  · exact suspends_taken h hp hgood rfl hcheck (iteration_suspends h hcount hflags hbad)
  · exact suspends_taken h hp hgood rfl hcheck (iteration_suspends h hcount hsilent hbad)
  · exact suspends_taken h hp hgood rfl hcheck (iteration_suspends_second h hcount hflags huntil hbad)
  · exact step_instruction hinput hp hop hevent htrace ▸ fetch_taken h hp hgood hic hdecode rfl hres hbad

end Sys2Proof.Machine
end

section
/-! SUPPORT. The canonical part of the invariant: memory in canonical form, and no unimplemented bit in PSR, CFG, DCR
and DSR (R33, R42, R48, R49). The primitive actions keep it, and so does every instruction, privileged or not. -/

namespace Sys2Proof.Machine

/-- Values of PSR, CFG, DCR and DSR with their unimplemented bits 0 and CFG[7:4] 1 (R33, R42, R48, R49). -/
structure Implemented (psr : Half) (cfg dcr dsr : Word) : Prop where
  psr : psr &&& ~~~psrMask = 0#16
  cfg : cfg &&& ~~~cfgMask = 0x000000F0#32
  dcr : dcr &&& ~~~dcrMask = 0#32
  dsr : dsr &&& ~~~dsrMask = 0#32

/-- The state's memory is in canonical form, and its registers hold no unimplemented bit. -/
def Canonical (s : State) : Prop := MemoryWf s ∧ Implemented s.psr s.cfg s.dcr s.dsr

/-- The invariant is the canonical part and the bound on the write buffer (R101). -/
theorem inv_iff (s : State) : s.inv = true ↔ Canonical s ∧ s.writeBuffer.length ≤ 2 := by
  simp only [State.inv, Bool.and_eq_true, beq_iff_eq, decide_eq_true_eq]
  constructor
  · rintro ⟨⟨⟨⟨⟨hmem, hpsr⟩, hcfg⟩, hdcr⟩, hdsr⟩, hlen⟩
    exact ⟨⟨hmem, ⟨hpsr, hcfg, hdcr, hdsr⟩⟩, hlen⟩
  · rintro ⟨⟨hmem, ⟨hpsr, hcfg, hdcr, hdsr⟩⟩, hlen⟩
    exact ⟨⟨⟨⟨⟨hmem, hpsr⟩, hcfg⟩, hdcr⟩, hdsr⟩, hlen⟩

/-- A value with the unimplemented bits masked off has none. -/
theorem and_mask_and_not {w : Nat} (x m : BitVec w) : x &&& m &&& ~~~m = 0#w := by
  rw [BitVec.and_assoc, BitVec.and_not_self]
  exact BitVec.and_zero

namespace Canonical

variable {s : State}

theorem withPsr (h : Canonical s) {p : Half} (hp : p &&& ~~~psrMask = 0#16) : Canonical { s with psr := p } := by
  obtain ⟨hmem, ⟨-, hcfg, hdcr, hdsr⟩⟩ := h
  exact ⟨hmem, ⟨hp, hcfg, hdcr, hdsr⟩⟩

theorem withDsr (h : Canonical s) {x : Word} (hx : x &&& ~~~dsrMask = 0#32) : Canonical { s with dsr := x } := by
  obtain ⟨hmem, ⟨hpsr, hcfg, hdcr, -⟩⟩ := h
  exact ⟨hmem, ⟨hpsr, hcfg, hdcr, hx⟩⟩

theorem withDcr (h : Canonical s) {x : Word} (hx : x &&& ~~~dcrMask = 0#32) : Canonical { s with dcr := x } := by
  obtain ⟨hmem, ⟨hpsr, hcfg, -, hdsr⟩⟩ := h
  exact ⟨hmem, ⟨hpsr, hcfg, hx, hdsr⟩⟩

theorem setSp (h : Canonical s) (v : Word) : Canonical (s.setSp v) := by
  unfold Canonical MemoryWf at h ⊢
  simpa using h

/-- Loading CFG sets CFG[7:4] and takes only implemented bits (R42, R46). -/
theorem loadCfg (h : Canonical s) (v : Word) : Canonical (Machine.loadCfg v s) := by
  have hcfg : ((v &&& cfgMask) ||| 0x000000F0#32) &&& ~~~cfgMask = 0x000000F0#32 := by
    rw [BitVec.and_comm, BitVec.and_or_distrib_left, BitVec.and_comm _ (v &&& cfgMask), and_mask_and_not]
    rfl
  obtain ⟨hmem, ⟨hpsr, -, hdcr, hdsr⟩⟩ := h
  unfold Machine.loadCfg
  simp only []
  split
  all_goals exact ⟨hmem, ⟨hpsr, hcfg, hdcr, hdsr⟩⟩

end Canonical

/-! ### The primitive actions -/

/-- Two properties that an action keeps are kept together. -/
theorem Keeps.and {p q : State → Prop} {α : Type} {m : M α} (hp : Keeps p m) (hq : Keeps q m) :
    Keeps (fun s => p s ∧ q s) m := by
  rintro s ⟨h, h'⟩
  have h1 := hp s h
  have h2 := hq s h'
  cases hm : m s with
  | ok a t => rw [hm] at h1 h2; exact ⟨h1, h2⟩
  | error e t => rw [hm] at h1 h2; exact ⟨h1, h2⟩

theorem implemented_blind : BlindToMemory fun s => Implemented s.psr s.cfg s.dcr s.dsr := fun _ _ h => h

theorem canonical_primitives : UserPrimitives Canonical where
  draws _ _ h := h
  settle f := (settleWrites_keeps_memory f).and (implemented_blind.keeps_settleWrites f)
  read k a n := (readRef_keeps_memory k a n).and (implemented_blind.keeps_readRef k a n)
  write k a n v := (writeRef_keeps_memory k a n v).and (implemented_blind.keeps_writeRef k a n v)
  discard _ h := h
  refs _ _ h := h
  slave _ _ h := h
  reg _ _ _ h := h
  sp _ v h := h.setSp v
  fp _ _ h := h
  sb _ _ h := h
  mod _ _ h := h
  flags _ _ hf h := h.withPsr (implemented_of_systemBits (hf _ h.2.psr) h.2.psr)
  waiting _ h := h

theorem icuNow_keeps_memory (status : BitVec 5) (a : Word) : Keeps MemoryWf (icuNow status a) := by
  intro s h
  unfold icuNow
  simp only []
  split
  all_goals
    next heq =>
    split at heq <;> cases heq
    exact h

theorem icuRead_keeps_memory (status : BitVec 5) (a : Word) : Keeps MemoryWf (icuRead status a) :=
  Keeps.getS.bind fun _ => (settleWrites_keeps_memory _).bind fun _ => icuNow_keeps_memory _ _

theorem icuRead_keeps_canonical (status : BitVec 5) (a : Word) : Keeps Canonical (icuRead status a) :=
  (icuRead_keeps_memory status a).and (implemented_blind.keeps_icuRead status a)

theorem Keeps.fatally {p : State → Prop} {α : Type} {m : M α} (h : Keeps p m) : Keeps p (Machine.fatally m) := by
  intro s hs
  have h1 := h s hs
  unfold Machine.fatally
  cases hm : m s with
  | ok a t => rw [hm] at h1; exact h1
  | error e t => rw [hm] at h1; cases e <;> exact h1

/-- PSR loaded with its unimplemented bits masked off (R33). -/
theorem updPsr_masked_keeps (f : Half → Half) : Keeps Canonical (updPsr fun p => f p &&& psrMask) :=
  Keeps.updPsr fun _ h => h.withPsr (and_mask_and_not _ _)

/-! ### The privileged instructions -/

theorem returnFrom_keeps (discard : Word) : Keeps Canonical (returnFrom discard) := by
  have hp := canonical_primitives
  have hpsr (psr : Half) : Keeps Canonical (updPsr fun _ => psr &&& psrMask) := updPsr_masked_keeps fun _ => psr
  have hread16 (a : Word) : Keeps Canonical (memRead16 a) := (hp.keeps_memRead a 2).bind fun _ => Keeps.pure _
  have hlast (pc : Word) :
      Keeps Canonical (do upd fun s => s.setSp (s.sp + discard); serialize; return ({ target := some pc } : Done)) :=
    (hp.keeps_setSp _).bind fun _ => hp.keeps_serialize.bind fun _ => Keeps.pure _
  refine Keeps.getS.bind fun s => (hp.keeps_memRead32 _).bind fun pc => ?_
  refine Keeps.join (Keeps.pure _) (hread16 _) fun modw => (hread16 _).bind fun psr =>
    (hp.keeps_setSp _).bind fun _ => (hpsr psr).bind fun _ => ?_
  exact Keeps.join (Keeps.pure ()) (hp.keeps_enterModule _) fun _ => hlast pc

theorem endOfInterrupt_keeps : Keeps Canonical endOfInterrupt := by
  refine Keeps.getS.bind fun s => (icuRead_keeps_canonical _ _).fatally.bind fun b => Keeps.ite ?_ (Keeps.pure _)
  exact (canonical_primitives.keeps_memRead32 _).fatally.bind fun _ =>
    (icuRead_keeps_canonical _ _).fatally.bind fun _ => Keeps.pure _

/-- Every dedicated register is loaded with its unimplemented bits masked off (R33, R46, R482). -/
theorem loadAReg_keeps (r : AReg) (v : Quad) : Keeps Canonical (loadAReg r v) := by
  have hp := canonical_primitives
  cases hr : aregPrivileged r with
  | false => exact hp.keeps_loadAReg hr v
  | true =>
    cases r with
    | psr => exact (updPsr_masked_keeps fun _ => _).bind fun _ => hp.keeps_serialize
    | dcr => exact (Keeps.upd fun _ h => h.withDcr (and_mask_and_not _ _)).bind fun _ => hp.keeps_serialize
    | dsr => exact (Keeps.upd fun _ h => h.withDsr (and_mask_and_not _ _)).bind fun _ => hp.keeps_serialize
    | cfg =>
      exact (Keeps.stopIf _ _).bind fun _ => hp.keeps_drain.bind fun _ =>
        (Keeps.upd fun _ h => h.loadCfg _).bind fun _ => hp.keeps_serialize
    | intbase | car | bpc =>
      refine Keeps.bind (Keeps.upd ?_) fun _ => hp.keeps_serialize
      exact fun _ h => h
    | usp => exact Keeps.upd fun _ h => h
    | upsr | fp | sp | sb | mod | res5 | res6 | res7 => cases hr

/-- A change of PSR: its low byte, or the whole with the serializing of R110 (R484, R485). -/
theorem changeStatus_keeps {c : Prop} [Decidable c] (low whole : Half → Half) : Keeps Canonical (do
    if c then updPsr fun p => low p &&& psrMask
    else
      updPsr fun p => whole p &&& psrMask
      serialize
    return ({} : Done)) :=
  Keeps.join (updPsr_masked_keeps low)
    ((updPsr_masked_keeps whole).bind fun _ => canonical_primitives.keeps_serialize) fun _ => Keeps.pure _

theorem bispsr_keeps (i : Size) (g : Gen) : RunsKeeping Canonical (execBispsr i g) :=
  RunsKeeping.run ((canonical_primitives.keeps_readOp g _).bind fun v =>
    changeStatus_keeps (fun p => p ||| (v.setWidth 16 &&& 0x00FF#16)) fun p => p ||| v.setWidth 16)

theorem bicpsr_keeps (i : Size) (g : Gen) : RunsKeeping Canonical (execBicpsr i g) :=
  RunsKeeping.run ((canonical_primitives.keeps_readOp g _).bind fun v =>
    changeStatus_keeps (fun p => p &&& ~~~(v.setWidth 16 &&& 0x00FF#16)) fun p => p &&& ~~~(v.setWidth 16))

theorem invalidateCode_canonical {s : State} (h : Canonical s) (all : Bool) (v : Word) :
    Canonical (invalidateCode all v s) := h

theorem invalidateData_canonical {s : State} (h : Canonical s) (all : Bool) (v : Word) :
    Canonical (invalidateData all v s) := by
  cases all <;> exact h

theorem cinv_keeps (a i d : Bool) (pad : BitVec 1) (g : Gen) : RunsKeeping Canonical (execCinv a i d pad g) := by
  have hp := canonical_primitives
  refine RunsKeeping.run ((hp.keeps_readOp g 4).bind fun v => (hp.keeps_slaveSend _ _).bind fun _ =>
    (hp.keeps_slaveSend _ _).bind fun _ => hp.keeps_drain.bind fun _ => ?_)
  have hcode : Keeps Canonical (upd (invalidateCode a (v.setWidth 32))) :=
    Keeps.upd fun _ h => invalidateCode_canonical h a _
  have hdata : Keeps Canonical (upd (invalidateData a (v.setWidth 32))) :=
    Keeps.upd fun _ h => invalidateData_canonical h a _
  refine Keeps.join hcode (Keeps.pure ()) fun _ => ?_
  have hlast : Keeps Canonical (do serialize; return ({} : Done)) := hp.keeps_serialize.bind fun _ => Keeps.pure _
  exact Keeps.ite (hdata.bind fun _ => hlast) ((Keeps.pure ()).bind fun _ => hlast)

theorem movsu_keeps (i : Size) (g1 g2 : Gen) : RunsKeeping Canonical (execMovsu i g1 g2) := by
  have hp := canonical_primitives
  exact RunsKeeping.run ((hp.keeps_addrOp g1).bind fun _ => (hp.keeps_addrOp g2).bind fun _ =>
    (hp.keeps_memRead _ _).bind fun _ => (hp.write _ _ _ _).bind fun _ => Keeps.pure _)

theorem movus_keeps (i : Size) (g1 g2 : Gen) : RunsKeeping Canonical (execMovus i g1 g2) := by
  have hp := canonical_primitives
  exact RunsKeeping.run ((hp.keeps_addrOp g1).bind fun _ => (hp.keeps_addrOp g2).bind fun _ =>
    (hp.read _ _ _).bind fun _ => (hp.keeps_memWrite _ _ _).bind fun _ => Keeps.pure _)

end Sys2Proof.Machine
end

section
/-! SUPPORT. The bound on the write buffer (R101): an action leaves at most two stores waiting unless a failed write
stops it, for only a write adds a store, and a third one waits until the oldest is written. -/

namespace Sys2Proof.Machine

/-- At most two stores wait (R101). -/
def Short (s : State) : Prop := s.writeBuffer.length ≤ 2

@[simp] theorem short_iff (s : State) : Short s ↔ s.writeBuffer.length ≤ 2 := Iff.rfl

/-- From a state in which at most two stores wait the action leads to another, unless a failed write stops it (R625). -/
def StaysShort {α : Type} (m : M α) : Prop :=
  ∀ s, Short s → match m s with
    | .ok _ t => Short t
    | .error e t => e ≠ .writeError → Short t

namespace StaysShort

variable {α β : Type}

@[simp] theorem pure (a : α) : StaysShort (Pure.pure a : M α) := fun _ h => h

@[simp] theorem bind {m : M α} {k : α → M β} (h : StaysShort m) (hk : ∀ a, StaysShort (k a)) :
    StaysShort (m >>= k) := by
  intro s hs
  have h1 := h s hs
  cases hm : m s with
  | ok a t =>
    rw [hm] at h1
    have e : (m >>= k) s = k a t := by simp [Bind.bind, EStateM.bind, hm]
    rw [e]
    exact hk a t h1
  | error x t =>
    rw [hm] at h1
    have e : (m >>= k) s = .error x t := by simp [Bind.bind, EStateM.bind, hm]
    rw [e]
    exact h1

section Chain

/-! `simp` discharges hypotheses to a small depth only, so a chain of actions is taken apart several links at a time. -/

variable {γ δ ε : Type} {m : M α} {k : α → M β} {l : α → β → M γ} {j : α → β → γ → M δ} {i : α → β → γ → δ → M ε}

@[simp] theorem chain3 (hm : StaysShort m) (hk : ∀ a, StaysShort (k a)) (hl : ∀ a b, StaysShort (l a b)) :
    StaysShort (m >>= fun a => k a >>= fun b => l a b) :=
  hm.bind fun a => (hk a).bind fun b => hl a b

@[simp] theorem chain4 (hm : StaysShort m) (hk : ∀ a, StaysShort (k a)) (hl : ∀ a b, StaysShort (l a b))
    (hj : ∀ a b c, StaysShort (j a b c)) :
    StaysShort (m >>= fun a => k a >>= fun b => l a b >>= fun c => j a b c) :=
  hm.bind fun a => chain3 (hk a) (hl a) (hj a)

@[simp] theorem chain5 (hm : StaysShort m) (hk : ∀ a, StaysShort (k a)) (hl : ∀ a b, StaysShort (l a b))
    (hj : ∀ a b c, StaysShort (j a b c)) (hi : ∀ a b c d, StaysShort (i a b c d)) :
    StaysShort (m >>= fun a => k a >>= fun b => l a b >>= fun c => j a b c >>= fun d => i a b c d) :=
  hm.bind fun a => chain4 (hk a) (hl a) (hj a) (hi a)

end Chain

@[simp] theorem map_iff {f : α → β} {m : M α} : StaysShort (f <$> m) ↔ StaysShort m := by
  refine forall₂_congr fun s _ => ?_
  simp only [Functor.map, EStateM.map]
  cases m s <;> rfl

@[simp] theorem getS : StaysShort Machine.getS := fun _ h => h

@[simp] theorem stop (e : Stop) : StaysShort (Machine.stop e : M α) := fun _ h _ => h

@[simp] theorem stopIf (b : Bool) (e : Stop) : StaysShort (Machine.stopIf b e) := by
  intro s h
  unfold Machine.stopIf
  cases b
  · exact h
  · exact fun _ => h

@[simp] theorem upd_iff {f : State → State} : StaysShort (Machine.upd f) ↔ ∀ s, Short s → Short (f s) := Iff.rfl

@[simp] theorem updPsr (f : Half → Half) : StaysShort (Machine.updPsr f) := fun _ h => h

@[simp] theorem ite_iff {c : Prop} [Decidable c] {m m' : M α} :
    StaysShort (if c then m else m') ↔ (c → StaysShort m) ∧ (¬c → StaysShort m') := by
  split <;> simp [*]

@[simp] theorem drawWord : StaysShort Machine.drawWord := fun _ h => h
@[simp] theorem drawBool : StaysShort Machine.drawBool := fun _ h => h

/-- A read whose bus error is fatal stops where the read does (R626). -/
theorem fatally {m : M α} (h : StaysShort m) : StaysShort (Machine.fatally m) := by
  intro s hs
  have h1 := h s hs
  unfold Machine.fatally
  cases hm : m s with
  | ok a t => rw [hm] at h1; exact h1
  | error e t =>
    rw [hm] at h1
    cases e with
    | readError => exact fun _ => h1 nofun
    | trap k | writeError | fatal | refuse r | fault f => exact h1

end StaysShort

/-! ### References, stack, operands -/

@[simp] theorem settleWrites_short (f : PendingStore → Bool) : StaysShort (settleWrites f) := by
  intro s h
  unfold settleWrites
  simp only []
  split
  · next heq =>
    split at heq <;> cases heq
    exact (List.takeWhile_sublist _).length_le.trans h
  · next heq =>
    split at heq <;> cases heq
    exact fun hne => absurd rfl hne

@[simp] theorem readNow_short (k : RefKind) (a : Word) (n : Nat) : StaysShort (readNow k a n) := by
  intro s h
  obtain ⟨dc, br, hv⟩ := dataReads_frame k.cached s a n
  unfold readNow
  rw [hv]
  simp only []
  split
  · next heq =>
    split at heq <;> cases heq
    exact h
  · next heq =>
    split at heq <;> cases heq
    exact fun _ => h

@[simp] theorem readRef_short (k : RefKind) (a : Word) (n : Nat) : StaysShort (readRef k a n) := by simp [readRef]

/-- A third store waits until the oldest is written (R101). -/
@[simp] theorem writeRef_short (k : RefKind) (a : Word) (n : Nat) (v : Quad) : StaysShort (writeRef k a n v) := by
  intro s h
  unfold writeRef
  simp only []
  split
  · next heq =>
    split at heq <;> cases heq
    exact List.length_take_le _ _
  · next heq =>
    split at heq <;> cases heq
    exact fun hne => absurd rfl hne

@[simp] theorem drain_short : StaysShort drain := settleWrites_short _
@[simp] theorem serialize_short : StaysShort serialize := by simp [serialize, discardPrefetched]
@[simp] theorem memRead_short (a : Word) (n : Nat) : StaysShort (memRead a n) := fun s h => readRef_short _ a n s h
@[simp] theorem memReadRmw_short (a : Word) (n : Nat) : StaysShort (memReadRmw a n) :=
  fun s h => readRef_short _ a n s h
@[simp] theorem memWrite_short (a : Word) (n : Nat) (v : Quad) : StaysShort (memWrite a n v) :=
  fun s h => writeRef_short _ a n v s h

@[simp] theorem memReadPtr_short (status : BitVec 5) (a : Word) : StaysShort (memReadPtr status a) := by
  intro s h
  have hr := readRef_short ⟨status, s.flagU, false, true⟩ a 4 s h
  unfold memReadPtr
  cases he : readRef ⟨status, s.flagU, false, true⟩ a 4 s <;> rw [he] at hr <;> exact hr

@[simp] theorem memRead32_short (a : Word) : StaysShort (memRead32 a) := by simp [memRead32]
@[simp] theorem memRead16_short (a : Word) : StaysShort (memRead16 a) := by simp [memRead16]
@[simp] theorem memReadLocked_short (a : Word) : StaysShort (memReadLocked a) := by simp [memReadLocked]
@[simp] theorem memWriteLocked_short (a : Word) (v : Quad) : StaysShort (memWriteLocked a v) := by simp [memWriteLocked]
@[simp] theorem push_short (n : Nat) (v : Quad) : StaysShort (push n v) := by simp [push]
@[simp] theorem pop_short (n : Nat) : StaysShort (pop n) := by simp [pop]
@[simp] theorem enterModule_short (m : Half) : StaysShort (enterModule m) := by simp [enterModule]

@[simp] theorem locMode_short (m : Mode) : StaysShort (locMode m) := by cases m <;> simp [locMode]
@[simp] theorem locGen_short (g : Gen) : StaysShort (locGen g) := by cases g <;> simp [locGen]
@[simp] theorem readLoc_short (n : Nat) (l : Loc) : StaysShort (readLoc n l) := by cases l <;> simp [readLoc]
@[simp] theorem readRmw_short (n : Nat) (l : Loc) : StaysShort (readRmw n l) := by cases l <;> simp [readRmw]
@[simp] theorem writeReg_short (n : Nat) (k : RegNum) (v : Quad) : StaysShort (writeReg n k v) := by simp [writeReg]

@[simp] theorem writeLoc_short (n : Nat) (v : Quad) (l : Loc) : StaysShort (writeLoc n v l) := by
  cases l <;> simp [writeLoc]

@[simp] theorem writeRmw_short (n : Nat) (v : Quad) (l : Loc) : StaysShort (writeRmw n v l) := by
  cases l <;> simp [writeRmw]

@[simp] theorem readOp_short (g : Gen) (n : Nat) : StaysShort (readOp g n) := by simp [readOp]
@[simp] theorem readInt_short (i : Size) (g : Gen) : StaysShort (readInt i g) := by simp [readInt]

@[simp] theorem addrOp_short (g : Gen) : StaysShort (addrOp g) :=
  (locGen_short g).bind fun l => by cases l <;> simp

@[simp] theorem baseOp_short (g : Gen) : StaysShort (baseOp g) :=
  (locGen_short g).bind fun l => by cases l <;> simp

@[simp] theorem readModify_short {n1 n2 w1 w2 : Nat} {g1 g2 : Gen} {f : State → BitVec w2 → BitVec w1 → M (Result w2)}
    (hf : ∀ s b a, StaysShort (f s b a)) : StaysShort (readModify n1 n2 w1 w2 g1 g2 f) := by
  simp [readModify, hf]

@[simp] theorem readWrite_short {n1 n2 w1 w2 : Nat} {g1 g2 : Gen} {f : BitVec w1 → M (Result w2)}
    (hf : ∀ a, StaysShort (f a)) : StaysShort (readWrite n1 n2 w1 w2 g1 g2 f) := by
  simp [readWrite, hf]

/-! ### The actions of the instructions -/

section Results

variable {n : Nat} (b a : BitVec n)

@[simp] theorem dividing_short (f : BitVec n → BitVec n → Result n) : StaysShort (dividing f b a) := by simp [dividing]
@[simp] theorem addPacked_short (c : Bool) : StaysShort (addPacked b a c) := by simp [addPacked]
@[simp] theorem subPacked_short (c : Bool) : StaysShort (subPacked b a c) := by simp [subPacked]
@[simp] theorem logicalShift_short (c : Byte) : StaysShort (logicalShift b c) := by simp [logicalShift]
@[simp] theorem arithmeticShift_short (c : Byte) : StaysShort (arithmeticShift b c) := by simp [arithmeticShift]
@[simp] theorem rotate_short (c : Byte) : StaysShort (rotate b c) := by simp [rotate]

end Results

@[simp] theorem moveElements_short (n : Nat) (a1 a2 : Word) (k : Nat) : StaysShort (moveElements n a1 a2 k) := by
  induction k generalizing a1 a2 with
  | zero => simp [moveElements]
  | succ k ih => simp [moveElements, ih]

@[simp] theorem compareElements_short (i : Size) (a1 a2 : Word) (k : Nat) : StaysShort (compareElements i a1 a2 k) := by
  induction k generalizing a1 a2 with
  | zero => simp [compareElements]
  | succ k ih => simp [compareElements, ih]

@[simp] theorem readDouble_short (n : Nat) (l : Loc) : StaysShort (readDouble n l) := by
  cases l <;> simp [readDouble]

@[simp] theorem writeDouble_short (n : Nat) (lo hi : Quad) (l : Loc) : StaysShort (writeDouble n lo hi l) := by
  cases l <;> simp [writeDouble]

@[simp] theorem registerBit_short (w : Word) (o : Int) : StaysShort (registerBit w o) := by simp [registerBit]

@[simp] theorem registerWithBit_short (w : Word) (o : Int) (f : Bool → Bool) : StaysShort (registerWithBit w o f) := by
  simp [registerWithBit]

@[simp] theorem fieldRead_short (b : Base) (o : Int) (len : Nat) : StaysShort (fieldRead b o len) := by
  cases b <;> simp [fieldRead]

@[simp] theorem fieldWrite_short (b : Base) (o : Int) (len : Nat) (v : Quad) : StaysShort (fieldWrite b o len v) := by
  cases b <;> simp [fieldWrite]

@[simp] theorem insertSource_short (i : Size) (v : BitVec i.bits) (len : Nat) : StaysShort (insertSource i v len) := by
  simp [insertSource]

@[simp] theorem advance_short (n : Nat) (back two : Bool) : StaysShort (advance n back two) := by simp [advance]
@[simp] theorem moveStep_short (n : Nat) (e : Quad) : StaysShort (moveStep n e) := by simp [moveStep]
@[simp] theorem compareStep_short (i : Size) (e : Quad) : StaysShort (compareStep i e) := by simp [compareStep]
@[simp] theorem equalFlags_short : StaysShort equalFlags := by simp [equalFlags]

@[simp] theorem iteration_short {n : Nat} {translate two : Bool} {o : StrOpts} {before : M Unit} {step : Quad → M Bool}
    (hb : StaysShort before) (hs : ∀ e, StaysShort (step e)) :
    StaysShort (iteration n translate two o before step) := by
  refine (StaysShort.updPsr _).bind fun _ => hb.bind fun _ => StaysShort.getS.bind fun s => ?_
  refine StaysShort.ite_iff.mpr ⟨fun _ => StaysShort.pure _, fun _ => (memRead_short _ n).bind fun e0 => ?_⟩
  refine StaysShort.ite_iff.mpr ⟨fun _ => (memRead_short _ 1).bind fun e => ?_, fun _ => ?_⟩
  · simp [hs]
  · simp [hs]

@[simp] theorem callModule_short (desc next : Word) : StaysShort (callModule desc next) := by simp [callModule]

@[simp] theorem saveRegs_short (m : Byte) (l : List RegNum) : StaysShort (saveRegs m l) := by
  induction l with
  | nil => simp [saveRegs]
  | cons n rest ih => simp [saveRegs, ih]

@[simp] theorem restoreRegs_short (m : Byte) (l : List RegNum) : StaysShort (restoreRegs m l) := by
  induction l with
  | nil => simp [restoreRegs]
  | cons n rest ih => simp [restoreRegs, ih]

@[simp] theorem icuRead_short (status : BitVec 5) (a : Word) : StaysShort (icuRead status a) := by
  refine StaysShort.getS.bind fun _ => (settleWrites_short _).bind fun _ s h => ?_
  unfold icuNow
  simp only []
  split
  · next heq =>
    split at heq <;> cases heq
    exact h
  · next heq =>
    split at heq <;> cases heq
    exact fun _ => h

@[simp] theorem returnFrom_short (discard : Word) : StaysShort (returnFrom discard) := by
  refine StaysShort.getS.bind fun s => (memRead32_short _).bind fun pc =>
    StaysShort.ite_iff.mpr ⟨fun _ => ?_, fun _ => ?_⟩
  · refine (StaysShort.pure s.mod).bind fun modw => ?_
    simp
  · refine (memRead16_short _).bind fun modw => ?_
    simp

@[simp] theorem endOfInterrupt_short : StaysShort endOfInterrupt := by
  refine StaysShort.getS.bind fun s => (icuRead_short _ _).fatally.bind fun b =>
    StaysShort.ite_iff.mpr ⟨fun _ => ?_, fun _ => StaysShort.pure _⟩
  exact (memRead32_short _).fatally.bind fun ca => (icuRead_short _ _).fatally.bind fun _ => StaysShort.pure _

/-! ### Slave processors -/

@[simp] theorem slaveSend_short (status : BitVec 5) (w : Word) : StaysShort (slaveSend status w) := by simp [slaveSend]
@[simp] theorem slaveRead_short (status : BitVec 5) (w : Word) : StaysShort (slaveRead status w) := by simp [slaveRead]

@[simp] theorem sendAll_short (ws : List Word) : StaysShort (sendAll ws) := by
  induction ws with
  | nil => simp [sendAll]
  | cons w rest ih => simp [sendAll, ih]

@[simp] theorem slaveAnswer_short (i : Instr) (sent : List Word) : StaysShort (slaveAnswer i sent) := fun _ h => h
@[simp] theorem statusWord_short (sw : Word) : StaysShort (statusWord sw) := by simp [statusWord]

@[simp] theorem transact_short (i : Instr) (sent : List Word) (n : Nat) : StaysShort (transact i sent n) :=
  (slaveSend_short _ _).bind fun _ => (sendAll_short sent).bind fun _ => (slaveAnswer_short i sent).bind fun r => by
    cases r <;> simp

@[simp] theorem sourceWords_short (t : SlaveType) (g : Gen) : StaysShort (sourceWords t g) := by simp [sourceWords]
@[simp] theorem rmwWords_short (t : SlaveType) (g : Gen) (l : Loc) : StaysShort (rmwWords t g l) := by simp [rmwWords]

/-! ### Dedicated registers -/

theorem loadCfg_writeBuffer (v : Word) (s : State) : (loadCfg v s).writeBuffer = s.writeBuffer := by
  unfold loadCfg
  simp only []
  split <;> rfl

@[simp] theorem loadAReg_short (r : AReg) (v : Quad) : StaysShort (loadAReg r v) := by
  cases r <;> simp [loadAReg, loadCfg_writeBuffer]

@[simp] theorem withReserved_short (v mask : Word) : StaysShort (withReserved v mask) := by simp [withReserved]
@[simp] theorem readAReg_short (r : AReg) : StaysShort (readAReg r) := by cases r <;> simp [readAReg]

end Sys2Proof.Machine
end

section
/-! SUPPORT. The instructions one by one, in either mode: each is its checks and actions that keep the canonical part of
the invariant and leave at most two stores waiting. -/

namespace Sys2Proof.Machine

/-- From every state the instruction is its checks and actions that leave at most two stores waiting. -/
def RunsShort (f : State → Out) : Prop := ∀ s, ∃ sh body, f s = run sh body s ∧ StaysShort (checked sh body)

theorem StaysShort.checked {sh : Shape} {body : M Done} (h : StaysShort body) :
    StaysShort (Machine.checked sh body) := by
  intro s hs
  unfold Machine.checked
  cases sh.check s with
  | some e => exact fun _ => hs
  | none => exact h s hs

namespace RunsShort

theorem run {sh : Shape} {body : M Done} (h : StaysShort body) : RunsShort (run sh body) :=
  fun _ => ⟨sh, body, rfl, h.checked⟩

theorem runNext {sh : Shape} {body : Word → M Done} (h : ∀ next, StaysShort (body next)) :
    RunsShort (runNext sh body) :=
  fun s => ⟨sh, body (s.pc + BitVec.ofNat 32 sh.length), rfl, (h _).checked⟩

theorem binary {basic : Nat} {i : Size} {g1 g2 : Gen} {f : State → BitVec i.bits → BitVec i.bits → M (Result i.bits)}
    (hf : ∀ s b a, StaysShort (f s b a)) : RunsShort (binary basic i g1 g2 f) := run (readModify_short hf)

theorem unary {i : Size} {g1 g2 : Gen} {f : BitVec i.bits → Result i.bits} :
    RunsShort (unary i g1 g2 fun a => pure (f a)) := run (readWrite_short fun _ => StaysShort.pure _)

theorem division {basic : Nat} {i : Size} {g1 g2 : Gen} {f : BitVec i.bits → BitVec i.bits → Result i.bits} :
    RunsShort (Machine.binary basic i g1 g2 fun _ => dividing f) := binary fun _ b a => dividing_short b a f

theorem shift {i : Size} {g1 g2 : Gen} {f : BitVec i.bits → Byte → M (Result i.bits)} (hf : ∀ b c, StaysShort (f b c)) :
    RunsShort (shift i g1 g2 f) := run (readModify_short fun _ b c => hf b c)

theorem ffs (i : Size) (pad : BitVec 3) (g1 g2 : Gen) : RunsShort (execFfs i pad g1 g2) := by
  refine run (readModify_short fun _ o b => ?_)
  cases findSet b o.toNat (i.bits - o.toNat) <;> simp

theorem tbit (i : Size) (g1 g2 : Gen) : RunsShort (execTbit i g1 g2) := by
  refine run ((readInt_short i g1).bind fun _ => (baseOp_short g2).bind fun b => ?_)
  cases b <;> simp

theorem testBit (locked : Bool) (f : Bool → Bool) (i : Size) (g1 g2 : Gen) : RunsShort (testBit locked f i g1 g2) := by
  refine run ((readInt_short i g1).bind fun _ => (baseOp_short g2).bind fun b => ?_)
  cases b with
  | reg k => simp
  | mem a => cases locked <;> simp

theorem string {i : Size} {translate two : Bool} {o : StrOpts} {before : M Unit} {step : Quad → M Bool}
    (hb : StaysShort before) (hs : ∀ e, StaysShort (step e)) : RunsShort (string i translate two o before step) :=
  run (iteration_short hb hs)

/-! ### Slave instructions -/

section Slave

variable {set : SlaveSet} {i : Instr} {r : Option Refusal} {t1 t2 : SlaveType} {g1 g2 : Gen}

theorem likeAdd : RunsShort (likeAdd set i r t1 g1 t2 g2) := by
  refine run ((sourceWords_short t1 g1).bind fun _ => (locGen_short g2).bind fun l =>
    (rmwWords_short t2 g2 l).bind fun _ => (transact_short i _ _).bind fun v => ?_)
  cases v <;> simp

theorem likeMov {size : Size} : RunsShort (likeMov size set i r t1 g1 t2 g2) := by
  refine run ((sourceWords_short t1 g1).bind fun _ => (locGen_short g2).bind fun l =>
    (transact_short i _ _).bind fun v => ?_)
  cases v <;> simp

theorem likeCmp : RunsShort (likeCmp set i r t1 g1 t2 g2) := run (by simp)

theorem slot {note : SlotNote} : RunsShort (slot note set i r t1 g1 g2) := by
  cases note with
  | likeMov => exact likeMov
  | likeAdd => exact likeAdd
  | likeCmp => exact likeCmp

theorem slaveLoad {priv : Bool} {b : BitVec 2} : RunsShort (slaveLoad set priv b i r g1) := run (by simp)

theorem slaveStore {priv : Bool} {b : BitVec 2} : RunsShort (slaveStore set priv b i r g1) := by
  refine run ((locGen_short g1).bind fun l => (transact_short i _ _).bind fun v => ?_)
  cases v <;> simp

end Slave

/-! ### Linkage, and instructions without actions -/

theorem bsr (d : Disp) : RunsShort (execBsr d) := runNext (by simp)
theorem jsr (i : Size) (g : Gen) : RunsShort (execJsr i g) := runNext (by simp)
theorem cxp (d : Disp) : RunsShort (execCxp d) := runNext (by simp)
theorem cxpd (i : Size) (g : Gen) : RunsShort (execCxpd i g) := runNext (by simp)
theorem nop : RunsShort execNop := run (StaysShort.pure _)
theorem svc : RunsShort execSvc := run (StaysShort.stop _)
theorem bpt : RunsShort execBpt := run (StaysShort.stop _)
theorem undefined (basic : Nat) : RunsShort (undefined basic) := run (StaysShort.stop _)

theorem cinv (a i d : Bool) (pad : BitVec 1) (g : Gen) : RunsShort (execCinv a i d pad g) := by
  have hdata (v : Word) (s : State) : (invalidateData a v s).writeBuffer = s.writeBuffer := by cases a <;> rfl
  have hcode (v : Word) (s : State) : (invalidateCode a v s).writeBuffer = s.writeBuffer := rfl
  refine run ((readOp_short g 4).bind fun v => (slaveSend_short _ _).bind fun _ => (slaveSend_short _ _).bind fun _ =>
    drain_short.bind fun _ => ?_)
  simp [hdata, hcode]

end RunsShort

/-- Every instruction, in either mode, keeps the canonical part of the invariant and leaves at most two stores waiting.
-/
theorem exec_runs (i : Instr) : RunsKeeping Canonical (exec i) ∧ RunsShort (exec i) := by
  have hp := canonical_primitives
  cases i with
  | beq d | bne d | bcs d | bcc d | bhi d | bls d | bgt d | ble d | bfs d | bfc d | blo d | bhs d | blt d | bge d
  | br d | bnever d => exact ⟨UserPrimitives.runs_branch _ d, .run (by simp)⟩
  | bsr d => exact ⟨hp.runs_bsr d, .bsr d⟩
  | ret d => exact ⟨hp.runs_ret d, .run (by simp)⟩
  | cxp d => exact ⟨hp.runs_cxp d, .cxp d⟩
  | rxp d => exact ⟨hp.runs_rxp d, .run (by simp)⟩
  | rett d => exact ⟨.run (returnFrom_keeps _), .run (returnFrom_short _)⟩
  | reti =>
    exact ⟨.run (endOfInterrupt_keeps.bind fun _ => returnFrom_keeps _),
      .run (endOfInterrupt_short.bind fun _ => returnFrom_short _)⟩
  | save m => exact ⟨hp.runs_save m, .run (by simp)⟩
  | restore m => exact ⟨hp.runs_restore m, .run (by simp)⟩
  | enter m d => exact ⟨hp.runs_enter m d, .run (by simp)⟩
  | exit m => exact ⟨hp.runs_exit m, .run (by simp)⟩
  | nop => exact ⟨UserPrimitives.runs_nop, .nop⟩
  | svc => exact ⟨UserPrimitives.runs_svc, .svc⟩
  | bpt => exact ⟨UserPrimitives.runs_bpt, .bpt⟩
  | wait => exact ⟨hp.runs_wait, .run (by simp)⟩
  | dia => exact ⟨hp.runs_dia, .run (by simp)⟩
  | flag => exact ⟨UserPrimitives.runs_flag, .run (by simp)⟩
  | movst o | movs i o => exact ⟨hp.runs_string (.pure _) (hp.keeps_moveStep _), .string (by simp) (by simp)⟩
  | cmpst o | cmps i o =>
    exact ⟨hp.runs_string hp.keeps_equalFlags (hp.keeps_compareStep _), .string (by simp) (by simp)⟩
  | skpst o | skps i o => exact ⟨hp.runs_string (.pure _) fun _ => .pure _, .string (by simp) (by simp)⟩
  | rot i g1 g2 => exact ⟨hp.runs_shift hp.computes_rotate, .shift (by simp)⟩
  | ash i g1 g2 => exact ⟨hp.runs_shift hp.computes_arithmeticShift, .shift (by simp)⟩
  | lsh i g1 g2 => exact ⟨hp.runs_shift hp.computes_logicalShift, .shift (by simp)⟩
  | cbit i g1 g2 | cbiti i g1 g2 | sbit i g1 g2 | sbiti i g1 g2 | ibit i g1 g2 =>
    exact ⟨hp.runs_testBit _ _ i g1 g2, .testBit _ _ i g1 g2⟩
  | neg i g1 g2 => exact ⟨hp.runs_unary fun _ => setCF_flagsOnly _ _, .unary⟩
  | abs i g1 g2 => exact ⟨hp.runs_unary fun _ => setF_flagsOnly _, .unary⟩
  | not i g1 g2 | com i g1 g2 => exact ⟨hp.runs_unary fun _ => FlagsOnly.id, .unary⟩
  | addp i g1 g2 => exact ⟨hp.runs_binary fun _ b a => hp.computes_addPacked b a _, .binary (by simp)⟩
  | subp i g1 g2 => exact ⟨hp.runs_binary fun _ b a => hp.computes_subPacked b a _, .binary (by simp)⟩
  | movm i g1 g2 d => exact ⟨hp.runs_movm i g1 g2 d, .run (by simp)⟩
  | cmpm i g1 g2 d => exact ⟨hp.runs_cmpm i g1 g2 d, .run (by simp)⟩
  | inss i g1 g2 c => exact ⟨hp.runs_inss i g1 g2 c, .run (by simp)⟩
  | exts i g1 g2 c => exact ⟨hp.runs_exts i g1 g2 c, .run (by simp)⟩
  | movxbw i g1 g2 | movzbw i g1 g2 | movzd i g1 g2 | movxd i g1 g2 | mov i g1 g2 =>
    exact ⟨.run (hp.keeps_readWrite fun _ => FlagsOnly.id), .run (by simp)⟩
  | mul i g1 g2 => exact ⟨hp.runs_binary_pure fun _ _ _ => FlagsOnly.id, .binary (by simp)⟩
  | mei i g1 g2 => exact ⟨hp.runs_mei i g1 g2, .run (by simp)⟩
  | dei i g1 g2 => exact ⟨hp.runs_dei i g1 g2, .run (by simp)⟩
  | quo i g1 g2 | rem i g1 g2 | mod i g1 g2 | div i g1 g2 =>
    exact ⟨hp.runs_division fun _ _ => FlagsOnly.id, .division⟩
  | extf i r g1 g2 d => exact ⟨hp.runs_extf i r g1 g2 d, .run (by simp)⟩
  | cvtp i r g1 g2 => exact ⟨hp.runs_cvtp i r g1 g2, .run (by simp)⟩
  | ins i r g1 g2 d => exact ⟨hp.runs_ins i r g1 g2 d, .run (by simp)⟩
  | check i r g1 g2 => exact ⟨hp.runs_check i r g1 g2, .run (by simp)⟩
  | index i r g1 g2 => exact ⟨hp.runs_index i r g1 g2, .run (by simp)⟩
  | ffs i pad g1 g2 => exact ⟨hp.runs_ffs i pad g1 g2, .ffs i pad g1 g2⟩
  | movsu i g1 g2 => exact ⟨movsu_keeps i g1 g2, .run (by simp)⟩
  | movus i g1 g2 => exact ⟨movus_keeps i g1 g2, .run (by simp)⟩
  | movif | movlf | movfl | roundfi | truncfi | floorfi | movf | negf | slot11at7 | slot11at9 | slot11at11 | absf
  | slot11at15 | logbf | ccv3ic | ccv5qd | ccv4dq | ccv2ci | ccv1ci | ccv0ci | cmov0 | cmov1 | cmov2 | cmov3 =>
    exact ⟨hp.runs_likeMov, .likeMov⟩
  | addf | subf | slot11at6 | divf | mulf | slot11at14 | scalbf | ccal0 | ccal1 | ccal2 | ccal3 =>
    exact ⟨hp.runs_likeAdd, .likeAdd⟩
  | cmpf | slot11at3 | slot11at10 | polyf | dotf | ccmp0 | ccmp1 => exact ⟨hp.runs_likeCmp, .likeCmp⟩
  | slot12 | slot155 => exact ⟨hp.runs_slot, .slot⟩
  | lfsr | lcsr | lcr => exact ⟨hp.runs_slaveLoad, .slaveLoad⟩
  | sfsr | scsr | scr => exact ⟨hp.runs_slaveStore, .slaveStore⟩
  | cinv a i d pad g => exact ⟨cinv_keeps a i d pad g, .cinv a i d pad g⟩
  | setcfg i short pad =>
    exact ⟨.run ((Keeps.upd fun _ h => h.loadCfg _).bind fun _ => .pure _), .run (by simp [loadCfg_writeBuffer])⟩
  | addq i q g => exact ⟨hp.runs_addq i q g, .run (by simp)⟩
  | cmpq i q g => exact ⟨hp.runs_cmpq i q g, .run (by simp)⟩
  | spr i r g => exact ⟨hp.runs_spr i r g, .run (by simp)⟩
  | scond i c g => exact ⟨hp.runs_scond i c g, .run (by simp)⟩
  | acb i q g d => exact ⟨hp.runs_acb i q g d, .run (by simp)⟩
  | movq i q g => exact ⟨hp.runs_movq i q g, .run (by simp)⟩
  | lpr i r g =>
    exact ⟨.run ((hp.keeps_readOp g _).bind fun v => (loadAReg_keeps r v).bind fun _ => .pure _), .run (by simp)⟩
  | cxpd i g => exact ⟨hp.runs_cxpd i g, .cxpd i g⟩
  | bicpsr i g => exact ⟨bicpsr_keeps i g, .run (by simp)⟩
  | bispsr i g => exact ⟨bispsr_keeps i g, .run (by simp)⟩
  | jump i g => exact ⟨hp.runs_jump i g, .run (by simp)⟩
  | adjsp i g => exact ⟨hp.runs_adjsp i g, .run (by simp)⟩
  | jsr i g => exact ⟨hp.runs_jsr i g, .jsr i g⟩
  | casei i g => exact ⟨hp.runs_casei i g, .run (by simp)⟩
  | add i g1 g2 | addc i g1 g2 | sub i g1 g2 | subc i g1 g2 =>
    exact ⟨hp.runs_binary_pure fun _ _ _ => setCF_flagsOnly _ _, .binary (by simp)⟩
  | and i g1 g2 | or i g1 g2 | bic i g1 g2 | xor i g1 g2 =>
    exact ⟨hp.runs_binary_pure fun _ _ _ => FlagsOnly.id, .binary (by simp)⟩
  | cmp i g1 g2 => exact ⟨hp.runs_cmp i g1 g2, .run (by simp)⟩
  | addr i g1 g2 => exact ⟨hp.runs_addr i g1 g2, .run (by simp)⟩
  | tbit i g1 g2 => exact ⟨hp.runs_tbit i g1 g2, .tbit i g1 g2⟩
  | undef5 | undef6 | undef7 | undef8sel | undef8op | undef10 | undef13 | undef14 | catst0 | catst1
  | undef150 | undef56 | undef76 | undef96 | undefD6 | undefF6 | undef16 | undef17 | undef18 =>
    exact ⟨UserPrimitives.runs_undefined 3, .undefined 3⟩
  | undef19 => exact ⟨UserPrimitives.runs_undefined 1, .undefined 1⟩
  | undef3 => exact ⟨UserPrimitives.runs_undefined 2, .undefined 2⟩

end Sys2Proof.Machine
end

section
/-! SUPPORT. A step keeps the canonical part of the invariant: the inputs, the exceptions taken, the completion of an
instruction. -/

namespace Sys2Proof.Machine

/-- Every next state of the outcome has the property. -/
def Leaves (q : State → Prop) (o : Out) : Prop := ∀ t, o = .next t → q t

section Leaves

variable {q : State → Prop}

theorem Leaves.next {t : State} (h : q t) : Leaves q (.next t) := by
  rintro _ ⟨⟩
  exact h

theorem Leaves.refused (r : Refusal) : Leaves q (.refused r) := fun _ h => by cases h

theorem Leaves.fault (f : Fault) : Leaves q (.fault f) := fun _ h => by cases h

/-- Where a failed write may be recognized, the outcome is that of recognizing it or of going on (R625, R690). -/
theorem Leaves.reporting {s0 s : State} {go : State → Out}
    (herr : ∀ n, Leaves q (takeWriteError s0 { s with freeCount := n }))
    (hgo : ∀ n, Leaves q (go { s with freeCount := n })) : Leaves q (reporting s0 go s) := by
  unfold Machine.reporting
  split
  · simp only []
    split
    · exact herr _
    · exact hgo _
  · exact hgo s.freeCount

end Leaves

/-! ### What is left of a state -/

theorem setBit32_dsr {w : Word} (h : w &&& ~~~dsrMask = 0#32) (b : Bool) {k : Nat}
    (hk : k ∈ ([28, 29, 30, 31] : List Nat)) :
    setBit32 w k b &&& ~~~dsrMask = 0#32 := by
  have hbit : (1#32 <<< k) &&& ~~~dsrMask = 0#32 := by
    simp only [List.mem_cons, List.not_mem_nil, or_false] at hk
    rcases hk with rfl | rfl | rfl | rfl <;> decide
  rw [setBit32_and b hbit, h]

namespace Canonical

variable {s s0 : State}

theorem setPsrBit (h : Canonical s) (b : Bool) : setP b s.psr &&& ~~~psrMask = 0#16 :=
  (setBit_and s.psr b (by decide)).trans h.2.psr

theorem commitRefs (h : Canonical s) (d : DebugRegs) (rs : List Ref) (hit : Bool) :
    Canonical (Machine.commitRefs d rs hit s) := by
  obtain ⟨x, y, he, hx⟩ := commitRefs_frame d rs hit s
  have hmask : (~~~dsrMask : Word) = 0x0FFFFFFF#32 := by decide
  rw [he]
  refine h.withDsr ?_
  rw [hmask, hx, ← hmask]
  exact h.2.dsr

theorem debugTaken (h : Canonical s) : Canonical (Machine.debugTaken s) := by
  refine Canonical.withDsr (s := { s with dbgLatch := false, dbgPending := false }) h ?_
  cases s.dbgLatch with
  | true => exact setBit32_dsr h.2.dsr true (by decide)
  | false => exact h.2.dsr

theorem settle (h : Canonical s) : Canonical (Machine.settle s) := by
  unfold Machine.settle
  split
  · exact Canonical.commitRefs (s := { s with elementRefs := [] }) h _ _ _
  · exact h

/-- The registers of a suspended instruction are those of its start, memory is as it left it (R602). -/
theorem suspend (h0 : Canonical s0) (h : Canonical s) : Canonical (Machine.suspend s0 s) := ⟨h.1, h0.2⟩

end Canonical

theorem unlessChanged_masked {old new free mask : Word} (h : new &&& ~~~mask = 0#32) :
    unlessChanged old new (free &&& mask) &&& ~~~mask = 0#32 := by
  unfold unlessChanged
  split
  · exact h
  · exact and_mask_and_not free mask

theorem Implemented.freeSpans {s : State} (h : Implemented s.psr s.cfg s.dcr s.dsr) (xs : List (Word × Nat)) :
    Implemented (xs.foldl freeSpan s).psr (xs.foldl freeSpan s).cfg (xs.foldl freeSpan s).dcr
      (xs.foldl freeSpan s).dsr := by
  obtain ⟨m, dc, fc, he⟩ := freeSpans_frame xs s
  rw [he]
  exact h

theorem Implemented.freeCopies {s : State} (h : Implemented s.psr s.cfg s.dcr s.dsr) (xs : List (Word × Nat)) :
    Implemented (xs.foldl freeCopies s).psr (xs.foldl freeCopies s).cfg (xs.foldl freeCopies s).dcr
      (xs.foldl freeCopies s).dsr := by
  obtain ⟨dc, fc, he⟩ := freeCopies_frame xs s
  rw [he]
  exact h

/-- The registers that a terminated instruction leaves free hold no unimplemented bit (R603, R625). -/
theorem terminate_canonical {s0 s : State} (h0 : Canonical s0) (h : Canonical s) : Canonical (terminate s0 s) := by
  refine ⟨terminate_wf h.1, ?_⟩
  unfold terminate
  refine Implemented.freeSpans (Implemented.freeCopies ?_ _) _
  exact ⟨and_mask_and_not _ _, h0.2.cfg, unlessChanged_masked h.2.dcr, unlessChanged_masked h.2.dsr⟩

/-! ### Exceptions -/

theorem service_keeps (v : Byte) (copy : Half) (ret : Word) : Keeps Canonical (service v copy ret) := by
  have hp := canonical_primitives
  have hlast : Keeps Canonical (do push 4 (ret.setWidth 64); serialize) :=
    (hp.keeps_push _ _).bind fun _ => hp.keeps_serialize
  refine Keeps.getS.bind fun s0 => (hp.keeps_push _ _).bind fun _ => Keeps.getS.bind fun s =>
    Keeps.join (hp.keeps_setSp _) (hp.keeps_push _ _) fun _ => (hp.keeps_memRead32 _).bind fun entry => ?_
  have hpc (a : Word) : Keeps Canonical (upd fun s => { s with pc := a }) := Keeps.upd fun _ h => h
  refine Keeps.ite ((hpc entry).bind fun _ => hlast) ?_
  refine Keeps.bind (Keeps.upd fun t h => hp.mod t _ h) fun _ => (hp.keeps_memRead32 _).bind fun base =>
    (hpc _).bind fun _ => (hp.keeps_memRead32 _).bind fun sb => ?_
  exact Keeps.bind (Keeps.upd fun t h => hp.sb t _ h) fun _ => hlast

theorem entryPsr_masked {p : Half} (h : p &&& ~~~psrMask = 0#16) (clearI : Bool) :
    entryPsr clearI p &&& ~~~psrMask = 0#16 := by
  have hclear (m : Half) : p &&& m &&& ~~~psrMask = 0#16 := by
    rw [BitVec.and_assoc, BitVec.and_comm m, ← BitVec.and_assoc, h]
    exact BitVec.zero_and
  unfold entryPsr
  split
  all_goals exact hclear _

theorem takeException_canonical {s : State} {clearP clearI : Bool} {vector : M Byte} {ret : Word} (h : Canonical s)
    (hv : Keeps Canonical vector) : Leaves Canonical (takeException clearP clearI vector ret s) := by
  intro t ht
  have hcopy : entryCopy clearP s.psr &&& ~~~psrMask = 0#16 := by
    cases clearP with
    | true => exact h.setPsrBit false
    | false => exact h.2.psr
  have hrun : Keeps Canonical (vector >>= fun v => service v (entryCopy clearP s.psr) ret) :=
    hv.bind fun v => service_keeps v _ _
  have hleft := hrun _ (h.withPsr (entryPsr_masked hcopy clearI))
  obtain ⟨u, he, rfl⟩ | ⟨e, u, he, rfl⟩ := takeException_next ht
  · rw [entryRun] at he
    rw [he] at hleft
    exact Canonical.commitRefs hleft _ _ _
  · rw [entryRun] at he
    rw [he] at hleft
    exact hleft

theorem takeWriteError_canonical {s0 s : State} (h0 : Canonical s0) (h : Canonical s) :
    Leaves Canonical (takeWriteError s0 s) := by
  have hread : Keeps Canonical dummyStatusRead := fun _ h => h
  exact takeException_canonical (terminate_canonical h0 h) (hread.bind fun _ => Keeps.pure _)

theorem enterException_canonical {s0 s : State} {clearP clearI : Bool} {vector : M Byte} {ret : Word}
    {onEntry : State → State} (h0 : Canonical s0) (h : Canonical s) (he : Canonical (onEntry s))
    (hv : Keeps Canonical vector) : Leaves Canonical (enterException s0 clearP clearI vector ret s onEntry) := by
  unfold enterException
  split
  · exact takeWriteError_canonical h0 h
  · exact takeException_canonical he hv

theorem interruptVector_keeps (nmi : Bool) : Keeps Canonical (interruptVector nmi) := by
  refine Keeps.getS.bind fun s => Keeps.ite ((icuRead_keeps_canonical _ _).bind fun _ => Keeps.pure _)
    ((icuRead_keeps_canonical _ _).bind fun b => ?_)
  refine Keeps.ite (Keeps.pure _) (Keeps.ite (Keeps.pure _) (Keeps.ite ?_ (Keeps.stop _)))
  exact (canonical_primitives.keeps_memRead32 _).bind fun _ => icuRead_keeps_canonical _ _

/-- What may be taken before anything else: Trap (DBG), NMI or INT, of the state with its conditions settled (R645). -/
theorem pendingEvent_cases {s : State} {o : Out} (ho : pendingEvent s = some o) :
    o = takeDebug s (settle s) ∨ ∃ nmi, o = takeInterrupt s nmi (settle s) := by
  unfold pendingEvent at ho
  simp only [] at ho
  split at ho
  · cases ho
    exact .inl rfl
  · split at ho
    · cases ho
      exact .inr ⟨true, rfl⟩
    · split at ho
      · cases ho
        exact .inr ⟨false, rfl⟩
      · cases ho

/-- What may be taken before an instruction: Trap (TRC), or the early Trap (DBG) for a PC match (R645, R683). -/
theorem pendingTrace_cases {s : State} {o : Out} (ho : pendingTrace s = some o) :
    o = takeTrace s
      ∨ o = takeDebug s s fun u => { u with dsr := setBit32 u.dsr 30 true, freeCount := u.freeCount + 1 } := by
  unfold pendingTrace at ho
  split at ho
  · cases ho
    exact .inl rfl
  · split at ho
    · cases ho
      exact .inr rfl
    · cases ho

theorem pendingEvent_canonical {s : State} {o : Out} (h : Canonical s) (ho : pendingEvent s = some o) :
    Leaves Canonical o := by
  have hs := h.settle
  obtain rfl | ⟨nmi, rfl⟩ := pendingEvent_cases ho
  · exact enterException_canonical h hs hs.debugTaken (Keeps.pure _)
  · exact enterException_canonical h hs hs (interruptVector_keeps nmi)

theorem pendingTrace_canonical {s : State} {o : Out} (h : Canonical s) (ho : pendingTrace s = some o) :
    Leaves Canonical o := by
  obtain rfl | rfl := pendingTrace_cases ho
  · exact enterException_canonical h h h (Keeps.pure _)
  · have hmarked : Canonical { s with dsr := setBit32 s.dsr 30 true, freeCount := s.freeCount + 1 } :=
      h.withDsr (setBit32_dsr h.2.dsr true (by decide))
    exact enterException_canonical h h hmarked.debugTaken (Keeps.pure _)

/-! ### An instruction -/

theorem complete_canonical {s0 s : State} {len : Nat} {d : Done} (h0 : Canonical s0) (h : Canonical s) :
    Leaves Canonical (complete len s0 d s) := by
  have hend {u : State} (hu : Canonical u) :
      Leaves Canonical (if d.overflow && s0.flagV then takeOverflow s0 u else .next u) := by
    split
    · exact enterException_canonical h0 hu hu (Keeps.pure _)
    · exact Leaves.next hu
  unfold complete
  refine hend ?_
  split
  · exact h
  · exact Canonical.commitRefs h _ _ _

theorem finish_canonical {s : State} {len : Nat} {body : M Done} (h : Canonical s) (hb : Keeps Canonical body) :
    Leaves Canonical (finish len body s) := by
  have hleft := hb s h
  unfold finish
  cases he : body s with
  | ok d t =>
    rw [he] at hleft
    exact Leaves.reporting (fun _ => takeWriteError_canonical h hleft) fun _ => complete_canonical h hleft
  | error e t =>
    rw [he] at hleft
    have hsusp := h.suspend hleft
    cases e with
    | trap k => exact enterException_canonical h hsusp hsusp (Keeps.pure _)
    | readError => exact enterException_canonical h hsusp hsusp (Keeps.pure _)
    | writeError => exact takeWriteError_canonical h hleft
    | fatal => exact Leaves.next hleft
    | refuse r => exact Leaves.refused r
    | fault f => exact Leaves.fault f

theorem exec_canonical {s : State} (h : Canonical s) (i : Instr) : Leaves Canonical (exec i s) := by
  obtain ⟨sh, body, he, hb⟩ := (exec_runs i).1 s
  rw [he]
  exact finish_canonical h hb

/-- What fetching leaves alone: everything but the instruction cache, the board's answers and the bookkeeping. -/
theorem fetched_eq (n : Nat) (s : State) : ∃ ic br rs fu fc,
    fetched n s = { s with icache := ic, busReplies := br, refs := rs, fetchUnit := fu, freeCount := fc } := by
  have hviews (l : List Word) (u : State) :
      ∃ ic br, l.foldl icLookup u = { u with icache := ic, busReplies := br } := by
    induction l generalizing u with
    | nil => exact ⟨u.icache, u.busReplies, rfl⟩
    | cons x rest ih =>
      obtain ⟨ic, br, hx⟩ := icLookup_frame u x
      rw [List.foldl_cons, hx]
      exact ih _
  obtain ⟨ic, br, hl⟩ := hviews (dwordsOf s.pc n) s
  unfold fetched afterViews
  rw [hl]
  exact ⟨_, _, _, _, _, rfl⟩

theorem fetched_canonical {s : State} (h : Canonical s) (n : Nat) : Canonical (fetched n (begin s)) := by
  obtain ⟨ic, br, rs, fu, fc, he⟩ := fetched_eq n (begin s)
  rw [he]
  exact Canonical.withPsr
    (s := { s with icache := ic, busReplies := br, refs := rs, fetchUnit := fu, freeCount := fc }) h (h.setPsrBit _)

theorem runInstruction_canonical {s : State} (h : Canonical s) : Leaves Canonical (runInstruction s) := by
  unfold runInstruction
  simp only []
  split
  · exact Leaves.refused _
  · next i rest _ =>
    have hf := fetched_canonical h (neededBytes (begin s) ((fetchFrom (begin s) (begin s).pc maxLength).headD 0#8)
      (maxLength - rest.length))
    split
    · exact Leaves.refused _
    · split
      · exact enterException_canonical hf hf hf (Keeps.pure _)
      · exact exec_canonical hf i

/-! ### Inputs -/

theorem applyReset_canonical {s : State} (h : Canonical s) : Canonical (applyReset s) := by
  refine ⟨applyReset_wf h.1, ?_⟩
  have hden (w : Word) : w &&& dcrMask &&& ~~~0x00800000#32 &&& ~~~dcrMask = 0#32 := by
    rw [BitVec.and_assoc _ _ (~~~dcrMask), BitVec.and_comm _ (~~~dcrMask), ← BitVec.and_assoc, and_mask_and_not]
    exact BitVec.zero_and
  have hcfg : (0x000000F0#32 : Word) &&& ~~~cfgMask = 0x000000F0#32 := by decide
  unfold applyReset
  refine Implemented.freeSpans ?_ _
  exact ⟨BitVec.zero_and, hcfg, hden _, and_mask_and_not _ _⟩

theorem driven_canonical {s : State} (h : Canonical s) (x : Input) (rest : List Input) :
    Canonical (driven s x rest) := by
  obtain ⟨ic, dc, sc, wb, hdriven⟩ := driven_frame s x rest
  rw [hdriven]
  exact ⟨externalWrites_wf h.1 x.writes, h.2⟩

/-- An input is what comes before its RST, RST, and the edges (R9, R703; log 41). -/
theorem applyInput_cons {s : State} {x : Input} {rest : List Input} (hinput : s.inputs = x :: rest) :
    ∃ nmi dbg, applyInput s = { sampleRst x.rst (driven s x rest) with nmiLatch := nmi, dbgLatch := dbg } := by
  have hdriven : x.invalidate.foldl applyInvalidation
      (externalWrites { s with inputs := rest, intLow := x.int } x.writes) = driven s x rest := rfl
  simp only [applyInput, hinput, hdriven]
  split
  · exact ⟨_, _, rfl⟩
  · exact ⟨_, _, rfl⟩

theorem sampleRst_canonical {s : State} (h : Canonical s) (low : Bool) : Canonical (sampleRst low s) := by
  unfold sampleRst
  split
  · split
    · exact h
    · exact applyReset_canonical h
  · exact h

theorem applyInput_canonical {s : State} (h : Canonical s) : Canonical (applyInput s) := by
  cases hinput : s.inputs with
  | nil => exact (applyInput_nil hinput).symm ▸ h
  | cons x rest =>
    obtain ⟨nmi, dbg, he⟩ := applyInput_cons hinput
    rw [he]
    exact sampleRst_canonical (driven_canonical h x rest) x.rst

/-! ### A step -/

theorem executingStep_canonical {s : State} (h : Canonical s) : Leaves Canonical (executingStep s) := by
  refine Leaves.reporting (fun _ => takeWriteError_canonical h h) fun n => ?_
  split
  · next o ho => exact pendingEvent_canonical (s := { s with freeCount := n }) h ho
  · split
    · next o ho => exact pendingTrace_canonical (s := { s with freeCount := n }) h ho
    · exact runInstruction_canonical (s := { s with freeCount := n }) h

theorem waitingStep_canonical {s : State} (h : Canonical s) : Leaves Canonical (waitingStep s) := by
  refine Leaves.reporting (fun _ => takeWriteError_canonical h h) fun n => ?_
  split
  · next o ho => exact pendingEvent_canonical (s := { s with freeCount := n }) h ho
  · exact Leaves.next h

theorem step_canonical {s : State} (h : Canonical s) : Leaves Canonical (step s) := by
  have hin := applyInput_canonical h
  unfold step cycle
  simp only []
  cases (applyInput s).op with
  | reset => exact Leaves.next hin
  | executing => exact executingStep_canonical hin
  | waiting => exact waitingStep_canonical hin
  | halted => exact Leaves.next hin

end Sys2Proof.Machine
end

section
/-! SUPPORT. A step leaves at most two stores waiting (R101): an entry writes them all or halts with two at most (R110,
R626). -/

namespace Sys2Proof.Machine

/-! ### Exceptions -/

/-- After a serializing operation no store waits (R110). -/
theorem serialize_ends_short : Ends Short serialize := by
  have hdrain : Ends Short drain := by
    intro s _ t h
    unfold drain settleWrites at h
    simp only [] at h
    split at h <;> cases h
    have hnil : s.writeBuffer.takeWhile (fun _ => !true) = [] := by cases s.writeBuffer <;> rfl
    exact (congrArg List.length hnil).trans_le (Nat.zero_le 2)
  exact hdrain.then_keeps fun _ => Keeps.upd fun _ h => h

theorem service_ends_short (v : Byte) (copy : Half) (ret : Word) : Ends Short (service v copy ret) := by
  have hlast : Ends Short (do push 4 (ret.setWidth 64); serialize) := Ends.bind fun _ => serialize_ends_short
  refine Ends.bind fun s0 => Ends.bind fun _ => Ends.bind fun s =>
    Ends.ite (Ends.bind fun _ => ?_) (Ends.bind fun _ => ?_)
  all_goals
    refine Ends.bind fun entry => Ends.ite (Ends.bind fun _ => hlast) ?_
    exact Ends.bind fun _ => Ends.bind fun _ => Ends.bind fun _ => Ends.bind fun _ => Ends.bind fun _ => hlast

/-- Whatever waits when an exception is taken, at most two stores wait after it. -/
theorem takeException_short {s : State} {clearP clearI : Bool} {vector : M Byte} {ret : Word} :
    Leaves Short (takeException clearP clearI vector ret s) := by
  intro t ht
  obtain ⟨u, he, rfl⟩ | ⟨e, u, -, rfl⟩ := takeException_next ht
  · have hends : Ends Short (vector >>= fun v => service v (entryCopy clearP s.psr) ret) :=
      Ends.bind fun v => service_ends_short v _ _
    exact hends _ () u he
  · exact List.length_take_le _ _

theorem takeWriteError_short {s0 s : State} : Leaves Short (takeWriteError s0 s) := takeException_short

theorem enterException_short {s0 s : State} {clearP clearI : Bool} {vector : M Byte} {ret : Word}
    {onEntry : State → State} : Leaves Short (enterException s0 clearP clearI vector ret s onEntry) := by
  unfold enterException
  split
  · exact takeWriteError_short
  · exact takeException_short

theorem pendingEvent_short {s : State} {o : Out} (ho : pendingEvent s = some o) : Leaves Short o := by
  obtain rfl | ⟨nmi, rfl⟩ := pendingEvent_cases ho
  · exact enterException_short
  · exact enterException_short

theorem pendingTrace_short {s : State} {o : Out} (ho : pendingTrace s = some o) : Leaves Short o := by
  obtain rfl | rfl := pendingTrace_cases ho
  · exact enterException_short
  · exact enterException_short

/-! ### An instruction -/

theorem complete_short {s0 s : State} {len : Nat} {d : Done} (h : Short s) : Leaves Short (complete len s0 d s) := by
  have hend {u : State} (hu : Short u) :
      Leaves Short (if d.overflow && s0.flagV then takeOverflow s0 u else .next u) := by
    split
    · exact enterException_short
    · exact Leaves.next hu
  unfold complete
  refine hend ?_
  split
  · exact h
  · exact h

theorem finish_short {s : State} {len : Nat} {body : M Done} (h : Short s) (hb : StaysShort body) :
    Leaves Short (finish len body s) := by
  have hleft := hb s h
  unfold finish
  cases he : body s with
  | ok d t =>
    rw [he] at hleft
    exact Leaves.reporting (fun _ => takeWriteError_short) fun _ => complete_short hleft
  | error e t =>
    rw [he] at hleft
    cases e with
    | trap k => exact enterException_short
    | readError => exact enterException_short
    | writeError => exact takeWriteError_short
    | fatal => exact Leaves.next (hleft fun h => by cases h)
    | refuse r => exact Leaves.refused r
    | fault f => exact Leaves.fault f

theorem exec_short {s : State} (h : Short s) (i : Instr) : Leaves Short (exec i s) := by
  obtain ⟨sh, body, he, hb⟩ := (exec_runs i).2 s
  rw [he]
  exact finish_short h hb

theorem fetched_short {s : State} (h : Short s) (n : Nat) : Short (fetched n (begin s)) := by
  obtain ⟨ic, br, rs, fu, fc, he⟩ := fetched_eq n (begin s)
  rw [he]
  exact h

theorem runInstruction_short {s : State} (h : Short s) : Leaves Short (runInstruction s) := by
  unfold runInstruction
  simp only []
  split
  · exact Leaves.refused _
  · split
    · exact Leaves.refused _
    · split
      · exact enterException_short
      · exact exec_short (fetched_short h _) _

/-! ### Inputs -/

/-- Writes by another bus master change what a waiting store would restore, and add no store (R101, R126; log 32). -/
theorem externalWrites_short {s : State} (h : Short s) (ws : List (Word × Byte)) : Short (externalWrites s ws) := by
  induction ws generalizing s with
  | nil => exact h
  | cons w rest ih => exact ih (s := externalWrite s w.1 w.2) ((List.length_map _).trans_le h)

theorem driven_short {s : State} (h : Short s) (x : Input) (rest : List Input) : Short (driven s x rest) := by
  have hext := externalWrites_short (s := { s with inputs := rest, intLow := x.int }) h x.writes
  obtain ⟨ic, dc, sc, hinv⟩ := applyInvalidation_frame x.invalidate
    (externalWrites { s with inputs := rest, intLow := x.int } x.writes)
  rw [driven, hinv]
  exact hext

theorem applyReset_short (s : State) : Short (applyReset s) := by
  rw [short_iff, (applyReset_wasReset s).writeBuffer]
  exact Nat.zero_le 2

theorem sampleRst_short {s : State} (h : Short s) (low : Bool) : Short (sampleRst low s) := by
  unfold sampleRst
  split
  · split
    · exact h
    · exact applyReset_short s
  · exact h

theorem applyInput_short {s : State} (h : Short s) : Short (applyInput s) := by
  cases hinput : s.inputs with
  | nil => exact (applyInput_nil hinput).symm ▸ h
  | cons x rest =>
    obtain ⟨nmi, dbg, he⟩ := applyInput_cons hinput
    rw [he]
    exact sampleRst_short (driven_short h x rest) x.rst

/-! ### A step -/

theorem executingStep_short {s : State} (h : Short s) : Leaves Short (executingStep s) := by
  refine Leaves.reporting (fun _ => takeWriteError_short) fun n => ?_
  split
  · next o ho => exact pendingEvent_short ho
  · split
    · next o ho => exact pendingTrace_short ho
    · exact runInstruction_short (s := { s with freeCount := n }) h

theorem waitingStep_short {s : State} (h : Short s) : Leaves Short (waitingStep s) := by
  refine Leaves.reporting (fun _ => takeWriteError_short) fun n => ?_
  split
  · next o ho => exact pendingEvent_short ho
  · exact Leaves.next h

theorem step_short {s : State} (h : Short s) : Leaves Short (step s) := by
  have hin := applyInput_short h
  unfold step cycle
  simp only []
  cases (applyInput s).op with
  | reset => exact Leaves.next hin
  | executing => exact executingStep_short hin
  | waiting => exact waitingStep_short hin
  | halted => exact Leaves.next hin

end Sys2Proof.Machine
end

section
/-! PROOF. Every step keeps the invariant of the machine. -/

namespace Sys2Proof.Machine

/-- Settles O7: the canonical part of the invariant is kept by every action however it ends, the bound on the write
buffer by every action that no failed write stops. -/
theorem stepKeepsInvariant : Obligations.StepKeepsInvariant := by
  unfold Obligations.StepKeepsInvariant
  intro s t hinv hstep
  obtain ⟨hcanonical, hshort⟩ := (inv_iff s).mp hinv
  exact (inv_iff t).mpr ⟨step_canonical hcanonical t hstep, step_short hshort t hstep⟩

end Sys2Proof.Machine
end
